-- ==== Sys2Proof/Word.lean ====
section
/-! DEFINITION. The word types of the Molune Nelosken N8 (R11, R21, R31, R115, R121, R247). -/

namespace Sys2Proof

/-- A 64-bit scalar value or address (R31). -/
abbrev Word := BitVec 64
/-- One byte of memory (R11). -/
abbrev Byte := BitVec 8
/-- A 16-bit label handle (R31, R121). -/
abbrev Handle := BitVec 16
/-- An environment: a mask of the 64 assumptions (R115). -/
abbrev Env := BitVec 64
/-- Logical time and stamps: 48 bits (R244). -/
abbrev Time := BitVec 48
/-- A 512-bit vector value or 64-byte record (R31, R98). -/
abbrev Line := BitVec 512

end Sys2Proof
end

