-- ==== Sys2Proof/Config.lean ====
section
/-! DEFINITION. What an implementation fixes and the free values. Every opaque constant here has no body: nothing can be
proved about its value, so a claim about the machine holds whatever it is. -/

namespace Sys2Proof.Config

/-- The tenant slots of a module, 0 to 63 (R21). -/
def slots : Nat := 64
/-- Clusters of the module mesh, 48 x 24 (R18). -/
def clusterCount : Nat := 1152
/-- Cores of the module (R21). -/
def coreCount : Nat := 9216
/-- Module identities that name a module (R21). -/
def moduleCount : Nat := 6144
/-- Microseconds are counted in core cycles of 3.6 GHz (R20). -/
def cyclesPerUs : Nat := 3600

/-- Core cycles that a step takes beyond the first: R10 fixes no cycle count (log 2). -/
opaque freeCycles : Nat → Nat
/-- A value that the spec leaves open, numbered by the counter of the state (log 2). -/
opaque freeWord : Nat → Word
/-- A byte that the spec leaves open (log 2). -/
opaque freeByte : Nat → Byte
/-- Whether a module identity other than this module's own belongs to the domain (R22). -/
opaque inDomain : Nat → Bool
/-- What another module's scratchpad answers to an access: module, offset in its remote window, moment. 0 performs it; 1 the
address lies in no core's portion; 2 the core serves another slot; 3 it lies in a closed Shutter (R24, R379, R396). -/
opaque remoteAnswer : Nat → Nat → Nat → Nat
/-- The set of a core's cache portion in which a line lies, by the number of sets (R226). -/
opaque cacheSet : Nat → Nat → Nat
/-- What a chunk whose elements do not share one scale code leaves in an accumulator element, and the flags OF to NX that it sets:
a function of the accumulator and of the pairs of elements, each as sign, magnitude, exponent and scale code (R110, log 28). -/
opaque mixedChunk : BitVec 32 → List ((Bool × Nat × Int × Nat) × (Bool × Nat × Int × Nat)) → BitVec 32 × BitVec 3
/-- The SHA-384 digest of the Clalux root public key, which the boot ROM holds (R388, log 2). -/
opaque rootDigest : List Byte
/-- The response of the physically unclonable function of Sill die 0 (R389, log 2). -/
opaque pufResponse : List Byte
/-- The salt and the information of HKDF, which R389 leaves open (log 2). -/
opaque hkdfSalt : List Byte
opaque hkdfInfo : List Byte
/-- The secret number of a signature, which ECDSA draws anew for each (R389, log 2). -/
opaque signNonce : Nat → Nat

end Sys2Proof.Config
end

