-- ==== Sys2Proof/Syntax.lean ====
section
/-! DEFINITION. The syntax. Instr names the operation: one constructor for every row of the table of operations and
events. An instruction as decoded is a name with its operands (Insn): Lean's runtime has no room for more than 244
constructors that carry fields, so the operands stand beside the name, in the instruction register of the state,
and not under the constructor. The event rows, which no word encodes, carry their arguments in the same way (Args). -/

namespace Sys2Proof

/-- The operations of the Hokunil set (R63 to R86) and, after them in kind, the events of engines, networks, clocks,
debug, host and boot: the rows of the table of operations and events, in its order. -/
inductive Instr where
  /-- ADD (R147) -/
  | add
  /-- SUB (R147) -/
  | sub
  /-- AND (R147) -/
  | and
  /-- OR (R147) -/
  | or
  /-- XOR (R147) -/
  | xor
  /-- ANDN (R147) -/
  | andn
  /-- SHL (R147) -/
  | shl
  /-- SHR (R147) -/
  | shr
  /-- SRA (R147) -/
  | sra
  /-- ROT (R147) -/
  | rot
  /-- MIN (R147) -/
  | min
  /-- MAX (R147) -/
  | max
  /-- MINU (R147) -/
  | minu
  /-- MAXU (R147) -/
  | maxu
  /-- SLT (R147) -/
  | slt
  /-- SLTU (R147) -/
  | sltu
  /-- MUL (R148) -/
  | mul
  /-- MULH (R148) -/
  | mulh
  /-- MULHU (R148) -/
  | mulhu
  /-- DIV (R149) -/
  | div
  /-- DIVU (R149) -/
  | divu
  /-- REM (R149) -/
  | rem
  /-- REMU (R149) -/
  | remu
  /-- SEQ (R148) -/
  | seq
  /-- CSEL (R148) -/
  | csel
  /-- CLZ (R148) -/
  | clz
  /-- CTZ (R148) -/
  | ctz
  /-- POPC (R148) -/
  | popc
  /-- BREV (R148) -/
  | brev
  /-- BSWAP (R148) -/
  | bswap
  /-- SEXT (R148) -/
  | sext
  /-- ZEXT (R148) -/
  | zext
  /-- ADD_W (R150) -/
  | addW
  /-- SUB_W (R150) -/
  | subW
  /-- AND_W (R150) -/
  | andW
  /-- OR_W (R150) -/
  | orW
  /-- XOR_W (R150) -/
  | xorW
  /-- ANDN_W (R150) -/
  | andnW
  /-- SHL_W (R150) -/
  | shlW
  /-- SHR_W (R150) -/
  | shrW
  /-- SRA_W (R150) -/
  | sraW
  /-- ROT_W (R150) -/
  | rotW
  /-- MIN_W (R150) -/
  | minW
  /-- MAX_W (R150) -/
  | maxW
  /-- MINU_W (R150) -/
  | minuW
  /-- MAXU_W (R150) -/
  | maxuW
  /-- SLT_W (R150) -/
  | sltW
  /-- SLTU_W (R150) -/
  | sltuW
  /-- MUL_W (R150) -/
  | mulW
  /-- MULH_W (R150) -/
  | mulhW
  /-- MULHU_W (R150) -/
  | mulhuW
  /-- DIV_W (R150) -/
  | divW
  /-- DIVU_W (R150) -/
  | divuW
  /-- REM_W (R150) -/
  | remW
  /-- REMU_W (R150) -/
  | remuW
  /-- SEQ_W (R150) -/
  | seqW
  /-- CSEL_W (R150) -/
  | cselW
  /-- CLZ_W (R150) -/
  | clzW
  /-- CTZ_W (R150) -/
  | ctzW
  /-- POPC_W (R150) -/
  | popcW
  /-- BREV_W (R150) -/
  | brevW
  /-- BSWAP_W (R150) -/
  | bswapW
  /-- SEXT_W (R150) -/
  | sextW
  /-- ZEXT_W (R150) -/
  | zextW
  /-- BFX (R151) -/
  | bfx
  /-- BFI (R151) -/
  | bfi
  /-- LEA (R151) -/
  | lea
  /-- ADDI (R152) -/
  | addi
  /-- ANDI (R152) -/
  | andi
  /-- ORI (R152) -/
  | ori
  /-- XORI (R152) -/
  | xori
  /-- SHLI (R152) -/
  | shli
  /-- SHRI (R152) -/
  | shri
  /-- SRAI (R152) -/
  | srai
  /-- SLTI (R152) -/
  | slti
  /-- SLTIU (R152) -/
  | sltiu
  /-- LI (R152) -/
  | li
  /-- FADD (R153) -/
  | fadd
  /-- FSUB (R153) -/
  | fsub
  /-- FMUL (R153) -/
  | fmul
  /-- FDIV (R153) -/
  | fdiv
  /-- FSQRT (R153) -/
  | fsqrt
  /-- FMIN (R154) -/
  | fmin
  /-- FMAX (R154) -/
  | fmax
  /-- FSGNJ (R154) -/
  | fsgnj
  /-- FSGNJN (R154) -/
  | fsgnjn
  /-- FSGNJX (R154) -/
  | fsgnjx
  /-- FCLASS (R155) -/
  | fclass
  /-- FRECE (R156) -/
  | frece
  /-- FRSQE (R156) -/
  | frsqe
  /-- FCMPEQ (R154) -/
  | fcmpeq
  /-- FCMPLT (R154) -/
  | fcmplt
  /-- FCMPLE (R154) -/
  | fcmple
  /-- FMA (R157) -/
  | fma
  /-- FMS (R157) -/
  | fms
  /-- FNMA (R157) -/
  | fnma
  /-- FNMS (R157) -/
  | fnms
  /-- FCVT (R159) -/
  | fcvt
  /-- FADD_EXTENDED (R158) -/
  | faddX
  /-- FSUB_EXTENDED (R158) -/
  | fsubX
  /-- FMUL_EXTENDED (R158) -/
  | fmulX
  /-- FDIV_EXTENDED (R158) -/
  | fdivX
  /-- FSQRT_EXTENDED (R158) -/
  | fsqrtX
  /-- FMA_EXTENDED (R158) -/
  | fmaX
  /-- FMS_EXTENDED (R158) -/
  | fmsX
  /-- FNMA_EXTENDED (R158) -/
  | fnmaX
  /-- FNMS_EXTENDED (R158) -/
  | fnmsX
  /-- VADD (R163) -/
  | vadd
  /-- VSUB (R163) -/
  | vsub
  /-- VMUL (R163) -/
  | vmul
  /-- VMULH (R163) -/
  | vmulh
  /-- VMIN (R163) -/
  | vmin
  /-- VMAX (R163) -/
  | vmax
  /-- VMINU (R163) -/
  | vminu
  /-- VMAXU (R163) -/
  | vmaxu
  /-- VAND (R163) -/
  | vand
  /-- VOR (R163) -/
  | vor
  /-- VXOR (R163) -/
  | vxor
  /-- VSHL (R163) -/
  | vshl
  /-- VSHR (R163) -/
  | vshr
  /-- VSRA (R163) -/
  | vsra
  /-- VADDS (R163) -/
  | vadds
  /-- VSUBS (R163) -/
  | vsubs
  /-- VABS (R163) -/
  | vabs
  /-- VNEG (R163) -/
  | vneg
  /-- VFADD (R164) -/
  | vfadd
  /-- VFSUB (R164) -/
  | vfsub
  /-- VFMUL (R164) -/
  | vfmul
  /-- VFDIV (R164) -/
  | vfdiv
  /-- VFSQRT (R164) -/
  | vfsqrt
  /-- VFMIN (R164) -/
  | vfmin
  /-- VFMAX (R164) -/
  | vfmax
  /-- VFMA (R164) -/
  | vfma
  /-- VFMS (R164) -/
  | vfms
  /-- VFNMA (R164) -/
  | vfnma
  /-- VFRECE (R164) -/
  | vfrece
  /-- VFRSQE (R164) -/
  | vfrsqe
  /-- VFABS (R164) -/
  | vfabs
  /-- VFNEG (R164) -/
  | vfneg
  /-- VCMP (R165) -/
  | vcmp
  /-- VSEL (R166) -/
  | vsel
  /-- VPERM (R166) -/
  | vperm
  /-- VSLIDEUP (R166) -/
  | vslideup
  /-- VSLIDEDN (R166) -/
  | vslidedn
  /-- VIOTA (R166) -/
  | viota
  /-- VCOMP (R166) -/
  | vcomp
  /-- VMOV (R166) -/
  | vmov
  /-- VREDADD (R167) -/
  | vredadd
  /-- VREDMIN (R167) -/
  | vredmin
  /-- VREDMAX (R167) -/
  | vredmax
  /-- VREDMINU (R167) -/
  | vredminu
  /-- VREDMAXU (R167) -/
  | vredmaxu
  /-- VREDAND (R167) -/
  | vredand
  /-- VREDOR (R167) -/
  | vredor
  /-- VFREDADD (R167) -/
  | vfredadd
  /-- VFREDMIN (R167) -/
  | vfredmin
  /-- VFREDMAX (R167) -/
  | vfredmax
  /-- VBCAST (R168) -/
  | vbcast
  /-- VEXT (R168) -/
  | vext
  /-- VINS (R168) -/
  | vins
  /-- VCVT (R169) -/
  | vcvt
  /-- MAND (R176) -/
  | mand
  /-- MOR (R176) -/
  | mor
  /-- MXOR (R176) -/
  | mxor
  /-- MANDN (R176) -/
  | mandn
  /-- MNOT (R176) -/
  | mnot
  /-- MPOPC (R176) -/
  | mpopc
  /-- MFIRST (R176) -/
  | mfirst
  /-- MTOS (R176) -/
  | mtos
  /-- STOM (R176) -/
  | stom
  /-- VLD (R170) -/
  | vld
  /-- VST (R170) -/
  | vst
  /-- VLDS (R171) -/
  | vlds
  /-- VSTS (R171) -/
  | vsts
  /-- VGATH (R172) -/
  | vgath
  /-- VSCAT (R172) -/
  | vscat
  /-- J (R178) -/
  | j
  /-- CALL (R178) -/
  | call
  /-- BEQ (R177) -/
  | beq
  /-- BNE (R177) -/
  | bne
  /-- BLT (R177) -/
  | blt
  /-- BGE (R177) -/
  | bge
  /-- BLTU (R177) -/
  | bltu
  /-- BGEU (R177) -/
  | bgeu
  /-- BMANY (R177) -/
  | bmany
  /-- BMNONE (R177) -/
  | bmnone
  /-- JR (R179) -/
  | jr
  /-- LOOP (R180) -/
  | loop
  /-- DONE (R181) -/
  | done
  /-- YIELD (R181) -/
  | yield
  /-- NOP (R181) -/
  | nop
  /-- TFENCE (R332) -/
  | tfence
  /-- ERET (R339) -/
  | eret
  /-- HALT (R335) -/
  | halt
  /-- SLEEP (R334) -/
  | sleep
  /-- BAR (R282) -/
  | bar
  /-- TRAP (R333) -/
  | trap
  /-- GROW (R182) -/
  | grow
  /-- SHRINK (R183) -/
  | shrink
  /-- GETC (R184) -/
  | getc
  /-- SETC (R184) -/
  | setc
  /-- SETC_FLAGS (R40) -/
  | setcFlags
  /-- SETC_LSPLIT (R225) -/
  | setcLsplit
  /-- SETC_ACCMAP (R43) -/
  | setcAccmap
  /-- SETC_VPOOL (R227) -/
  | setcVpool
  /-- SETC_CARVE (R228) -/
  | setcCarve
  /-- SETC_ORDCFG (R245) -/
  | setcOrdcfg
  /-- SETC_MXWT (R205) -/
  | setcMxwt
  /-- SETC_MSQUOTA (R408) -/
  | setcMsquota
  /-- SETC_PIX (R184) -/
  | setcPix
  /-- XDEFR_DROP (R357) -/
  | xdefrDrop
  /-- XREG_WRITE (R338) -/
  | xregWrite
  /-- XLAB_WRITE (R338) -/
  | xlabWrite
  /-- LGET (R188) -/
  | lget
  /-- LSET (R187) -/
  | lset
  /-- LENV (R187) -/
  | lenv
  /-- LJOIN (R187) -/
  | ljoin
  /-- LCLR (R187) -/
  | lclr
  /-- LHOLD (R189) -/
  | lhold
  /-- LSEL (R189) -/
  | lsel
  /-- LCOUNT (R189) -/
  | lcount
  /-- LENVN (R189) -/
  | lenvn
  /-- LPROD (R187) -/
  | lprod
  /-- LFOCUS (R190) -/
  | lfocus
  /-- LCPUSH (R191) -/
  | lcpush
  /-- LCPOP (R191) -/
  | lcpop
  /-- ASSUME (R194) -/
  | assume
  /-- RETIRE (R135) -/
  | retire
  /-- NOGOOD (R193) -/
  | nogood
  /-- COMMIT (R135) -/
  | commit
  /-- LSCRUB (R135) -/
  | lscrub
  /-- LWAIT (R195) -/
  | lwait
  /-- LSTAT (R196) -/
  | lstat
  /-- LD (R269) -/
  | ld
  /-- ST (R269) -/
  | st
  /-- LDFE (R270) -/
  | ldfe
  /-- STFE (R270) -/
  | stfe
  /-- FESET (R270) -/
  | feset
  /-- FECLR (R270) -/
  | feclr
  /-- AADD (R272) -/
  | aadd
  /-- AAND (R272) -/
  | aand
  /-- AOR (R272) -/
  | aor
  /-- AXOR (R272) -/
  | axor
  /-- AMIN (R272) -/
  | amin
  /-- AMAX (R272) -/
  | amax
  /-- AMINU (R272) -/
  | aminu
  /-- AMAXU (R272) -/
  | amaxu
  /-- ASWAP (R272) -/
  | aswap
  /-- AFADDD (R272) -/
  | afaddd
  /-- AFADDS (R272) -/
  | afadds
  /-- ACAS (R272) -/
  | acas
  /-- ACAS2 (R272) -/
  | acas2
  /-- FENCE_E (R262) -/
  | fenceE
  /-- FENCE_EW (R262) -/
  | fenceEw
  /-- FENCE_SYS (R264) -/
  | fenceSys
  /-- FENCE_I (R273) -/
  | fenceI
  /-- SEND (R315) -/
  | send
  /-- SENDV (R316) -/
  | sendv
  /-- REPLY (R316) -/
  | reply
  /-- HOSTQ (R319) -/
  | hostq
  /-- CHSET (R321) -/
  | chset
  /-- CHBIND (R323) -/
  | chbind
  /-- WATCH (R324) -/
  | watch
  /-- UNWATCH (R324) -/
  | unwatch
  /-- LAUNCH (R327) -/
  | launch
  /-- CCWAIT (R329) -/
  | ccwait
  /-- CCANCEL (R306) -/
  | ccancel
  /-- CCREAD (R329) -/
  | ccread
  /-- ELECT (R330) -/
  | elect
  /-- SENDX (R317) -/
  | sendx
  /-- VFCVTN_N (R202) -/
  | vfcvtnN
  /-- VFCVTN_F (R202) -/
  | vfcvtnF
  /-- VLDT (R281) -/
  | vldt
  /-- VSTT (R281) -/
  | vstt
  /-- TOPEN (R277) -/
  | topen
  /-- TCLOSE (R278) -/
  | tclose
  /-- TACQ_RD (R278) -/
  | tacqRd
  /-- TACQ_WR (R278) -/
  | tacqWr
  /-- TREL (R257) -/
  | trel
  /-- TSPLIT (R279) -/
  | tsplit
  /-- TGIVE (R258) -/
  | tgive
  /-- TRENEW (R279) -/
  | trenew
  /-- TSTAT (R280) -/
  | tstat
  /-- TIDW (R197) -/
  | tidw
  /-- TIDR (R197) -/
  | tidr
  /-- MMA (R210) -/
  | mma
  /-- MMAS (R210) -/
  | mmas
  /-- MZERO (R213) -/
  | mzero
  /-- MLOAD (R213) -/
  | mload
  /-- MSTORE (R213) -/
  | mstore
  /-- MWAIT (R215) -/
  | mwait
  /-- BTGO (R283) -/
  | btgo
  /-- RINGWAIT (R288) -/
  | ringwait
  /-- SYNCW (R288) -/
  | syncw
  /-- CLGO (R289) -/
  | clgo
  /-- MSAVE (R342) -/
  | msave
  /-- CONTAIN_ARM (R343) -/
  | containArm
  /-- CONTAIN_CLOSE (R395) -/
  | containClose
  /-- CONTAIN_OPEN (R343) -/
  | containOpen
  /-- CONTAIN_PERM (R343) -/
  | containPerm
  /-- TLBI_PG (R344) -/
  | tlbiPg
  /-- TLBI_TN (R344) -/
  | tlbiTn
  /-- TLBI_ALL (R344) -/
  | tlbiAll
  /-- RESULT_LANDS (R79) -/
  | resultLands
  /-- TRAP_ENTRY (R336) -/
  | trapEntry
  /-- MESSAGE_ARRIVAL (R299) -/
  | messageArrival
  /-- RECORD_PLACED (R299) -/
  | recordPlaced
  /-- MESSAGE_LEAVES_QUEUE (R308) -/
  | messageLeavesQueue
  /-- MESSAGE_ANSWER (R300) -/
  | messageAnswer
  /-- SQWAKE_WAKE (R308) -/
  | sqwakeWake
  /-- CHANNEL_YIELD (R298) -/
  | channelYield
  /-- AGEING (R303) -/
  | ageing
  /-- CHSET_APPLY (R321) -/
  | chsetApply
  /-- CHBIND_APPLY (R323) -/
  | chbindApply
  /-- WATCH_REGISTERED (R324) -/
  | watchRegistered
  /-- LDFE_WAKE (R270) -/
  | ldfeWake
  /-- RINGWAIT_WAKE (R288) -/
  | ringwaitWake
  /-- SYNCW_WAKE (R288) -/
  | syncwWake
  /-- BAR_RELEASE (R282) -/
  | barRelease
  /-- ELECT_EXECUTE (R330) -/
  | electExecute
  /-- CCWAIT_WAKE (R329) -/
  | ccwaitWake
  /-- LWAIT_WAKE (R195) -/
  | lwaitWake
  /-- LWAIT_TIMEOUT (R195) -/
  | lwaitTimeout
  /-- SLEEP_EXPIRY (R334) -/
  | sleepExpiry
  /-- MWAIT_WAKE (R215) -/
  | mwaitWake
  /-- FENCE_COMPLETE (R273) -/
  | fenceComplete
  /-- STATE_BROADCAST_APPLY (R133) -/
  | stateBroadcastApply
  /-- TABLE_SWEEP (R133) -/
  | tableSweep
  /-- LABEL_OP_RETIRE (R194) -/
  | labelOpRetire
  /-- TIDW_RETIRE (R197) -/
  | tidwRetire
  /-- TRANSLATION_WALK (R238) -/
  | translationWalk
  /-- CACHE_FILL (R226) -/
  | cacheFill
  /-- TENURE_BLOCK_GRANT (R253) -/
  | tenureBlockGrant
  /-- TENUREWAIT (R256) -/
  | tenurewait
  /-- TENURE_RELEASE (R257) -/
  | tenureRelease
  /-- PAGE_RECALL (R259) -/
  | pageRecall
  /-- PAGE_RETURN (R259) -/
  | pageReturn
  /-- TLBI_COMPLETE (R239) -/
  | tlbiComplete
  /-- LTIME_TICK (R244) -/
  | ltimeTick
  /-- LTIME_BROADCAST (R244) -/
  | ltimeBroadcast
  /-- STAMP_SWEEP (R244) -/
  | stampSweep
  /-- CARVE_SAMPLE (R229) -/
  | carveSample
  /-- CLUSTER_POWER_GATE (R41) -/
  | clusterPowerGate
  /-- CLUSTER_POWER_UP (R41) -/
  | clusterPowerUp
  /-- MXE_GRANT (R204) -/
  | mxeGrant
  /-- MXE_COMMAND_COMPLETE (R203) -/
  | mxeCommandComplete
  /-- COPY (R285) -/
  | copy
  /-- TILE (R285) -/
  | tile
  /-- FILL (R285) -/
  | fill
  /-- COUNTED (R285) -/
  | counted
  /-- FEMARK (R285) -/
  | femark
  /-- COMPLETION_RECORD (R286) -/
  | completionRecord
  /-- COLLECTIVE_EXCHANGE (R289) -/
  | collectiveExchange
  /-- COLLECTIVE_COMPLETE (R290) -/
  | collectiveComplete
  /-- HALTEDPEER (R423) -/
  | haltedpeer
  /-- END_NOTICE (R423) -/
  | endNotice
  /-- CUT (R361) -/
  | cut
  /-- SAVE (R367) -/
  | save
  /-- RESTORE (R367) -/
  | restore
  /-- RESUME (R367) -/
  | resume
  /-- STOP_REQUEST (R361) -/
  | stopRequest
  /-- CORE_STOPPED (R361) -/
  | coreStopped
  /-- CUT_WAVE (R362) -/
  | cutWave
  /-- STOP (R363) -/
  | stop
  /-- CUT_COMMAND_COMPLETE (R360) -/
  | cutCommandComplete
  /-- TENANT_RECORD_WRITE (R377) -/
  | tenantRecordWrite
  /-- APPLIED (R377) -/
  | applied
  /-- FABRIC_ARRIVAL (R381) -/
  | fabricArrival
  /-- REGISTER_WRITE (R14) -/
  | registerWrite
  /-- PATROL_SCRUB (R390) -/
  | patrolScrub
  /-- DAMAGE_RECORD (R399) -/
  | damageRecord
  /-- HEARTBEAT (R406) -/
  | heartbeat
  /-- PEER_DEAD (R406) -/
  | peerDead
  /-- PEER_READMIT (R407) -/
  | peerReadmit
  /-- PFAIL (R409) -/
  | pfail
  /-- SUPPLY_RESTORED (R409) -/
  | supplyRestored
  /-- STORM_DOOR_OPEN (R410) -/
  | stormDoorOpen
  /-- QUIESCE (R410) -/
  | quiesce
  /-- HEADERS (R413) -/
  | headers
  /-- COPY_PHASE (R411) -/
  | copyPhase
  /-- COMMIT_PHASE (R415) -/
  | commitPhase
  /-- OVERRUN (R410) -/
  | overrun
  /-- MODULE_RESET (R429) -/
  | moduleReset
  /-- BLOB_MAILBOX (R388) -/
  | blobMailbox
  /-- ATTESTATION_REQUEST (R389) -/
  | attestationRequest
  /-- HOST_ACCESS (R387) -/
  | hostAccess
  /-- HOST_INBOUND_POLL (R386) -/
  | hostInboundPoll
  /-- HREQ (R417) -/
  | hreq
  /-- RREQ (R418) -/
  | rreq
  /-- STEP (R418) -/
  | step
  /-- BYPASS (R419) -/
  | bypass
  /-- IDCODE (R419) -/
  | idcode
  /-- SAMPLE_PRELOAD (R419) -/
  | samplePreload
  /-- EXTEST (R419) -/
  | extest
  /-- IEEE_1687_SELECT (R419) -/
  | ieee1687Select
  /-- SEGMENT_INCLUDE (R419) -/
  | segmentInclude
  /-- TRACE_DRAIN (R420) -/
  | traceDrain
  /-- LOUVRE_STORE (R425) -/
  | louvreStore
  /-- TELEMETRY_REFRESH (R427) -/
  | telemetryRefresh
  /-- LANE_EYE_MEASURE (R428) -/
  | laneEyeMeasure
  /-- MSAVE_RECORDED (R342) -/
  | msaveRecorded
  /-- CONTAIN_TAKEN (R343) -/
  | containTaken
  /-- CCANCEL_COMPLETE (R329) -/
  | ccancelComplete
  /-- HOSTQ_COMPLETE (R319) -/
  | hostqComplete
  /-- HOST_ATOMICOP (R384) -/
  | hostAtomicop
  deriving DecidableEq, Repr

/-- The operand fields of an instruction word, under the names of R67 and R75. A field that an instruction does not use
is zero. -/
structure Ops where
  /-- the switch marker (R63) -/
  sw : Bool := false
  d : BitVec 6 := 0
  a : BitVec 6 := 0
  b : BitVec 6 := 0
  c : BitVec 6 := 0
  e : BitVec 6 := 0
  /-- the governing mask MK -/
  k : BitVec 3 := 0
  /-- element width or format EW (R68) -/
  ew : BitVec 2 := 0
  /-- a format code that runs D, S, H, BF, or the LEA scale -/
  t : BitVec 2 := 0
  /-- rounding: RND, or FN of FCVT (R75, R71) -/
  rnd : BitVec 4 := 0
  /-- source conversion code -/
  x : BitVec 4 := 0
  /-- destination conversion code -/
  y : BitVec 3 := 0
  /-- SZ, MOD, the VCMP condition -/
  md : BitVec 12 := 0
  /-- IMM10, OFF7, OFF10, OFF22, SEL, IDX, IMM32 -/
  imm : BitVec 32 := 0
  /-- the 64-bit literal of LEN 10 and 11 (R64) -/
  lit : Option Word := none
  deriving DecidableEq, Repr

/-- A decoded instruction. -/
structure Insn where
  op : Instr
  ops : Ops
  deriving DecidableEq, Repr

/-- A message that a fabric port receives from another module (R381, R249, R127). -/
structure FabricMsg where
  dtid : BitVec 16
  score : BitVec 14
  smod : BitVec 13
  core : Nat
  chan : Nat
  rep : Bool
  sup : Bool
  payload : List Byte
  /-- none is POISON; the list is the environments in full form -/
  label : Option (List Env)
  time : Time
  /-- a start or a successor message with its counter, carve mark, launch and gang (R282, R305, R327) -/
  start : Bool := false
  succ : Bool := false
  carve : Bool := false
  ctr : BitVec 16 := 0
  launch : Nat := 0
  cores : Byte := 0
  /-- no message but the lowering of this module's counter by an activation of the other module (R305) -/
  done : Bool := false
  /-- no message but the freeing of the other module's launch counter ctr, which LEVEL may name here (R305) -/
  freed : Bool := false
  /-- no message but a change of the job's labels that the other module broadcasts: 0 ASSUME, 1 RETIRE, 2 COMMIT, 3 LSCRUB, 4 NOGOOD, with
  its environments (R133) -/
  lop : Option (Nat × List Env) := none
  deriving DecidableEq, Repr

/-- A configuration blob and what the boot that uses it finds outside the module (R388, R429). -/
structure BootBlob where
  raw : List Byte
  version : BitVec 32
  minVersion : BitVec 32
  modId : BitVec 13
  cap : BitVec 16
  capSill : BitVec 16
  debugOpen : Bool
  hwarn : Byte
  vwarn : Byte
  entry : Word
  /-- the supervisor image: physical address and bytes -/
  image : List (Nat × List Byte)
  /-- the host link as trained (R385) -/
  hostcap : Word
  /-- fabric and lane settings and the limits of tenant slots: kept with the blob, and the spec gives them no effect -/
  settings : List Byte := []
  slotLimits : List (Nat × Word) := []
  /-- header and payload, which the operator key signs (R388) -/
  body : List Byte := []
  /-- the public keys of Clalux and of the operator, the certificate's signed bytes, and the two signatures -/
  rootKey : Nat × Nat := (0, 0)
  opKey : Nat × Nat := (0, 0)
  certBody : List Byte := []
  certSig : Nat × Nat := (0, 0)
  sig : Nat × Nat := (0, 0)
  deriving DecidableEq, Repr

/-- The arguments of an event: which core, slot, cluster, message or table it concerns, and what the outside brings. -/
structure Args where
  /-- a core identity, cluster index, tenant slot, handle index or other first index -/
  n : Nat := 0
  /-- a resident slot, queue, channel or other second index -/
  m : Nat := 0
  /-- a third index -/
  k : Nat := 0
  flag : Bool := false
  word : Word := 0
  data : Word := 0
  rcd : Line := 0
  bytes : List Byte := []
  words : List Word := []
  /-- the granule from which each byte that comes in was formed, and that granule's label: none is POISON (R127, R131) -/
  srcs : List (Nat × Option (List Env)) := []
  msg : Option FabricMsg := none
  blob : Option BootBlob := none
  deriving DecidableEq, Repr

/-- The wide floating-point formats (R87). -/
inductive Fmt where
  | d | s | h | bf
  deriving DecidableEq, Repr

/-- The format of a two-bit code that runs D, S, H, BF (R71, R157). -/
def fmtDown (t : BitVec 2) : Fmt :=
  match t.toNat with
  | 0 => .d
  | 1 => .s
  | 2 => .h
  | _ => .bf

/-- The format of an EW code, which runs BF, H, S, D (R68, R87). -/
def fmtUp (e : BitVec 2) : Fmt :=
  match e.toNat with
  | 0 => .bf
  | 1 => .h
  | 2 => .s
  | _ => .d

end Sys2Proof
end

