-- ==== Sys2Proof/Machine/State.lean ====
section
/-! DEFINITION. The state of one module of the Molune Nelosken N8: everything the spec names, as plain data. -/

namespace Sys2Proof.Machine

/-- A finite map: keys rise, and a key that is absent has the value its reader gives as default. -/
abbrev FMap (α : Type) := List (Nat × α)

/-- The causes of R42. -/
inductive Cause where
  | illegal | regbound | priv | alignatom | xlate | prot | bounds | stalehandle | tenurewait | sendfull | unbound
  | labelovf | ltfull | ngfull | arith | poison | hostatom | swtrap | stop | pfail | checker | nakfenced
  deriving DecidableEq, Repr

/-- What a step may stop with. No behaviour that the spec describes ends a run: every trap is a next state. -/
inductive Fault where
  /-- Raised by no meaning: kept so that the machine has the three outcomes of the interface. Safe. -/
  | unreachable
  deriving DecidableEq, Repr

/-- Why an instruction has no meaning. -/
inductive Refusal where
  /-- The arm of Dispatch for an instruction that has no meaning yet. Safe: nothing is claimed of it. -/
  | notModelled (mnemonic : String)
  deriving DecidableEq, Repr

/-- A scalar or mask register: its value and its label handle (R31, R36). -/
structure Reg where
  val : Word := 0
  lab : Handle := 0
  deriving DecidableEq, Repr

/-- A vector register: 512 bits and one label handle for each quad (R31, R34). -/
structure VReg where
  val : Line := 0
  l0 : Handle := 0
  l1 : Handle := 0
  l2 : Handle := 0
  l3 : Handle := 0
  deriving DecidableEq, Repr

/-- The control-label stack, most recent first (R31, R191). -/
abbrev CStack := List Handle

/-- One register written by a landing result (R79). -/
inductive RegWrite where
  | s (n : BitVec 6) (v : Word) (l : Handle)
  | v (n : BitVec 4) (x : VReg)
  deriving DecidableEq, Repr

/-- The conditions of the issue that a deferred access keeps (R355). -/
structure Issue where
  pc : Word := 0
  raw : List (BitVec 32) := []
  rm : BitVec 3 := 0
  focus : Env := 0
  focld : Bool := false
  clab : Handle := 0
  /-- the gang for which an ELECT prefix made this access (R330) -/
  elect : Option Nat := none
  deriving DecidableEq, Repr

/-- An atomic operation of R271. -/
inductive AtomOp where
  | add | and | or | xor | min | max | minu | maxu | swap | faddd | fadds | cas | cas2
  deriving DecidableEq, Repr

/-- A memory access with the sources captured at its issue (R354, R355): what ERET performs again. -/
inductive LOp where
  /-- a division or square root: it cannot fault -/
  | arith
  /-- scalar load: address, bytes, sign extension, destination, label of the address -/
  | load (x : Word) (n : Nat) (sext : Bool) (d : BitVec 6) (la : Handle)
  | loadQ (x : Word) (d : BitVec 6) (la : Handle)
  /-- LDFE of a word that is not in the core's own scratchpad: it waits for the full bit (R270) -/
  | ldfe (x : Word) (d : BitVec 6) (la : Handle)
  /-- a store that waits for its target: address, bytes, label, and the full bit it sets or clears -/
  | store (x : Word) (bytes : List Byte) (l : Handle) (fe : Option Bool)
  /-- an atomic: address, destination, B, B+1, the expected pair, labels of the address and of what is stored -/
  | atom (op : AtomOp) (x : Word) (d : BitVec 6) (b b1 e e1 : Word) (la ls : Handle)
  /-- contiguous vector load: address, EW, mask, destination, labels before the tags, label of the mask -/
  | vload (x : Word) (ew : BitVec 2) (mask : Word) (d : BitVec 4) (pre mkl : List Handle)
  /-- strided or indexed vector load: addresses of the elements, first element to perform -/
  | vgather (xs : List Word) (ew : BitVec 2) (mask : Word) (d : BitVec 4) (pre : List (List Handle)) (mkl : List Handle) (j : Nat)
  | vstore (x : Word) (ew : BitVec 2) (mask : Word) (data : VReg) (pre mkl : List Handle)
  /-- strided or indexed vector store that waits for its target: addresses of the elements, data, first element to perform -/
  | vscatter (xs : List Word) (ew : BitVec 2) (mask : Word) (data : VReg) (pre : List (List Handle)) (mkl : List Handle) (j : Nat)
  /-- tile-addressed vector load: handle, offsets, dimension -/
  | tile (h offs : Word) (dim : BitVec 2) (ew : BitVec 2) (mask : Word) (d : BitVec 4) (pre mkl : List Handle)
  | clgo (x : Word) (d : BitVec 6) (la : Handle)
  /-- RINGWAIT and SYNCW: address, the value that ends no wait, destination, labels of the scalar sources (R288) -/
  | ringwait (x old : Word) (d : BitVec 6) (ls : List Handle)
  | syncw (x : Word) (old : BitVec 32) (d : BitVec 6) (ls : List Handle)
  deriving DecidableEq, Repr

/-- An outstanding long-latency result (R79): the registers it writes and the flags it carries. -/
structure Out where
  op : LOp
  iss : Issue
  writes : List RegWrite
  flags : Word := 0
  deriving DecidableEq, Repr

/-- An entry of the deferred list (R355). -/
structure Deferred where
  op : LOp
  iss : Issue
  cause : Cause
  xval : Word
  /-- what a gather had read below the faulting element: it lands when the fault is taken (R175) -/
  part : Option RegWrite := none
  /-- the flags of that part -/
  pflags : Word := 0
  deriving DecidableEq, Repr

/-- A trap that is raised and not yet entered (R336, R355). -/
structure PendTrap where
  cause : Cause
  xval : Word
  xpc : Word
  deferred : Bool := false
  xrpc : Word := 0
  /-- the element at which a long vector instruction faulted (R175) -/
  pix : Option Nat := none
  deriving DecidableEq, Repr

/-- What a handler will give back (R336, R337): the saved mode, control label and stack, and the shadow registers. -/
structure TrapSave where
  sup : Bool
  clab : Handle
  cstack : CStack
  shadow : Vector Reg 16
  /-- the handler is that of a forced stop (R363) -/
  stop : Bool := false
  /-- the deferred list of the interrupted activation (R355) -/
  deferred : List Deferred
  deriving DecidableEq, Repr

/-- What a parked activation waits for. -/
inductive Park where
  /-- results: R80; the activation resumes at its pc -/
  | outs
  /-- one result: R81 -/
  | room
  /-- DONE: results, and then the end (R181) -/
  | done
  /-- answers of messages: R305 -/
  | answers
  | sleep (till : Word)
  | sleepMsg (seen : Nat)
  /-- the address, the register, the label of the address, whether the LDFE is a marker (R80), and the conditions of its issue -/
  | ldfe (x : Word) (d : BitVec 6) (la : Handle) (sw : Bool) (iss : Issue)
  /-- an ERET that is to perform a recorded LDFE again, while its word is empty (R357) -/
  | ldfeAgain (x : Word)
  /-- as ldfe: the address, the value that ends no wait, the register, the labels of the scalar sources -/
  | ringwait (x : Word) (old : Word) (d : BitVec 6) (ls : List Handle) (sw : Bool) (iss : Issue)
  | syncw (x : Word) (old : BitVec 32) (d : BitVec 6) (ls : List Handle) (sw : Bool) (iss : Issue)
  /-- an ERET that is to perform a recorded RINGWAIT or SYNCW again, while its word, of so many bytes, has the old value (R357) -/
  | waitAgain (x : Word) (n old : Nat)
  | ccwait (key : Nat) (d : BitVec 6)
  | ccancel (key : Nat) (d : BitVec 6)
  /-- the label that is awaited, the label of the outcome, the issue, and the cycles after which the wait ends, 0 for no limit -/
  | lwait (a lab : Handle) (since limit : Word) (d : BitVec 6)
  | labelOp (id : Nat) (d : Option (BitVec 6))
  | tidw (id : Nat)
  | mwait (acc : BitVec 4)
  | fence (sel : BitVec 2)
  | bar (d : BitVec 6)
  | elect (d : BitVec 6)
  | chbind (rcd : Line) (b : Word) (d : BitVec 6)
  /-- the address as given, the channel, and the physical key of the word -/
  | watch (x : Word) (chan : BitVec 6) (key : Nat) (d : BitVec 6)
  | hostq (code : Word) (d : BitVec 6)
  /-- an acquisition: handle, destination with its label, 0 TACQ, 1 TOPEN, 2 TRENEW, start of the wait -/
  | tacq (h : Nat) (d : BitVec 6) (lab : Handle) (mode : BitVec 2) (since : Word)
  /-- a release: the entry and its generation; 0 TREL, 1 TCLOSE, 2 + k TGIVE to cluster k -/
  | trel (h : Nat) (gen : BitVec 24) (op : Nat)
  /-- a shootdown: PG, TN or ALL, the address, the slot, the page size -/
  | tlbi (sc : BitVec 2) (x : Word) (slot : Nat) (size : BitVec 2)
  | msave (code : Word) (d : BitVec 6)
  | contain (op : BitVec 2) (entry : BitVec 6) (rect : Word)
  deriving DecidableEq, Repr

/-- A record in a channel ring: its place and the descriptor's contents (R299, R300). -/
structure Rec where
  /-- unit at which the descriptor lies, units of the record, units of a pad record before it -/
  unit : Nat := 0
  units : Nat := 0
  pad : Nat := 0
  len : BitVec 9 := 0
  lab : Handle := 0
  score : BitVec 14 := 0
  smod : BitVec 13 := 0
  ctr : BitVec 16 := 0
  time : Time := 0
  start : Bool := false
  carve : Bool := false
  /-- where its counter lives: the slot, and the module when it is another (R305) -/
  tslot : Nat := 0
  home : Option Nat := none
  /-- its gang, and the launch it belongs to, 0 for none (R229, R282) -/
  gang : Option Nat := none
  launch : Nat := 0
  /-- the unbound-buffer entry that the record reports (R301) -/
  ubuf : Option Nat := none
  /-- discarded by a cancellation while it lay in the ring (R306): its units are freed in turn -/
  dead : Bool := false
  deriving DecidableEq, Repr

/-- An activation (R26 to R31, R369). -/
structure Act where
  pc : Word := 0
  sregs : Vector Reg 64
  vregs : Vector VReg 16
  mregs : Vector Reg 8
  /-- scalar allotment divided by 8, vector allotment divided by 4, resident slot (R41) -/
  sa : BitVec 4 := 2
  va : BitVec 3 := 0
  slot : Nat := 0
  clab : Handle := 0
  cstack : CStack := []
  flags : Word := 0
  focus : Env := 0
  focld : Word := 0
  pix : Word := 0
  sup : Bool := false
  chan : BitVec 6 := 0
  level : BitVec 3 := 0
  floor : Time := 0
  /-- its message: label, sender, counter, place of its record (R369) -/
  rcd : Rec := {}
  outs : List Out := []
  deferred : List Deferred := []
  /-- XDEFR.DEF and the resumption address it goes with (R356) -/
  dfr : Bool := false
  pend : Option PendTrap := none
  trap : Option TrapSave := none
  park : Option Park := none
  /-- the address after the instruction it is parked at -/
  npc : Word := 0
  /-- messages and CHSETs not yet answered (R305, R321) -/
  unanswered : Nat := 0
  chsets : Nat := 0
  /-- a model's own number, by which answers find their sender -/
  aid : Nat := 0
  /-- gang membership: key of the launch counter (R282) -/
  gang : Option Nat := none
  barGen : Nat := 0
  electGen : Nat := 0
  /-- the ELECT prefix in force: none, alone, or for the gang (R83, R330) -/
  elect : Option (Option Nat) := none
  /-- ready since (R302) -/
  readyAt : Word := 0
  /-- ended by a cancellation at its next marker (R306) -/
  cancelled : Bool := false
  /-- stopped by a cut, to re-execute on resumption (R361, R368) -/
  re : Bool := false
  /-- the counter among whose waiters a CCWAIT of this activation is counted, also while a cut has stopped it (R304, R361) -/
  waits : Option Nat := none
  /-- stamps of engine writes seen complete and not yet fenced (R262) -/
  engStamp : Option Time := none
  /-- a posted write to plain PCIe memory is not yet flushed (R264) -/
  posted : Bool := false
  deriving DecidableEq, Repr

/-- A freshly created activation before its message is put into it (R27). -/
def Act.blank : Act where
  sregs := Vector.replicate 64 {}
  vregs := Vector.replicate 16 {}
  mregs := Vector.replicate 8 {}

/-- A queued activation: it holds no registers (R26, R302). -/
structure Queued where
  chan : BitVec 6
  level : BitVec 3
  since : Word
  entry : Word
  rbase : BitVec 21
  rsize : BitVec 14
  rcd : Rec
  deriving DecidableEq, Repr

/-- A channel entry of 32 bytes (R296). -/
structure Chan where
  entry : Word := 0
  prio : BitVec 3 := 0
  bound : Bool := false
  en : Bool := false
  hold : Bool := false
  ready : Bool := false
  auto : Bool := false
  contig : Bool := false
  rep : Bool := false
  act : Bool := false
  pend : BitVec 14 := 0
  rbase : BitVec 21 := 0
  rsize : BitVec 14 := 0
  rhead : BitVec 14 := 0
  rtail : BitVec 14 := 0
  /-- units in use: RHEAD equal to RTAIL is an empty or a full ring -/
  used : Nat := 0
  region : BitVec 21 := 0
  level : BitVec 16 := 0
  /-- where the counter in LEVEL lives: the slot of the launch, and the module when it is another (R305) -/
  lslot : Nat := 0
  lhome : Option Nat := none
  /-- the launch of the start message that wrote LEVEL (R229) -/
  llaunch : Nat := 0
  lve : Bool := false
  rgsize : BitVec 14 := 0
  /-- records placed and not yet yielded, oldest first -/
  recs : List Rec := []
  deriving DecidableEq, Repr

/-- A label as it travels: none is POISON, otherwise its environments (R116, R127). -/
abbrev Lab := Option (List Env)

/-- A message under way (R299, R308, R315, R321, R430). -/
structure Msg where
  core : Nat
  dmod : BitVec 13 := 0
  chan : BitVec 6
  /-- 0 REQ, 1 REP, 2 posted by hardware (R300) -/
  net : BitVec 2
  payload : List Byte := []
  lab : Lab := some [0]
  score : BitVec 14 := 0
  smod : BitVec 13 := 0
  ctr : BitVec 16 := 0
  time : Time := 0
  start : Bool := false
  succ : Bool := false
  carve : Bool := false
  /-- the module of its counter, when it is another; the launch, and the cores of its gang in a cluster (R282, R305) -/
  home : Option Nat := none
  launch : Nat := 0
  cores : Byte := 0
  /-- the sender ran in supervisor mode -/
  sup : Bool := false
  /-- addressed by expert index through an invalid alias (R310) -/
  badAlias : Bool := false
  /-- the activation that waits for the answer: core and number -/
  from_ : Option (Nat × Nat) := none
  /-- a CHSET operation in place of a payload (R321) -/
  chset : Option (BitVec 6) := none
  color : Bool := false
  tslot : Nat := 0
  /-- place in the sending order of its core (R309); of a message from another module, in the order of arrival at the ports -/
  seq : Nat := 0
  ubuf : Option Nat := none
  /-- a watch post (R325) -/
  watch : Bool := false
  /-- a cut has counted its arrival (R362) -/
  counted : Bool := false
  /-- posted by hardware: the core at which a cut counts its sending (R362, R430) -/
  poster : Option Nat := none
  /-- the module from which a fabric port took it in (R250, R263) -/
  via : Option Nat := none
  deriving DecidableEq, Repr

/-- An answer under way to a sending core (R300). -/
structure Answer where
  core : Nat
  aid : Nat
  /-- 0 accepted, 1 refused, 2 dropped as too large -/
  kind : Nat
  chset : Bool := false
  deriving DecidableEq, Repr

/-- A range of the must-save set (R342). -/
structure MustSave where
  addr : Word
  len : Word
  /-- physical keys of the frames, one for each 64 KiB or scratchpad -/
  frames : List Nat
  pages : List Word
  tslot : Nat
  deriving DecidableEq, Repr

/-- A copy of a line in the cache portion of a core (R226, R247). -/
structure Copy where
  key : Nat
  bytes : List Byte
  labs : List Handle
  full : Bool := true
  wts : Time
  lease : Time
  deriving DecidableEq, Repr

/-- A core (R20; the registers of scope C in R38). -/
structure Core where
  tslot : BitVec 6 := 0
  lpol : Bool := false
  xcause : Word := 0
  xval : Word := 0
  xpc : Word := 0
  xvec : Word := 0
  uvec : Word := 0
  xdeleg : Word := 0
  lsplit : BitVec 6 := 32
  vpool : BitVec 3 := 0
  carve : Word := 0
  age : BitVec 16 := 0
  chbase : Word := 0
  msquota : Word := 0
  dmapbase : Word := 0
  accmap : BitVec 16 := 0
  /-- releases that wait for the queues (R43) -/
  accRel : BitVec 16 := 0
  rngst : Word := 0
  ptroot : Word := 0
  sqwake : Word := 0
  msgcnt : Word := 0
  hqbase : Word := 0
  xrpc : Word := 0
  ctxbase : Word := 0
  color : Word := 0
  /-- cycles of the clock that this core did not count while gated (R41) -/
  gatedCycles : Word := 0
  running : Bool := false
  act : Act := Act.blank
  parked : List Act := []
  ready : List Act := []
  queue : List Queued := []
  /-- a held write or a wait that stalls the core without parking (R81, R308) -/
  stalled : Bool := false
  /-- since when the next instruction stalls (R256) -/
  stallSince : Option Word := none
  /-- the stalled access has waited beyond TWAIT (R256) -/
  twait : Bool := false
  chans : Vector Chan 64 := Vector.replicate 64 {}
  /-- the unbound buffer: the held message and the channel-63 report it waits on (R301) -/
  unbound : FMap (Msg × Handle) := []
  sendSeq : Nat := 0
  sendReq : List Msg := []
  sendRep : List Msg := []
  watches : FMap (Word × BitVec 6 × Nat) := []
  halted : Bool := false
  stepping : Bool := false
  accepted : Nat := 0
  nextAid : Nat := 0
  /-- the core's part in a cut (R361, R362) -/
  stopReq : Bool := false
  sentOld : Nat := 0
  recvOld : Nat := 0
  /-- the same counts of the colour that the core takes up at its stop: those of the next cut (R362) -/
  sentNew : Nat := 0
  recvNew : Nat := 0
  /-- copies of lines, the most recently used first: the private part, and the part that holds victims (R226, R227) -/
  copies : List Copy := []
  victims : List Copy := []
  /-- adaptive carve in force: the launch, the scratchpad units, the least cache size (R228, R229) -/
  carveRun : Option (Nat × BitVec 6 × BitVec 6) := none
  mustSave : List MustSave := []
  /-- PFAIL of the present loss of supply is taken (R409) -/
  pfDone : Bool := false
  deriving DecidableEq, Repr

/-- A core right after reset (R38, R43, R429). -/
def Core.reset (c : Nat) : Core :=
  { accmap := 3 <<< (2 * (c % 8)), rngst := BitVec.ofNat 64 (c + 1) }

/-- A head of a label table with its chain (R122). -/
structure Head where
  envs : List Env
  /-- indices of the continuations -/
  conts : List Nat := []
  rc : BitVec 24 := 0
  tslot : BitVec 6 := 0
  damaged : Bool := false
  deriving DecidableEq, Repr

/-- A label table: its heads by index (R121). -/
abbrev LTable := FMap Head

/-- An accumulator of the MXE (R35, R206, R216). -/
structure Accum where
  vals : List (BitVec 32) := []
  lab : Handle := 0
  kdone : Nat := 0
  /-- V: a command has begun here and not completed -/
  v : Bool := false
  pfl : BitVec 9 := 0
  /-- the fault that MWAIT will raise: cause, XVAL -/
  pend : Option (Cause × Word) := none
  /-- by activation number, the greatest stamp of its MSTOREs of this accumulator that no MWAIT has seen (R262) -/
  wmax : FMap Time := []
  deriving DecidableEq, Repr

/-- One operand of a matrix command: the copies of its record and box, its handle's index (R101, R208). -/
structure Operand where
  rcd : Line := 0
  box : BitVec 256 := 0
  handle : Option Nat := none
  deriving DecidableEq, Repr

/-- The kinds of matrix command (R210, R213). -/
inductive MxKind where
  | mma | mmas | mzero | mload | mstore
  deriving DecidableEq, Repr

/-- A command of an MXE queue with what it captured at issue (R203, R212, R213, R216). -/
structure MxCmd where
  kind : MxKind
  acc : BitVec 4
  a : Operand := {}
  b : Operand := {}
  ctl : Word := 0
  /-- the metadata base of se, when E is not 0 -/
  metaW : Option Word := none
  /-- the 4 KiB of MLOAD and MSTORE as translated at issue: key, offset, length of each part of a granule -/
  spans : List (Nat × Nat × Nat) := []
  /-- the lines among them that keep stamps (R246) -/
  lines : List Nat := []
  addr : Word := 0
  /-- the command label; MLOAD keeps the label of sa here and CLAB in lab2 -/
  lab : Handle := 0
  lab2 : Handle := 0
  core : Nat
  aid : Nat
  tslot : BitVec 6 := 0
  sup : Bool := false
  begun : Bool := false
  done : Nat := 0
  discard : Bool := false
  /-- since when it waits for a release, 0 for not (R256) -/
  since : Word := 0
  deriving DecidableEq, Repr

/-- An MXE queue: active and shadow command; after a fault, the accumulator whose MWAIT is to raise it: until then the
queue discards what it accepts (R203, R216). -/
structure MxQueue where
  active : Option MxCmd := none
  shadow : Option MxCmd := none
  fault : Option (BitVec 4) := none
  deriving DecidableEq, Repr

/-- A channel of the block-transfer engine (R283 to R287, R431). -/
structure Bte where
  state : BitVec 2 := 0
  cause : Byte := 0
  stage : BitVec 3 := 0
  raddr : Word := 0
  faddr : Word := 0
  queued : Word := 0
  bytes : BitVec 32 := 0
  /-- the current record as fetched, its body, its tensor record and box, the place reached in its data -/
  cur : Option Line := none
  body : Option Line := none
  tcopy : Line := 0
  box : BitVec 256 := 0
  pos : Nat := 0
  /-- runs of a COUNTED record done, and its count once read -/
  iter : Nat := 0
  count : Option Nat := none
  /-- the record's work is done and its completion entry is owed: status and cause -/
  owed : Option (BitVec 8 × BitVec 8) := none
  flg : BitVec 9 := 0
  lab : Handle := 0
  qlab : Handle := 0
  core : Nat := 0
  aid : Nat := 0
  sup : Bool := false
  /-- the chain stops at the current record, which ends CANCELLED (R306) -/
  cancel : Bool := false
  /-- since when the record waits for a release, 0 for not, at which address, and at which stage (R256, R431) -/
  since : Word := 0
  waitAt : Word := 0
  waitStage : BitVec 3 := 0
  /-- the completion entry is written -/
  put : Bool := false
  /-- the record's label, the greatest stamp of the chain's writes, FCAUSE is written; cause, stage and address for the halt -/
  rlab : Handle := 0
  wmax : Option Time := none
  fc : Bool := false
  hcause : Byte := 0
  hstage : BitVec 3 := 0
  haddr : Word := 0
  /-- who queued the waiting chain head -/
  qcore : Nat := 0
  qaid : Nat := 0
  qsup : Bool := false
  deriving DecidableEq, Repr

/-- A byte that a collective moves, with the granules it comes from and their labels (R131). -/
structure CByte where
  val : Byte
  srcs : List (Nat × Lab)
  deriving DecidableEq, Repr

/-- A collective that a CLE has accepted (R289, R422, R423). -/
structure Coll where
  seq : Nat
  rcd : Line
  addr : Word
  core : Nat
  aid : Nat
  sup : Bool
  lab : Handle
  /-- the result's bytes, once the members have exchanged -/
  data : Option (List CByte) := none
  flg : BitVec 9 := 0
  /-- live members met so far, and the time of the last progress (R423) -/
  met : Nat := 0
  since : Word := 0
  /-- status and cause to report, when it ends early -/
  ending : Option (BitVec 8 × BitVec 8) := none
  /-- an end notice has come; it came while the endpoint was halted (R423) -/
  notice : Bool := false
  kept : Bool := false
  /-- since when its writes wait for a release, 0 for not (R256) -/
  waitSince : Word := 0
  deriving DecidableEq, Repr

/-- The gang of a launch on one cluster (R282, R330). -/
structure Gang where
  mask : BitVec 8
  done : BitVec 8 := 0
  barGen : Nat := 0
  barArr : List (Nat × Time) := []
  electGen : Nat := 0
  /-- results of ELECT by generation: value, label handle, floor, members still to take it (R330) -/
  results : FMap (Word × Handle × Time × BitVec 8) := []
  deriving DecidableEq, Repr

/-- The debug module of a cluster (R416 to R420). -/
structure Debug where
  xten : Byte := 0xFF
  bfrz : Bool := true
  frozen : Bool := false
  scanned : Bool := false
  tcfg : Word := 0
  trring : Word := 0
  trdrop : Word := 0
  /-- trace records of 16 bytes not yet drained, and those lost since the last one kept (R420) -/
  buffer : List (List Byte) := []
  lost : Nat := 0
  deriving DecidableEq, Repr

/-- A translation kept by a cluster (R238): slot, size, page, leaf entry. -/
structure TEntry where
  tslot : Nat
  size : BitVec 2
  page : Word
  leaf : Word
  deriving DecidableEq, Repr

/-- A cluster (R19; the registers of scope K in R38). -/
structure Cluster where
  ltime : Time := 0
  /-- the clock at the last automatic tick (R244) -/
  tickAt : Word := 0
  /-- LEASE 64, TICK 64, TSKIP 20, TWAIT 1,000 (R245) -/
  ordcfg : Word := 0x3E80140400040
  mxwt : Word := 0x11111111
  clwdog : Word := 50000
  errcnt : Word := 0
  clt : LTable := []
  accs : Vector Accum 16 := Vector.replicate 16 {}
  mxq : Vector MxQueue 8 := Vector.replicate 8 {}
  /-- the queue that was granted last and its grants in this turn (R204): after reset the next turn is queue 0's -/
  mxTurn : Nat := 7
  mxUsed : Nat := 16
  /-- where the grant under way of that queue ends; 0 when none is under way (R204, R217) -/
  mxEnd : Nat := 0
  bte : Vector Bte 16 := Vector.replicate 16 {}
  colls : List Coll := []
  collSeq : Nat := 0
  gangs : FMap Gang := []
  dbg : Debug := {}
  gated : Bool := false
  /-- since when it is gated (R41) -/
  gatedAt : Word := 0
  tcache : List TEntry := []
  /-- the core that takes the next victim line (R227) -/
  poolNext : Nat := 0
  deriving DecidableEq, Repr

/-- Write stamp and read-lease end of a line (R246). -/
structure Stamp where
  wts : Time := 0
  rts : Time := 0
  deriving DecidableEq, Repr

/-- The assumption state and nogoods of a job at one replica (R117, R132). -/
structure JobLab where
  live : Env := 0
  premise : Env := 0
  retired : Env := 0
  /-- valid nogood entries by number, 0 to 255 -/
  nogoods : FMap Env := []
  deriving DecidableEq, Repr

/-- The state of a completion counter (R304). -/
inductive CState where
  | free | open_ | zero | cancelled
  deriving DecidableEq, Repr

/-- A completion counter (R304, R305). -/
structure Counter where
  count : BitVec 32 := 0
  state : CState := .free
  time : Time := 0
  /-- the counter that a launch or graph counts to -/
  parent : Nat := 0
  succ : Word := 0
  lab : Lab := some [0]
  core : Nat := 0
  rect : Word := 0
  chan : BitVec 6 := 0
  sup : Bool := false
  aid : Nat := 0
  /-- the launching activation is still resident and has not returned from CCWAIT (R327) -/
  held : Bool := false
  /-- the launch that opened this counter (R327) -/
  by_ : Nat := 0
  /-- that launch's number among all launches of the module (R229) -/
  launch : Nat := 0
  waiters : Nat := 0
  zeros : Nat := 0
  deriving DecidableEq, Repr

/-- The cut record of a tenant slot (R360 to R362). -/
structure Cut where
  state : BitVec 2 := 0
  busy : Bool := false
  err : Bool := false
  gen : Byte := 0
  limit : BitVec 16 := 0
  sent : Word := 0
  recv : Word := 0
  notify : Word := 0
  /-- the SAVE or RESTORE under way -/
  cmd : BitVec 3 := 0
  /-- commands done whose completion is still to come, oldest first, and whether they failed -/
  owed : List (BitVec 3 × Bool) := []
  /-- the colour of the last command's store, which its notice takes (R362) -/
  color : Bool := false
  since : Word := 0
  deriving DecidableEq, Repr

/-- A job: what the tenant of a slot owns (R30). -/
structure Job where
  lab : JobLab := {}
  /-- replicas on the dies that have not yet applied an outstanding change (R132, R133) -/
  reps : FMap JobLab := []
  tids : FMap Line := []
  counters : FMap Counter := []
  alias_ : FMap Word := []
  cut : Cut := {}
  /-- the greatest time of a label instruction that has retired (R195) -/
  labTime : Option Time := none
  deriving DecidableEq, Repr

/-- The label instructions that broadcast (R133, R194). -/
inductive LabKind where
  | assume | retire | commit | lscrub | nogood
  deriving DecidableEq, Repr

/-- A label instruction broadcast and not yet retired (R133). -/
structure LabOp where
  id : Nat
  kind : LabKind
  tslot : Nat
  envs : List Env
  status : Word
  /-- dies 0 to 7 whose replica is still to apply it -/
  dies : List Nat
  /-- tables that have swept: clusters, and DLTs as 2000 + die -/
  swept : List Nat := []
  /-- the heads that these sweeps have decided: table and index (R195) -/
  decided : List (Nat × Nat) := []
  core : Nat
  aid : Nat
  time : Time
  deriving DecidableEq, Repr

/-- A block of a handle (R252, R253): its key, its cell, its lines by physical key / 64, the translations it uses. -/
structure Block where
  key : Nat
  cell : List Nat
  lines : List Nat
  pages : List TEntry
  deriving DecidableEq, Repr

/-- An entry of the tile handle table (R251 to R258). -/
structure THandle where
  open_ : Bool := false
  gen : BitVec 24 := 1
  tslot : Nat := 0
  tid : BitVec 10 := 0
  box : BitVec 256 := 0
  rcd : Line := 0
  /-- 0 none, 1 read, 2 write -/
  kind : Nat := 0
  /-- cluster of the holder, or of the acquirer while wait is set -/
  holder : Nat := 0
  stale : Bool := false
  wait : Bool := false
  /-- the kind that an acquisition in progress wants, and since when it queues for its next block -/
  want : Nat := 0
  since : Word := 0
  /-- the floor at which the acquisition was issued, and the lease time that a TRENEW asks for (R253, R279) -/
  reqFloor : Time := 0
  ask : Time := 0
  /-- blocks in key order, of which the first so many are taken -/
  blocks : List Block := []
  taken : Nat := 0
  /-- E of read tenure, G of write tenure -/
  stamp : Time := 0
  /-- the acquirer's core and mode, for its translations (R239) -/
  core : Nat := 0
  sup : Bool := false
  deriving DecidableEq, Repr

/-- Tenure of a 64 KiB page between modules (R259). -/
structure PageTen where
  /-- holders: modules, and whether for write -/
  holders : List Nat := []
  write : Bool := false
  recalled : Bool := false
  stamp : Time := 0
  /-- slots that have accessed the page since the grant, one bit each (R406) -/
  slots : Word := 0
  deriving DecidableEq, Repr

/-- A Shutter entry (R343, R395). -/
structure Shutter where
  rect : Word := 0
  /-- 0 free, 1 armed, 2 closed -/
  state : BitVec 2 := 0
  perm : Bool := false
  deriving DecidableEq, Repr

/-- Telemetry registers of one die (R426). -/
structure DieTel where
  vin : BitVec 16 := 0
  iin : BitVec 16 := 0
  temp : BitVec 16 := 0
  bmarg : BitVec 16 := 0
  cap : BitVec 16 := 540
  capeff : BitVec 16 := 0
  guard : BitVec 16 := 20
  thr : Bool := false
  seq : Word := 0
  deriving DecidableEq, Repr

/-- Eye telemetry of one lane (R428). -/
structure LaneTel where
  hm : Byte := 0
  vm : Byte := 0
  fec : BitVec 16 := 0
  warn : Bool := false
  down : Bool := false
  hwarn : Byte := 40
  vwarn : Byte := 12
  deriving DecidableEq, Repr

/-- A damage record that waits for its ring: the slot whose ring it is, and the record without SEQ (R403). -/
structure DmgRec where
  tslot : Nat
  rcd : Line
  deriving DecidableEq, Repr

/-- What a damage ring counts: records written since reset, and records lost since the last one (R400, R403). -/
structure DmgRing where
  seq : Nat := 0
  lost : Nat := 0
  /-- the time of the last record written (R402) -/
  time : Option Time := none
  deriving DecidableEq, Repr

/-- The Louvre's configuration, the number of the next store and the time of the last (R424, R425). -/
structure Louvre where
  en : Bool := true
  period : BitVec 16 := 100
  lbase : Word := 0
  next : Nat := 0
  last : Word := 0
  deriving DecidableEq, Repr

/-- The phases of a loss of supply (R409 to R415). -/
inductive Phase where
  | up | failing | doorOpen | quiesced | headers | copied | committed | overrun
  deriving DecidableEq, Repr

/-- The hold-up engines (R408 to R415). -/
structure Storm where
  phase : Phase := .up
  /-- Storm Doors opened since manufacture (R413) -/
  doors : Nat := 0
  /-- the start of the loss, which becomes that of the Storm Door when it opens -/
  since : Word := 0
  /-- the start of the loss, from which the budget of R410 runs -/
  loss : Word := 0
  /-- this Storm Door writes the bank: OPENED was 0 (R415) -/
  writes : Bool := false
  bank : Bool := false
  deriving DecidableEq, Repr

/-- Boot, attestation and the host's mailboxes (R386 to R389, R429). -/
structure Boot where
  status : Byte := 0
  version : BitVec 16 := 0
  /-- the least version that a blob may have, kept in MRAM (R388) -/
  floor : BitVec 32 := 0
  flash : Option BootBlob := none
  /-- the blob that this boot has accepted -/
  used : Option BootBlob := none
  debugOpen : Bool := false
  blobAddr : Word := 0
  blobLen : BitVec 32 := 0
  /-- a store to 0x0108 has started the read of a blob (R386) -/
  blobRead : Bool := false
  /-- an accepted mailbox blob while it is being written to flash (R388) -/
  pending : Option BootBlob := none
  nonce : List Byte := []
  /-- the nonce as it stood when the host wrote 1 to the control word (R389) -/
  attNonce : List Byte := []
  attCtl : Word := 0
  reports : Word := 0
  /-- the report from 0x1040 to 0x113F -/
  report : List Byte := []
  /-- the inbound ring's header -/
  inBase : Word := 0
  inLog : BitVec 4 := 0
  inHead : Word := 0
  inTail : Word := 0
  deriving DecidableEq, Repr

/-- What the host got for its last request (R384, R387). -/
structure HostOut where
  bytes : List Byte := []
  /-- Unsupported Request -/
  ur : Bool := false
  /-- poisoned data -/
  poison : Bool := false
  deriving DecidableEq, Repr

/-- The TAP instructions of R419. -/
inductive Tap where
  | bypass | idcode | samplePreload | extest | ieee1687
  deriving DecidableEq, Repr

/-- A peer table entry (R405 to R407). -/
structure Peer where
  act : Bool := false
  dead : Bool := false
  missed : Nat := 0
  /-- CYCLE of core 0 at the third heartbeat missed (R401) -/
  missedAt : Word := 0
  /-- slots that had traffic with the module, one bit each (R406) -/
  slots : Word := 0
  deriving DecidableEq, Repr

/-- Registers and units of the module that stand outside cores, clusters and jobs. -/
structure Plant where
  hostcap : Word := 0
  modId : BitVec 13 := 0
  tenants : FMap Line := []
  applied : List Nat := []
  drops : FMap (BitVec 16) := []
  shutters : FMap Shutter := []
  hostwin : FMap (Word × Word) := []
  peers : FMap Peer := []
  /-- the greatest time that came in over the fabric (R404) -/
  fabTime : Option Time := none
  /-- flits and stalled cycles of the router ports, by the entry number of R424 -/
  links : FMap Word := []
  /-- the damage buffers of the Sill dies, and the rings by the core that names them (R399, R403) -/
  damage : FMap (List DmgRec) := []
  dmgRings : FMap DmgRing := []
  louvre : Louvre := {}
  dies : FMap DieTel := []
  lanes : FMap LaneTel := []
  storm : Storm := {}
  boot : Boot := {}
  tap : Tap := .idcode
  hostOut : HostOut := {}
  deriving DecidableEq, Repr

/-- What a saved core keeps beside its image in memory: the parts whose layout the spec leaves open, with labels as indices
of the image's dictionary (R368, R369; log 24). -/
structure CtxImage where
  core : Nat
  slot : Nat := 0
  body : Core
  accs : FMap Accum := []
  mxq : MxQueue := {}
  bte : List Bte := []
  mxwt : Word := 0
  deriving DecidableEq, Repr

/-- What moves next: an event of the table with its arguments, or one instruction of a core. -/
inductive Sched where
  | event (i : Instr) (a : Args)
  | core (c : Nat)
  deriving DecidableEq, Repr

/-- The state of the module. -/
structure State where
  /-- the core that acts -/
  cur : Nat := 0
  /-- the instruction register: the operands and the words of the instruction that executes -/
  ir : Ops := {}
  raw : List (BitVec 32) := []
  /-- the arguments of the event that happens -/
  arg : Args := {}
  sched : List Sched := []
  tick : Nat := 0
  clock : Word := 0
  mem : List Host.Cell := []
  /-- label tags of granules by physical key / 16, other than TRUE (R129) -/
  tags : FMap Handle := []
  /-- words and lines that are empty, by key / 8 (scratchpad) or of the line's first word (R235) -/
  fe : FMap Bool := []
  /-- the working versions of the lines under write tenure: bytes, tags, full bits, and the times of the holder's accesses
  (R247, R255, R257) -/
  wmem : FMap Byte := []
  wtags : FMap Handle := []
  wfe : FMap Bool := []
  wstamps : FMap Stamp := []
  stamps : FMap Stamp := []
  /-- what the stamps of a line that is not listed are (R244) -/
  stampBase : Time := 0
  cores : FMap Core := []
  clusters : FMap Cluster := []
  dlt : FMap LTable := []
  jobs : FMap Job := []
  labOps : List LabOp := []
  nextOp : Nat := 0
  /-- launches so far, and messages that the fabric ports have taken in (R229, R250) -/
  launches : Nat := 0
  fabSeq : Nat := 0
  handles : FMap THandle := []
  pages : FMap PageTen := []
  /-- launch counters at zero whose successor record waits for a release: slot, counter, colour of the cause (R256, R328) -/
  succs : List (Nat × Nat × Bool) := []
  net : List Msg := []
  /-- messages that wait at a router input for ring room (R299) -/
  waiting : List Msg := []
  answers : List Answer := []
  /-- fabric messages held at the port (R362) and the port's refusals (R381) -/
  port : List FabricMsg := []
  portRefused : BitVec 16 := 0
  plant : Plant := {}
  ctx : List CtxImage := []
  deriving DecidableEq, Repr

/-- The machine right after reset (R38, R429): registers at the values of R38, memory zero with every tag TRUE and every
bit full, no binding, no activation. -/
def State.reset : State := {}

end Sys2Proof.Machine
end

