-- ==== Sys2Proof/Machine/Base.lean ====
section
/-! DEFINITION. The groundwork under the shared operations: finite maps, access to the parts of the state, label tables and the label
algorithm (R115 to R142), registers, activations (R26, R302), markers (R80 to R82) and traps (R336 to R341). -/

namespace Sys2Proof.Machine

/-! ### Finite maps -/

/-- The value at a key. -/
def fget {α : Type} : FMap α → Nat → Option α
  | [], _ => none
  | (j, v) :: m, k => if j = k then some v else fget m k

/-- The map with a new value at a key. -/
def fset {α : Type} : FMap α → Nat → α → FMap α
  | [], k, v => [(k, v)]
  | (j, w) :: m, k, v =>
    if k < j then (k, v) :: (j, w) :: m else if k = j then (k, v) :: m else (j, w) :: fset m k v

/-- The map without a key. -/
def ferase {α : Type} (m : FMap α) (k : Nat) : FMap α := m.filter (fun p => p.1 != k)

/-- Keys are in strictly rising order. -/
def frising {α : Type} : FMap α → Bool
  | [] => true
  | [_] => true
  | a :: b :: m => decide (a.1 < b.1) && frising (b :: m)

/-! ### Parts of the state -/

def State.core (s : State) (c : Nat) : Core := (fget s.cores c).getD (Core.reset c)
def State.setCore (s : State) (c : Nat) (x : Core) : State := { s with cores := fset s.cores c x }
def State.cluster (s : State) (k : Nat) : Cluster := (fget s.clusters k).getD {}
def State.setCluster (s : State) (k : Nat) (x : Cluster) : State := { s with clusters := fset s.clusters k x }
def State.job (s : State) (t : Nat) : Job := (fget s.jobs t).getD {}
def State.setJob (s : State) (t : Nat) (x : Job) : State := { s with jobs := fset s.jobs t x }
def State.dtab (s : State) (d : Nat) : LTable := (fget s.dlt d).getD []
def State.setDtab (s : State) (d : Nat) (x : LTable) : State := { s with dlt := fset s.dlt d x }
def State.thandle (s : State) (h : Nat) : THandle := (fget s.handles h).getD {}
def State.setThandle (s : State) (h : Nat) (x : THandle) : State := { s with handles := fset s.handles h x }

/-- The acting core, its activation, its cluster and its tenant slot. -/
def State.me (s : State) : Core := s.core s.cur
def State.setMe (s : State) (x : Core) : State := s.setCore s.cur x
def State.act (s : State) : Act := s.me.act
def State.setAct (s : State) (a : Act) : State := s.setMe { s.me with act := a }
def State.cl (s : State) : Nat := s.cur / 8
def State.myCluster (s : State) : Cluster := s.cluster s.cl
def State.setMyCluster (s : State) (x : Cluster) : State := s.setCluster s.cl x
def State.slot (s : State) : Nat := s.me.tslot.toNat

/-- The compute die of a cluster index (R18). -/
def dieOf (k : Nat) : Nat := (k / 48) / 12 * 4 + (k % 48) / 12

/-- The instruction's length in bytes (R63). -/
def State.ilen (s : State) : Word := BitVec.ofNat 64 (4 * s.raw.length)
/-- The address of the next instruction in sequence (R63). -/
def State.npc (s : State) : Word := s.act.pc + s.ilen

/-- Number of a module in all addresses of the model: this module's identity (R21). -/
def State.modId (s : State) : Nat := s.plant.modId.toNat

/-- CYCLE of a core (R41). -/
def State.cycle (s : State) (c : Nat) : Word :=
  let k := s.cluster (c / 8)
  (if k.gated then k.gatedAt else s.clock) - (s.core c).gatedCycles

/-! ### Flags of FLAGS (R39) -/

def flagNV : Word := 1 <<< 8
def flagDZ : Word := 1 <<< 9
def flagOF : Word := 1 <<< 10
def flagUF : Word := 1 <<< 11
def flagNX : Word := 1 <<< 12
def flagNR : Word := 1 <<< 13
def flagLW : Word := 1 <<< 14
def flagJX : Word := 1 <<< 15
def flagPS : Word := 1 <<< 16

/-- Sticky flags are ORed into FLAGS (R40). -/
def State.orFlags (s : State) (f : Word) : State :=
  if f = 0 then s else s.setAct { s.act with flags := s.act.flags ||| f }

/-! ### Labels (R115 to R119) -/

def hTRUE : Handle := 0
def hEMPTY : Handle := 0xFFFE
def hPOISON : Handle := 0xFFFF

/-- The three handles that no table holds (R116). -/
def fixedHandle (h : Handle) : Bool := h = hTRUE || h = hEMPTY || h = hPOISON

/-- Number of set bits. -/
def popCount {w : Nat} (x : BitVec w) : Nat := ((List.range w).filter (fun i => x.getLsbD i)).length

/-- The canonical order of environments: by population count, then by value (R115). -/
def envBefore (a b : Env) : Bool :=
  decide (popCount a < popCount b) || (popCount a == popCount b && decide (a.toNat ≤ b.toNat))

/-- Insertion in canonical order; an environment already there is not added again. -/
def envInsert (e : Env) : List Env → List Env
  | [] => [e]
  | f :: l => if e = f then f :: l else if envBefore e f then e :: f :: l else f :: envInsert e l

def envSort (l : List Env) : List Env := l.foldr envInsert []

/-- Strip of R118. -/
def strip (j : JobLab) (u : Env) : Env := u &&& ~~~ j.premise

/-- Struck of R118. -/
def struck (j : JobLab) (u : Env) : Bool := (u &&& j.retired) != 0 || j.nogoods.any (fun g => (u &&& g.2) == g.2)

/-- Lmin of R118, on a set without struck environments. -/
def lmin (c : List Env) : List Env :=
  (envSort c).filter (fun e => !(envSort c).any (fun f => f != e && (f &&& e) == f))

/-- The environments of a set that survive: stripped, not struck, minimal, in canonical order. -/
def lclean (j : JobLab) (c : List Env) : List Env := lmin ((c.map (strip j)).filter (fun u => !struck j u))

/-- The pairs of Lprod before Fit (R118). -/
def lpairs (a b : List Env) : List Env := a.flatMap (fun e => b.map (fun f => e ||| f))

/-- Fit of R118: at most 16 environments. None is a trap under TRAP; the flag says that environments were dropped. -/
def fit (widen : Bool) (c : List Env) : Option (List Env × Bool) :=
  if c.length ≤ 16 then some (c, false) else if widen then some (c.take 16, true) else none

/-- Lprod of R118. -/
def lprod (j : JobLab) (widen : Bool) (a b : Lab) : Option (Lab × Bool) :=
  match a, b with
  | none, _ => some (none, false)
  | _, none => some (none, false)
  | some a, some b =>
    if a = [] then some (some [], false) else if b = [] then some (some [], false)
    else if a = [0] then some (some b, false) else if b = [0] then some (some a, false)
    else (fit widen (lclean j (lpairs a b))).map (fun p => (some p.1, p.2))

/-- Lunion of R118. -/
def lunion (j : JobLab) (widen : Bool) (a b : Lab) : Option (Lab × Bool) :=
  match a, b with
  | none, _ => some (none, false)
  | _, none => some (none, false)
  | some a, some b =>
    if a = [] then some (some b, false) else if b = [] then some (some a, false)
    else (fit widen (lclean j (a ++ b))).map (fun p => (some p.1, p.2))

/-- Holds of R118. -/
def holds (j : JobLab) (l : Lab) (env : Env) : Bool :=
  match l with
  | none => false
  | some l =>
    let f := strip j env
    !struck j f && l.any (fun e => (strip j e &&& f) == strip j e && !struck j (strip j e))

/-! ### Assumptions and nogoods (R117, R132, R133, R135) -/

/-- One environment enters the nogood table: entries that include it go, and it takes the lowest invalid entry (R132). -/
def enterNogood (t : FMap Env) (g : Env) : FMap Env :=
  let kept := t.filter (fun p => (p.2 &&& g) != g)
  match (List.range 256).find? (fun i => (fget kept i).isNone) with
  | some i => fset kept i g
  | none => kept

/-- Environments entered one after another; none when an entry is wanting on the way (R132). -/
def enterSeq (t : FMap Env) : List Env → Option (FMap Env)
  | [] => some t
  | g :: l => if 256 ≤ (t.filter (fun p => (p.2 &&& g) != g)).length then none else enterSeq (enterNogood t g) l

/-- The environments of a list that are not redundant when they are entered in turn (R132, R193). -/
def freshNogoods (j : JobLab) : List Env → List Env
  | [] => []
  | e :: l =>
    let g := strip j e
    if struck j g then freshNogoods j l else g :: freshNogoods { j with nogoods := enterNogood j.nogoods g } l

/-- Entries that are left once those that include one of some environments are cleared. -/
def clearedNogoods (j : JobLab) (gs : List Env) : FMap Env := j.nogoods.filter (fun p => !gs.any (fun g => (p.2 &&& g) == g))

/-- An entry that includes another is invalid (R135). -/
def minNogoods (t : FMap Env) : FMap Env :=
  t.filter (fun p => !t.any (fun q => q.1 != p.1 && (p.2 &&& q.2) == q.2 && (q.2 != p.2 || decide (q.1 < p.1))))

/-- The change that an instruction makes to the label state of its job, at every replica alike (R117, R132, R135). -/
def applyLab (kind : LabKind) (envs : List Env) (j : JobLab) : JobLab :=
  let bit := envs.headD 0
  match kind with
  | .assume => { j with live := j.live ||| bit }
  | .retire => { j with live := j.live &&& ~~~ bit, retired := j.retired ||| bit }
  | .commit => { j with live := j.live &&& ~~~ bit, premise := j.premise ||| bit,
                        nogoods := minNogoods (j.nogoods.map (fun p => (p.1, p.2 &&& ~~~ bit))) }
  | .lscrub => { j with premise := j.premise &&& ~~~ bit, retired := j.retired &&& ~~~ bit,
                        nogoods := j.nogoods.filter (fun p => (p.2 &&& bit) == 0) }
  | .nogood =>
    let gs := freshNogoods j envs
    { j with nogoods := match enterSeq j.nogoods gs with
        | some t => t
        | none => gs.foldl enterNogood (clearedNogoods j gs) }

/-- A label instruction takes its place in the order: it changes the job's state now, and every replica and table is still to follow; one
whose status is not 0 changes nothing where it comes (R133, R194). -/
def State.startOp (s : State) (op : LabOp) : State :=
  let jb := (fget s.jobs op.tslot).getD {}
  let reps := (List.range 8).foldl (fun m d => if (fget m d).isNone then fset m d jb.lab else m) jb.reps
  let s1 := if op.status = 0 then
      { s with jobs := fset s.jobs op.tslot { jb with lab := applyLab op.kind op.envs jb.lab, reps := reps } }
    else s
  { s1 with nextOp := op.id + 1, labOps := s1.labOps ++ [op] }

/-! ### Label tables (R121 to R124) -/

/-- The label that a handle names in a table (R116, R122). A handle of a free entry reads as POISON (R382). -/
def tlab (t : LTable) (h : Handle) : Lab :=
  if h = hTRUE then some [0] else if h = hEMPTY then some [] else if h = hPOISON then none
  else match fget t h.toNat with
    | some e => if e.damaged then none else some e.envs
    | none => none

/-- One more place holds the handle (R124). -/
def tref (t : LTable) (h : Handle) : LTable :=
  if fixedHandle h then t
  else match fget t h.toNat with
    | some e => if e.rc = 0xFFFFFF then t else fset t h.toNat { e with rc := e.rc + 1 }
    | none => t

/-- One place less holds the handle; a count of zero frees the chain (R124). -/
def tunref (t : LTable) (h : Handle) : LTable :=
  if fixedHandle h then t
  else match fget t h.toNat with
    | some e =>
      if e.rc = 0xFFFFFF then t
      else if e.rc.toNat ≤ 1 then ferase t h.toNat
      else fset t h.toNat { e with rc := e.rc - 1 }
    | none => t

/-- Whether entry i of a table is free. -/
def tfree (t : LTable) (i : Nat) : Bool := i != 0 && t.all (fun p => p.1 != i && !p.2.conts.contains i)

/-- Entries in use. -/
def tused (t : LTable) : Nat := 1 + (t.map (fun p => 1 + p.2.conts.length)).sum

/-- The lowest free entries from i on, below the size (R123). -/
def tscan (t : LTable) (size : Nat) : Nat → Nat → Nat → List Nat
  | 0, _, _ => []
  | fuel + 1, i, n =>
    if n = 0 || size ≤ i then []
    else if tfree t i then i :: tscan t size fuel (i + 1) (n - 1) else tscan t size fuel (i + 1) n

/-- The head of a table that a label matches: a live head of the same job with equal environments (R123). -/
def tfind (t : LTable) (slot : Nat) (l : List Env) : Option Nat :=
  (t.find? (fun p => !p.2.damaged && p.2.tslot.toNat == slot && p.2.envs == l)).map (·.1)

/-- Interning (R123). The head's count is raised by the place that takes the handle. None: the table is full. -/
def tintern (size : Nat) (t : LTable) (slot : Nat) (l : Lab) : Option (LTable × Handle) :=
  match l with
  | none => some (t, hPOISON)
  | some l =>
    if l = [] then some (t, hEMPTY) else if l = [0] then some (t, hTRUE)
    else match tfind t slot l with
      | some i => some (t, BitVec.ofNat 16 i)
      | none =>
        let n := (l.length + 3) / 4
        let free := tscan t size (tused t + n + 1) 1 n
        match free with
        | i :: conts =>
          if free.length = n then some (fset t i { envs := l, conts := conts, tslot := BitVec.ofNat 6 slot }, BitVec.ofNat 16 i)
          else none
        | [] => none

/-- Entries of a CLT and of a DLT (R121). -/
def cltSize : Nat := 4096
def dltSize : Nat := 65534

/-- The label state of a job as a die's replica holds it (R117, R132). -/
def State.jobLab (s : State) (slot die : Nat) : JobLab := (fget (s.job slot).reps die).getD (s.job slot).lab

/-- The label state that the acting core's cluster uses. -/
def State.lab (s : State) : JobLab := s.jobLab s.slot (dieOf s.cl)

def State.refC (s : State) (k : Nat) (h : Handle) : State :=
  if fixedHandle h then s else s.setCluster k { s.cluster k with clt := tref (s.cluster k).clt h }
def State.unrefC (s : State) (k : Nat) (h : Handle) : State :=
  if fixedHandle h then s else s.setCluster k { s.cluster k with clt := tunref (s.cluster k).clt h }

/-- The full form of a handle of the acting core's cluster. -/
def State.labOf (s : State) (h : Handle) : Lab := tlab s.myCluster.clt h

/-! ### How an instruction ends -/

/-- What stops an instruction before its plain end. -/
inductive Stop where
  /-- a precise trap with its XVAL; the instruction has no effect (R84) -/
  | trap (c : Cause) (v : Word)
  /-- the same, of an access at x whose pages are walked first: the walk's reads take their times (R238, R243) -/
  | access (x : Word) (c : Cause) (v : Word)
  /-- the core stalls without parking: the instruction issues again (R81, R308) -/
  | stall
  /-- the state after an instruction that parked or ended its activation -/
  | final (t : State)
  deriving DecidableEq, Repr

abbrev Res (α : Type) := Except Stop α

def trapped {α : Type} (c : Cause) (v : Word) : Res α := .error (.trap c v)

/-- The label policy of a core instruction (R120). -/
def State.widen (s : State) : Bool := s.me.lpol

/-- Handles other than TRUE, each once, in order (R119, R140). -/
def distinct : List Handle → List Handle
  | [] => []
  | h :: l => if h = hTRUE then distinct l else h :: (distinct l).filter (fun g => g != h)

/-- Products of labels from left to right (R119). None: more than 16 environments under TRAP. -/
def lfold (j : JobLab) (widen : Bool) : Lab → Bool → List Lab → Option (Lab × Bool)
  | acc, lw, [] => some (acc, lw)
  | acc, lw, l :: ls =>
    match lprod j widen acc l with
    | none => none
    | some (r, w) => lfold j widen r (lw || w) ls

/-- Interning a label in the acting core's CLT; LTFULL when it is full (R123). -/
def State.intern (s : State) (l : Lab) : Res (State × Handle) :=
  match tintern cltSize s.myCluster.clt s.slot l with
  | none => trapped .ltfull 0
  | some (t, h) => if fixedHandle h then .ok (s, h) else .ok (s.setMyCluster { s.myCluster with clt := t }, h)

/-- Whether a place that holds the handle reads as POISON: the fixed handle, and that of a damaged or free head (R122, R382). -/
def State.poison (s : State) (h : Handle) : Bool := s.labOf h == none
def State.poisonAt (s : State) (k : Nat) (h : Handle) : Bool := tlab (s.cluster k).clt h == none

/-- PS when the label is POISON (R142). A result that names s0 or m0 sets it too, though the write is discarded
(DESIGN CHOICE, log 36). -/
def State.psOf (s : State) (h : Handle) : Word := if s.poison h then flagPS else 0

/-- The result label of a list of handles: the fast path of R140, else the table path of R141. It gives the state with the
label interned, the handle and the label flags. -/
def State.product (s : State) (hs : List Handle) : Res (State × Handle × Word) :=
  match distinct hs with
  | [] => .ok (s, hTRUE, 0)
  | [h] => .ok (s, h, s.psOf h)
  | h :: g :: l =>
    match lfold s.lab s.widen (s.labOf h) false ((g :: l).map s.labOf) with
    | none => trapped .labelovf 0
    | some (r, lw) =>
      match s.intern r with
      | .error e => .error e
      | .ok (t, k) => .ok (t, k, t.psOf k ||| (if lw then flagLW else 0))

/-! ### Sources and factors of a label -/

/-- A source of a label: a handle of the issuing cluster or a full form from elsewhere (R119, R126, R127). -/
inductive LSrc where
  | h (x : Handle)
  | l (x : Lab)
  deriving DecidableEq, Repr

def LSrc.isTrue : LSrc → Bool
  | .h x => x = hTRUE
  | .l x => x = some [0]
def State.srcLab (s : State) : LSrc → Lab
  | .h x => s.labOf x
  | .l x => x

def distinctSrc : List LSrc → List LSrc
  | [] => []
  | a :: l => if a.isTrue then distinctSrc l else a :: (distinctSrc l).filter (fun b => b != a)

/-- A group of one handle each. -/
def singles (hs : List Handle) : List (List Handle) := hs.map (fun h => [h])

/-- One factor of a product: a label, or Lreg of a vector register, which is the product of its four quad labels formed first
(R162). The flag says that environments were dropped; none is an overflow under TRAP. -/
def State.factor (s : State) (g : List Handle) : Option (LSrc × Bool) :=
  match distinct g with
  | [] => some (.h hTRUE, false)
  | [h] => some (.h h, false)
  | h :: l => (lfold s.lab s.widen (s.labOf h) false (l.map s.labOf)).map (fun r => (.l r.1, r.2))

def State.factors (s : State) : List (List Handle) → Option (List LSrc × Bool)
  | [] => some ([], false)
  | g :: gs =>
    match s.factor g, s.factors gs with
    | some (x, a), some (xs, b) => some (x :: xs, a || b)
    | _, _ => none

/-- The result label of groups of handles, each group a factor of its own (R119, R162). -/
def State.productG (s : State) (gs : List (List Handle)) : Res (State × Handle × Word) :=
  match s.factors gs with
  | none => trapped .labelovf 0
  | some (xs, dropped) =>
    let lwOf (b : Bool) : Word := if b then flagLW else 0
    match distinctSrc xs with
    | [] => .ok (s, hTRUE, lwOf dropped)
    | [.h h] => .ok (s, h, s.psOf h ||| lwOf dropped)
    | x :: l =>
      match lfold s.lab s.widen (s.srcLab x) dropped (l.map s.srcLab) with
      | none => trapped .labelovf 0
      | some (r, lw) =>
        match s.intern r with
        | .error e => .error e
        | .ok (t, k) => .ok (t, k, t.psOf k ||| lwOf lw)

/-! ### Registers (R31 to R36) -/

/-- Scalar register as the running code sees it: a handler sees its shadow registers (R32, R337). -/
def Act.rd (a : Act) (r : BitVec 6) : Reg :=
  if r = 0 then {}
  else match a.trap with
    | some t => t.shadow[r.toNat % 16]'(Nat.mod_lt _ (by decide))
    | none => a.sregs[r.toNat]'r.isLt

/-- The activation with a scalar register written; s0 discards (R32). -/
def Act.wr (a : Act) (r : BitVec 6) (x : Reg) : Act :=
  if r = 0 then a
  else match a.trap with
    | some t => { a with trap := some { t with shadow := t.shadow.set (r.toNat % 16) x (Nat.mod_lt _ (by decide)) } }
    | none => { a with sregs := a.sregs.set r.toNat x r.isLt }

def Act.rdM (a : Act) (k : BitVec 3) : Reg :=
  if k = 0 then { val := BitVec.allOnes 64 } else a.mregs[k.toNat]'k.isLt
def Act.wrM (a : Act) (k : BitVec 3) (x : Reg) : Act :=
  if k = 0 then a else { a with mregs := a.mregs.set k.toNat x k.isLt }
def Act.rdV (a : Act) (v : BitVec 4) : VReg := a.vregs[v.toNat]'v.isLt
def Act.wrV (a : Act) (v : BitVec 4) (x : VReg) : Act := { a with vregs := a.vregs.set v.toNat x v.isLt }

def VReg.labs (x : VReg) : List Handle := [x.l0, x.l1, x.l2, x.l3]

def State.unrefAll (s : State) (k : Nat) (l : List Handle) : State := l.foldl (fun s h => s.unrefC k h) s
def State.refAll (s : State) (k : Nat) (l : List Handle) : State := l.foldl (fun s h => s.refC k h) s

/-- A handle replaces another in one place of the acting core's cluster (R124). -/
def State.swapRef (s : State) (new old : Handle) : State := (s.refC s.cl new).unrefC s.cl old

/-- Writes a scalar register of the running activation with its label (R32, R36, R124). -/
def State.writeS (s : State) (r : BitVec 6) (v : Word) (l : Handle) : State :=
  (s.swapRef l (if r = 0 then l else (s.act.rd r).lab)).setAct (s.act.wr r ⟨v, l⟩)

/-- Writes a mask register (R32, R36). -/
def State.writeM (s : State) (k : BitVec 3) (v : Word) (l : Handle) : State :=
  (s.swapRef l (if k = 0 then l else (s.act.rdM k).lab)).setAct (s.act.wrM k ⟨v, l⟩)

/-- Writes a vector register with its four labels (R34, R36): the new references count before the old ones go (R124). -/
def State.writeV (s : State) (r : BitVec 4) (x : VReg) : State :=
  ((s.refAll s.cl x.labs).unrefAll s.cl (s.act.rdV r).labs).setAct (s.act.wrV r x)

/-- The control label changes (R137). -/
def State.writeClab (s : State) (l : Handle) : State := (s.swapRef l s.act.clab).setAct { s.act with clab := l }

/-! ### Checks of R84 and R85 -/

/-- A register that an instruction names. -/
inductive RU where
  | s (n : Nat) | v (n : Nat) | a (n : Nat)
  deriving DecidableEq, Repr

/-- Scalar registers that the running code may name: 16 in a handler (R33, R337). -/
def Act.nS (a : Act) : Nat := if a.trap.isSome then 16 else 8 * a.sa.toNat
def Act.nV (a : Act) : Nat := 4 * a.va.toNat

/-- Whether a register is inside the allotment or owned (R85). -/
def State.regOk (s : State) : RU → Bool
  | .s n => decide (n < s.act.nS)
  | .v n => decide (n < s.act.nV)
  | .a n => s.me.accmap.getLsbD n

/-- XVAL of REGBOUND (R86). -/
def RU.xval : RU → Word
  | .s n => BitVec.ofNat 64 (n % 64)
  | .v n => BitVec.ofNat 64 (n % 64 + 256)
  | .a n => BitVec.ofNat 64 (n % 64 + 512)

/-- The register check of R84, step 4: the first register out of bounds raises REGBOUND. -/
def State.regs (s : State) : List RU → Res Unit
  | [] => .ok ()
  | r :: l => if s.regOk r then s.regs l else trapped .regbound r.xval

/-- XVAL of ILLEGAL and PRIV: word 0, and word 1 of an extended form (R86, R341). -/
def State.rawVal (s : State) : Word :=
  match s.raw with
  | [] => 0
  | [w] => w.setWidth 64
  | w :: w1 :: _ => if w.getLsbD 30 then w1 ++ w else w.setWidth 64

def State.illegal {α : Type} (s : State) : Res α := trapped .illegal s.rawVal
/-- PRIV in job mode (R84, step 3). -/
def State.supOnly (s : State) : Res Unit := if s.act.sup then .ok () else trapped .priv s.rawVal

/-- A POISON label on an operand that may not carry it (R138). -/
def State.notPoison (s : State) (r : Reg) : Res Unit := if s.poison r.lab then trapped .poison r.val else .ok ()

/-- The registers that a recorded access will write when it is performed again (R355, R357). -/
def LOp.writesS (o : LOp) (r : BitVec 6) : Bool :=
  r != 0 && match o with
    | .load _ _ _ d _ => d == r
    | .loadQ _ d _ => d == r || d + 1 == r
    | .ldfe _ d _ => d == r
    | .atom op _ d _ _ _ _ _ _ => d == r || (op == .cas2 && d + 1 == r)
    | .clgo _ d _ => d == r
    | .ringwait _ _ d _ => d == r
    | .syncw _ _ d _ => d == r
    | _ => false
def LOp.writesV (o : LOp) (r : BitVec 4) : Bool :=
  match o with
  | .vload _ _ _ d _ _ => d == r
  | .vgather _ _ _ d _ _ _ => d == r
  | .tile _ _ _ _ _ d _ _ => d == r
  | _ => false

/-- The registers that outstanding results will write (R81). -/
def Act.busyS (a : Act) (r : BitVec 6) : Bool :=
  a.outs.any (fun o => o.writes.any (fun w => match w with | .s n _ _ => n == r && r != 0 | .v _ _ => false))
    || a.deferred.any (fun d => d.op.writesS r)
def Act.busyV (a : Act) (r : BitVec 4) : Bool :=
  a.outs.any (fun o => o.writes.any (fun w => match w with | .s _ _ _ => false | .v n _ => n == r))
    || a.deferred.any (fun d => d.op.writesV r)

/-! ### The causes (R42) -/

def Cause.code : Cause → Nat
  | .illegal => 1 | .regbound => 2 | .priv => 3 | .alignatom => 4 | .xlate => 5 | .prot => 6 | .bounds => 7
  | .stalehandle => 8 | .tenurewait => 9 | .sendfull => 10 | .unbound => 11 | .labelovf => 12 | .ltfull => 13
  | .ngfull => 14 | .arith => 15 | .poison => 16 | .hostatom => 17 | .swtrap => 18 | .stop => 19 | .pfail => 20
  | .checker => 21 | .nakfenced => 22

/-- Causes that XDELEG cannot delegate: PRIV, STOP, PFAIL, CHECKER, NAKFENCED (R42). -/
def Cause.fixed : Cause → Bool
  | .priv => true | .stop => true | .pfail => true | .checker => true | .nakfenced => true | _ => false

/-! ### Choosing what runs (R302) -/

/-- The activation as it starts (R27), in a free slot. -/
def State.startAct (s : State) (c : Nat) (q : Queued) (slot : Nat) : Act :=
  let k := s.core c
  let start := (q.rbase.toNat + ((q.rcd.unit + 1) % q.rsize.toNat) * 32) % 0x200000
  let s1 : Word := BitVec.ofNat 64 (0x8000000000000000 + start)
  let s3 : Word := (q.rcd.score.setWidth 64) ||| ((q.rcd.smod.setWidth 64) <<< 16)
  let lt := (s.cluster (c / 8)).ltime
  let b := Act.blank
  let r := (((b.sregs.set 1 ⟨s1, 0⟩).set 2 ⟨q.rcd.len.setWidth 64, 0⟩).set 3 ⟨s3, 0⟩).set 4 ⟨q.rcd.lab.setWidth 64, 0⟩
  { b with
    pc := q.entry, sregs := r, slot := slot, sup := decide (56 ≤ q.chan.toNat), chan := q.chan,
    level := (k.chans[q.chan.toNat]'q.chan.isLt).prio,
    rcd := q.rcd, aid := k.nextAid,
    floor := if (q.rcd.time - lt).toNat < 2 ^ 47 then q.rcd.time else lt,
    gang := q.rcd.gang }

/-- Resident slots in use (R26). -/
def Core.residents (k : Core) : List Act := (if k.running then [k.act] else []) ++ k.parked ++ k.ready

/-- The lowest free resident slot. -/
def Core.freeSlot (k : Core) : Option Nat := (List.range 8).find? (fun i => k.residents.all (fun a => a.slot != i))

/-- An entry of the run queue: level, entry time, channel (R302). -/
structure Cand where
  level : Nat
  since : Nat
  chan : Nat
  deriving DecidableEq, Repr

def Cand.before (a b : Cand) : Bool :=
  decide (b.level < a.level) ||
    (a.level == b.level && (decide (a.since < b.since) || (a.since == b.since && decide (a.chan ≤ b.chan))))

def Act.cand (a : Act) : Cand := ⟨a.level.toNat, a.readyAt.toNat, a.chan.toNat⟩
def Queued.cand (q : Queued) : Cand := ⟨q.level.toNat, q.since.toNat, q.chan.toNat⟩

/-- The first of a list in the order of the run queue. -/
def firstOf {α : Type} (f : α → Cand) : List α → Option α
  | [] => none
  | a :: l => match firstOf f l with
    | none => some a
    | some b => if (f a).before (f b) then some a else some b

/-- Base priority of an activation's channel: where it enters when it next becomes ready (R302). -/
def Core.prioOf (k : Core) (ch : BitVec 6) : BitVec 3 := (k.chans[ch.toNat]'ch.isLt).prio

/-! ### Traps (R336 to R341) -/

/-! ### Trace (R420) -/

/-- A trace record of 16 bytes. -/
def traceRec (kind core time : Nat) (arg : Word) : List Byte :=
  (List.range 16).map (fun i => BitVec.ofNat 8 ((kind + core * 2 ^ 8 + time % 2 ^ 48 * 2 ^ 16 + arg.toNat * 2 ^ 64) / 2 ^ (8 * i)))

/-- The bit of EV for a kind: ACT start and end, TRAP, SEND, GRANT, HALT. -/
def traceEv (kind : Nat) : Nat := match kind with | 1 => 8 | 2 => 8 | 3 => 9 | 4 => 10 | 5 => 11 | _ => 12

/-- The place of a record from the buffer's end: records of one TIME go by core number, and a GAP record keeps its place (R420). -/
def traceInsert (x : List Byte) : List (List Byte) → List (List Byte)
  | [] => [x]
  | y :: l =>
    if (y.drop 2).take 6 = (x.drop 2).take 6 && decide (((x.getD 1 0) &&& 7) < ((y.getD 1 0) &&& 7)) && y.getD 0 0 != 7 then y :: traceInsert x l
    else x :: y :: l

/-- A record enters the buffer, after a GAP record for those lost before it; a full buffer drops and counts it. -/
def Debug.put (d : Debug) (kind core time : Nat) (arg : Word) : Debug :=
  let need := if d.lost = 0 then 1 else 2
  if 4096 < d.buffer.length + need then
    { d with lost := d.lost + 1, trdrop := if d.trdrop = 0xFFFFFFFF then d.trdrop else d.trdrop + 1 }
  else
    { d with
      buffer := if d.lost = 0 then (traceInsert (traceRec kind core time arg) d.buffer.reverse).reverse
        else d.buffer ++ [traceRec 7 core time (BitVec.ofNat 64 d.lost), traceRec kind core time arg]
      lost := 0 }

/-- An event of a core is traced, when TCFG names the core and the kind. -/
def State.trace (s : State) (c kind : Nat) (arg : Word) : State :=
  let k := s.cluster (c / 8)
  if k.dbg.tcfg.getLsbD (c % 8) && k.dbg.tcfg.getLsbD (traceEv kind) then
    s.setCluster (c / 8) { k with dbg := k.dbg.put kind (c % 8) (s.cycle c).toNat arg }
  else s

/-- ARG of the records that name a place: a low byte and bits [63:8] of an address. -/
def traceAt (lo : Nat) (pc : Word) : Word := BitVec.ofNat 64 (lo + pc.toNat / 256 * 256)

/-- A core halts; in a cluster, the cores that a mask names (R417). -/
def State.haltOne (s : State) (c : Nat) : State :=
  let k := s.core c
  if k.halted then s else (s.setCore c { k with halted := true }).trace c 6 k.act.pc
def State.haltMasked (s : State) (k : Nat) (mask : Byte) (i : Nat) : State := if mask.getLsbD i then s.haltOne (8 * k + i) else s

/-- A core halts; a core of XTEN fires the cross-trigger, which halts the others of XTEN and, with BFRZ, freezes the BTE and stops
the MXE (R417). A HALT, and what halts as HALT does (R336, R340), leaves the engines alone (R335): freeze is false for it (log 20). A core
that is halted already does not halt again. -/
def State.haltCore (s : State) (freeze : Bool) (c : Nat) : State :=
  let s1 := s.haltOne c
  let k := s1.cluster (c / 8)
  if k.dbg.xten.getLsbD (c % 8) && !(s.core c).halted then
    ((List.range 8).foldl (fun s i => s.haltMasked (c / 8) k.dbg.xten i)
      (if freeze && k.dbg.bfrz then s1.setCluster (c / 8) { k with dbg := { k.dbg with frozen := true } } else s1))
  else s1

/-- Whether a cause goes to UVEC (R42, R336). -/
def Core.delegates (k : Core) (c : Cause) (sup : Bool) : Bool :=
  !c.fixed && k.xdeleg.getLsbD c.code && !sup && (k.uvec &&& ~~~3) != 0

/-- The microseconds left before the Storm Door opens, rounded down: at most 2 (R409). -/
def State.doorLeft (s : State) : Word :=
  BitVec.ofNat 64 ((2 * Config.cyclesPerUs - (s.clock - s.plant.storm.since).toNat) / Config.cyclesPerUs)

/-- The handler starts (R336, R337). XVAL of PFAIL is measured now (R409). -/
def State.enterHandler (s : State) (p : PendTrap) : State :=
  let k := s.me
  let a := k.act
  let del := k.delegates p.cause a.sup
  let vec := (if del then k.uvec else k.xvec) &&& ~~~3
  (s.trace s.cur 3 (traceAt p.cause.code p.xpc)).setMe { k with
    xcause := BitVec.ofNat 64 p.cause.code ||| (if del then 0x100 else 0)
    xval := if p.cause = .pfail then s.doorLeft else p.xval
    xpc := p.xpc
    xrpc := if p.deferred then p.xrpc else k.xrpc
    act := { a with
      pc := vec, sup := !del, pix := (match p.pix with | some j => BitVec.ofNat 64 j | none => a.pix), clab := hTRUE, cstack := [], pend := none, dfr := p.deferred, elect := none, deferred := []
      trap := some { sup := a.sup, clab := a.clab, cstack := a.cstack, shadow := Vector.replicate 16 {},
                     stop := p.cause == .stop, deferred := a.deferred } } }

/-- The first entry of the deferred list as a trap that resumes at an address (R355). -/
def deferredTrap (d : Deferred) (rpc : Word) : PendTrap :=
  { cause := d.cause, xval := d.xval, xpc := d.iss.pc, deferred := true, xrpc := rpc,
    pix := match d.op with | .vgather _ _ _ _ _ _ j => some j | .vscatter _ _ _ _ _ _ j => some j | _ => none }

/-- Address of the trapping instruction, or of its ELECT prefix (R83, R336). -/
def Act.xpcOf (a : Act) : Word := if a.elect.isSome then a.pc - 4 else a.pc

end Sys2Proof.Machine
end

