-- ==== Sys2Proof/Machine/Regs.lean ====
section
/-! DEFINITION. Physical keys (R22 to R24), bytes (R11, R429), and the registers of the supervisor control space as they read
(R22, R125, R296, R310, R360, R376, R378, R387, R407, R412, R416, R424, R426, R428, R431). -/

namespace Sys2Proof.Machine

/-! ### Physical keys

One number names every byte: DRAM by its PA, scratchpads from 2^39, MRAM from 2^44, host memory from 2^52, the memory of
other modules from 2^56, the supervisor control space from 2^60. -/

def keyScratch (k off : Nat) : Nat := 2 ^ 39 + k * 2 ^ 21 + off
def keyMram (sill off : Nat) : Nat := 2 ^ 44 + sill * 2 ^ 28 + off
def keyHost (a : Nat) : Nat := 2 ^ 52 + a
def keyRemote (m off : Nat) : Nat := 2 ^ 56 + m * 2 ^ 42 + off
def keyCtl (a : Nat) : Nat := 2 ^ 60 + a

def isDram (k : Nat) : Bool := k < 2 ^ 38
def isScratch (k : Nat) : Bool := 2 ^ 39 ≤ k && k < 2 ^ 40
def isHost (k : Nat) : Bool := 2 ^ 52 ≤ k && k < 2 ^ 56
def isRemote (k : Nat) : Bool := 2 ^ 56 ≤ k && k < 2 ^ 60
def isCtl (k : Nat) : Bool := 2 ^ 60 ≤ k
/-- The cluster and the core of a scratchpad key (R23). -/
def scratchCluster (k : Nat) : Nat := (k - 2 ^ 39) / 2 ^ 21
def scratchCore (k : Nat) : Nat := (k - 2 ^ 39) / 2 ^ 18
def remoteModule (k : Nat) : Nat := (k - 2 ^ 56) / 2 ^ 42

/-! ### Bytes -/

/-- The byte at a key; an unlisted key reads 0 (R429, log 4). -/
def Memory.read (m : List Host.Cell) (k : Nat) : Byte := (fget m k).getD 0
/-- Writing the value that an unlisted key reads as removes the entry. -/
def Memory.write (m : List Host.Cell) (k : Nat) (v : Byte) : List Host.Cell := if v = 0 then ferase m k else fset m k v
/-- The canonical form: keys rise strictly, no entry reads as an unlisted key does. -/
def Memory.wf (m : List Host.Cell) : Bool := frising m && m.all (fun c => c.2 != 0)

/-- Bytes as a little-endian number (R11). -/
def ofBytes : List Byte → Nat
  | [] => 0
  | b :: l => b.toNat + 256 * ofBytes l
/-- The n low bytes of a number, little-endian (R11). -/
def toBytes : Nat → Nat → List Byte
  | 0, _ => []
  | n + 1, x => BitVec.ofNat 8 x :: toBytes n (x / 256)

def wordOf (l : List Byte) : Word := BitVec.ofNat 64 (ofBytes l)

def Memory.readN (m : List Host.Cell) (k : Nat) : Nat → List Byte
  | 0 => []
  | n + 1 => Memory.read m k :: Memory.readN m (k + 1) n
def Memory.writeN (m : List Host.Cell) (k : Nat) : List Byte → List Host.Cell
  | [] => m
  | b :: l => Memory.writeN (Memory.write m k b) (k + 1) l

/-! ### Rectangles (R343, R376) -/

/-- Whether a core lies in a rectangle in the form of R343. -/
def inRect (r : Word) (core : Nat) : Bool :=
  let k := core / 8
  let x := k % 48
  let y := k / 48
  let x0 := r.toNat % 64
  let y0 := r.toNat / 2 ^ 8 % 32
  let xn := r.toNat / 2 ^ 16 % 64
  let yn := r.toNat / 2 ^ 24 % 32
  decide (x0 ≤ x) && decide (x < x0 + xn) && decide (y0 ≤ y) && decide (y < y0 + yn) && (r >>> 32).getLsbD (core % 8)
/-- The rectangle of a tenant record, all eight cores of each cluster. -/
def tenantRect (r : Line) : Word := ((r >>> 8).setWidth 64 &&& 0xFFFFFFFF) ||| (0xFF <<< 32)
def State.tenant (s : State) (t : Nat) : Line := (fget s.plant.tenants t).getD 0
/-! ### Registers in memory form -/

/-- The 32 bytes of a channel entry (R296). -/
def Chan.bytes (ch : Chan) : List Byte :=
  let b (x : Bool) (i : Nat) : Nat := if x then 2 ^ i else 0
  toBytes 32 ((ch.entry.toNat / 4 * 4) + ch.prio.toNat * 2 ^ 64 + b ch.bound 67 + b ch.en 68 + b ch.hold 69 + b ch.ready 70 + b ch.auto 71
    + b ch.contig 72 + b ch.rep 73 + b ch.act 75 + ch.pend.toNat * 2 ^ 80 + ch.rbase.toNat * 2 ^ 96 + ch.rsize.toNat * 2 ^ 128
    + ch.rhead.toNat * 2 ^ 144 + ch.rtail.toNat * 2 ^ 160 + ch.region.toNat * 2 ^ 176 + ch.level.toNat * 2 ^ 208 + b ch.lve 224
    + ch.rgsize.toNat * 2 ^ 225)

/-- A descriptor unit of 32 bytes (R300). -/
def descriptor (len net : Nat) (h : Handle) (m : Msg) (ctr : BitVec 16) : List Byte :=
  toBytes 32 (len + net * 2 ^ 10 + h.toNat * 2 ^ 16 + m.score.toNat * 2 ^ 32 + m.smod.toNat * 2 ^ 48 + ctr.toNat * 2 ^ 64 + m.time.toNat * 2 ^ 128)

/-- The 512 bytes of an unbound-buffer entry (R301). -/
def unboundBytes (m : Msg) (h : Handle) : List Byte :=
  descriptor m.payload.length m.net.toNat h m m.ctr ++ m.payload ++ List.replicate (480 - m.payload.length) 0

/-- The 64 bytes of a BTE channel's status (R431). -/
def Bte.image (b : Bte) : List Byte :=
  toBytes 64 (b.state.toNat + b.cause.toNat * 2 ^ 8 + b.stage.toNat * 2 ^ 16 + b.raddr.toNat * 2 ^ 64 + b.faddr.toNat * 2 ^ 128
    + b.queued.toNat * 2 ^ 192 + b.bytes.toNat * 2 ^ 256)

/-- A bit at a place. -/
def bitAt (b : Bool) (i : Nat) : Nat := if b then 2 ^ i else 0

/-- An entry of a label table; a continuation is counted by its head (R122 to R124). -/
def tableEntry (t : LTable) (n : Nat) : Nat :=
  let four (l : List Env) (k : Nat) : Nat := ((List.range 4).map (fun i => (l.getD (4 * k + i) 0).toNat * 2 ^ (64 * i))).sum
  if n = 0 then (0xFFFFFF + 2 ^ 24 + 2 ^ 29) * 2 ^ 256
  else match fget t n with
    | some h =>
      four h.envs 0 + (if h.damaged then 0xFFFFFF else h.rc.toNat) * 2 ^ 256 + h.envs.length * 2 ^ 280 + (if h.damaged then 3 else 1) * 2 ^ 285
        + h.tslot.toNat * 2 ^ 288 + h.conts.headD 0 * 2 ^ 296
    | none =>
      match t.find? (fun p => p.2.conts.contains n) with
      | none => 0
      | some (_, h) =>
        let k := h.conts.idxOf n + 1
        four h.envs k + 2 ^ 256 + Nat.min (h.envs.length - 4 * k) 4 * 2 ^ 280 + 2 ^ 286 + h.tslot.toNat * 2 ^ 288 + h.conts.getD k 0 * 2 ^ 296

/-- Word i of a number. -/
def wordAt (x i : Nat) : Word := BitVec.ofNat 64 (x / 2 ^ (64 * i))

def State.cutOf (s : State) (t : Nat) : Cut := (s.job t).cut
/-- The cut record as it reads (R360). -/
def Cut.bits (c : Cut) : Nat :=
  c.state.toNat * 2 ^ 4 + bitAt c.busy 6 + bitAt c.err 7 + c.gen.toNat * 2 ^ 8 + c.limit.toNat * 2 ^ 32 + c.sent.toNat * 2 ^ 64
    + c.recv.toNat * 2 ^ 128 + c.notify.toNat * 2 ^ 192

/-- Telemetry of a die, at its reset values where nothing has changed it (R426). -/
def State.dieTel (s : State) (d : Nat) : DieTel :=
  (fget s.plant.dies d).getD (if d < 8 then {} else { cap := 120, bmarg := 0xFFFF })
def DieTel.bits (t : DieTel) : Nat :=
  t.vin.toNat + t.iin.toNat * 2 ^ 16 + t.temp.toNat * 2 ^ 32 + t.bmarg.toNat * 2 ^ 48 + t.cap.toNat * 2 ^ 64 + t.capeff.toNat * 2 ^ 80
    + t.guard.toNat * 2 ^ 96 + bitAt t.thr 112 + t.seq.toNat % 2 ^ 32 * 2 ^ 128
/-- Eye telemetry of a lane (R428). -/
def State.lane (s : State) (l : Nat) : LaneTel := (fget s.plant.lanes l).getD {}
def LaneTel.bits (t : LaneTel) : Nat :=
  t.hm.toNat + t.vm.toNat * 2 ^ 8 + bitAt t.warn 16 + bitAt t.down 17 + t.fec.toNat * 2 ^ 32 + t.hwarn.toNat * 2 ^ 64 + t.vwarn.toNat * 2 ^ 72

/-- HALTED of a cluster (R416). -/
def State.haltedMask (s : State) (k : Nat) : Nat := ((List.range 8).map (fun i => bitAt (s.core (8 * k + i)).halted i)).sum

/-- Word i of the debug module of cluster k (R416, R420). -/
def State.debugWord (s : State) (k i : Nat) : Word :=
  let d := (s.cluster k).dbg
  match i with
  | 0 => BitVec.ofNat 64 (d.xten.toNat * 2 ^ 24 + bitAt d.bfrz 32)
  | 1 => BitVec.ofNat 64 (s.haltedMask k + bitAt d.frozen 8 + bitAt d.scanned 9)
  | 2 => d.tcfg
  | 3 => d.trring
  | 4 => d.trdrop
  | _ => 0

/-- The bitmap of a router (R378). -/
def State.bitmap (s : State) (k : Nat) : Word :=
  BitVec.ofNat 64 (1 + ((s.plant.tenants.filter (fun p => p.2.getLsbD 0 && inRect (tenantRect p.2) (8 * k))).map (fun p => 2 ^ p.1)).sum)

/-- A tenant record as it reads, with APPLIED (R376). -/
def State.tenantBits (s : State) (t : Nat) : Nat := (s.tenant t).toNat + bitAt (s.plant.applied.contains t) 1

/-- The word at an offset of the Louvre, telemetry and lane registers (R424, R426, R428). -/
def State.telWord (s : State) (o : Nat) : Word :=
  let l := s.plant.louvre
  if o = 0 then BitVec.ofNat 64 (bitAt l.en 0 + l.period.toNat * 2 ^ 16)
  else if o = 8 then l.lbase
  else if 0x1000 ≤ o && o < 0x1000 + 10 * 0x40 then wordAt (s.dieTel ((o - 0x1000) / 0x40)).bits ((o - 0x1000) % 0x40 / 8)
  else if 0x2000 ≤ o && o < 0x2000 + 72 * 16 then wordAt (s.lane ((o - 0x2000) / 16)).bits ((o - 0x2000) % 16 / 8)
  else 0

/-- The channel table and the unbound buffer of a core (R296, R301). -/
def State.chanWord (s : State) (c o : Nat) : Word :=
  let k := s.core c
  if o < 0x800 then wordOf (((k.chans.toList.getD (o / 32) {}).bytes.drop (o % 32)).take 8)
  else if o < 0x1000 then
    match fget k.unbound ((o - 0x800) / 0x200) with
    | some (m, h) => wordOf (((unboundBytes m h).drop (o % 0x200)).take 8)
    | none => 0
  else 0

/-- The labels of a job at the replica of a die: the nogood table and the assumption state (R125, R132). -/
def State.replicaWord (s : State) (o : Nat) : Word :=
  let d := o % 0x200000 / 0x40000
  let r := o % 0x40000
  if o < 0x200000 then
    match fget (s.jobLab (r / 0x1000) d).nogoods (r % 0x1000 / 16) with
    | some e => if r % 16 = 0 then e else 1
    | none => 0
  else if r < 64 * 32 then
    let j := s.jobLab (r / 32) d
    match r % 32 / 8 with | 0 => j.live | 1 => j.premise | 2 => j.retired | _ => 0
  else 0

/-- The word at an offset of space 0xA, a multiple of 8, as it reads. What no rule gives reads zero. -/
def State.ctlWord (s : State) (a : Nat) : Word :=
  let o := a % 2 ^ 56
  match a / 2 ^ 56 with
  | 1 => if o / 0x40000 < Config.clusterCount then wordAt (tableEntry (s.cluster (o / 0x40000)).clt (o % 0x40000 / 64)) (o % 64 / 8) else 0
  | 2 => if o / 0x400000 < 8 && o % 0x400000 / 64 < dltSize then wordAt (tableEntry (s.dtab (o / 0x400000)) (o % 0x400000 / 64)) (o % 64 / 8) else 0
  | 3 => if o < 0x400000 then s.replicaWord o else 0
  | 4 => if o / 0x4000 < Config.coreCount then s.chanWord (o / 0x4000) (o % 0x4000) else 0
  | 5 => if o / 0x8000 < 64 then (fget (s.job (o / 0x8000)).alias_ (o % 0x8000 / 8)).getD 0 else 0
  | 6 => if o / 0x40 < 64 then wordAt (s.cutOf (o / 0x40)).bits (o % 0x40 / 8) else 0
  | 7 => if o / 0x40 < 64 then wordAt (s.tenantBits (o / 0x40)) (o % 0x40 / 8) else 0
  | 8 =>
    if o < 0x4000 then (if o / 8 < Config.clusterCount then s.bitmap (o / 8) else 0)
    else (if (o - 0x4000) / 8 < Config.clusterCount then ((fget s.plant.drops ((o - 0x4000) / 8)).getD 0).setWidth 64 else 0)
  | 9 => if o / 16 < 16 then (let w := (fget s.plant.hostwin (o / 16)).getD (0, 0); if o % 16 = 0 then w.1 else w.2) else 0
  | 10 => if o < 2 ^ 29 && o % 2 ^ 28 < 0xF000000 then wordOf (Memory.readN s.mem (keyMram (o / 2 ^ 28) (o % 2 ^ 28)) 8) else 0
  | 11 => if o / 0x1000 < Config.clusterCount then s.debugWord (o / 0x1000) (o % 0x1000 / 8) else 0
  | 12 =>
    if o / 8 < Config.moduleCount then
      (let p := (fget s.plant.peers (o / 8)).getD {}; BitVec.ofNat 64 (bitAt p.act 0 + bitAt p.dead 1))
    else 0
  | 13 => s.telWord o
  | 14 => if o / 0x400 < Config.clusterCount then wordOf ((((s.cluster (o / 0x400)).bte.toList.getD (o % 0x400 / 64) {}).image.drop (o % 64)).take 8) else 0
  | _ => 0

/-- A byte of space 0xA (R22). -/
def State.ctlByte (s : State) (a : Nat) : Byte := BitVec.ofNat 8 ((s.ctlWord (a / 8 * 8)).toNat / 2 ^ (8 * (a % 8)))

end Sys2Proof.Machine
end

