-- ==== Sys2Proof/Machine/Mem.lean ====
section
/-! DEFINITION. Memory: physical keys (R22 to R24, R230), translation (R236, R237, R383), bytes, tags, full and empty bits
and stamps (R129, R235, R246, R247), versions under tenure (R255, R256), and the thread accesses built from them. -/

namespace Sys2Proof.Machine

/-! ### Versions (R255) -/

/-- Which version an access meets: true is the working version of lines under write tenure, false the released one. -/
abbrev View := Bool

def State.rdByte (s : State) (v : View) (k : Nat) : Byte :=
  if isCtl k then s.ctlByte (k - 2 ^ 60)
  else if v then (fget s.wmem k).getD (Memory.read s.mem k) else Memory.read s.mem k
/-- The bytes of the control space change only as its registers do (Ctl). -/
def State.wrByte (s : State) (v : View) (k : Nat) (b : Byte) : State :=
  if isCtl k then s
  else if v then { s with wmem := fset s.wmem k b } else { s with mem := Memory.write s.mem k b }
def State.rdBytes (s : State) (v : View) (k : Nat) : Nat → List Byte
  | 0 => []
  | n + 1 => s.rdByte v k :: s.rdBytes v (k + 1) n
def State.wrBytes (s : State) (v : View) (k : Nat) : List Byte → State
  | [] => s
  | b :: l => (s.wrByte v k b).wrBytes v (k + 1) l

/-- The tag of a granule (R129). -/
def State.rdTag (s : State) (v : View) (g : Nat) : Handle :=
  let main := (fget s.tags g).getD hTRUE
  if v then (fget s.wtags g).getD main else main
def State.putTag (s : State) (v : View) (g : Nat) (l : Handle) : State :=
  if v then { s with wtags := fset s.wtags g l } else { s with tags := if l = hTRUE then ferase s.tags g else fset s.tags g l }

/-- The full and empty bit that governs a key: a word's in a scratchpad, a line's elsewhere (R235). -/
def feKey (k : Nat) : Nat := if isScratch k then k / 8 else k / 64 * 8
def State.full (s : State) (v : View) (k : Nat) : Bool :=
  let main := (fget s.fe (feKey k)).getD true
  if v then (fget s.wfe (feKey k)).getD main else main
def State.setFull (s : State) (v : View) (k : Nat) (b : Bool) : State :=
  if v then { s with wfe := fset s.wfe (feKey k) b } else { s with fe := if b then ferase s.fe (feKey k) else fset s.fe (feKey k) false }

/-! ### Label tables by home (R121, R126, R127) -/

inductive Tab where
  | clt (k : Nat)
  | dlt (d : Nat)
  deriving DecidableEq, Repr

def State.tab (s : State) : Tab → LTable
  | .clt k => (s.cluster k).clt
  | .dlt d => s.dtab d
def State.setTab (s : State) (t : Tab) (x : LTable) : State :=
  match t with
  | .clt k => s.setCluster k { s.cluster k with clt := x }
  | .dlt d => s.setDtab d x
def Tab.size : Tab → Nat
  | .clt _ => cltSize
  | .dlt _ => dltSize
/-- The die whose replica a table uses. -/
def Tab.die : Tab → Nat
  | .clt k => dieOf k
  | .dlt d => d % 8

/-- The home of a physical address: its die, the offset within that die's memory, its slice, and the cluster of the slice (R18,
R230). -/
def homeDie (k : Nat) : Nat := k / 8192 % 8
def homeOffset (k : Nat) : Nat := k / 65536 * 8192 + k % 8192
def homeSlice (k : Nat) : Nat := (k / 65536 * 128 + k / 64 % 128) % 144
def homeCluster (k : Nat) : Nat :=
  (homeDie k / 4 * 12 + homeSlice k / 12) * 48 + homeDie k % 4 * 12 + homeSlice k % 12

/-- The table whose handles tag a key (R121). Lines of other modules are held by Sill die 0, whose lowest compute die is die 0
(R232; that they come in by that die's ports is a DESIGN CHOICE, log 37). -/
def tabOf (k : Nat) : Tab :=
  if isScratch k then .clt (scratchCluster k) else if isDram k then .dlt (homeDie k) else .dlt 0

/-- The all-TRUE summary bit of a line: its four granule tags are TRUE (R130, R234). -/
def State.summary (s : State) (v : View) (line : Nat) : Bool := (List.range 4).all (fun i => s.rdTag v (4 * line + i) == hTRUE)
def Copy.summary (c : Copy) : Bool := c.labs.all (fun h => h == hTRUE)

/-- A label as a table takes it in: stripped, without struck environments, minimal, by the replica that the table uses
(R127, R128, R133). -/
def State.arrive (s : State) (slot die : Nat) (l : Lab) : Lab :=
  match l with
  | none => none
  | some l => if l = [] || l = [0] then some l else some (lclean (s.jobLab slot die) l)

/-- The label of a granule's tag in full form (R129). -/
def State.tagLab (s : State) (v : View) (k : Nat) : Lab := tlab (s.tab (tabOf k)) (s.rdTag v (k / 16))

/-- Whether a granule's tag is a head of another slot (R382). -/
def State.foreignTag (s : State) (v : View) (k slot : Nat) : Bool :=
  let h := s.rdTag v (k / 16)
  !fixedHandle h && (match fget (s.tab (tabOf k)) h.toNat with | some e => e.tslot.toNat != slot | none => false)

/-- A granule takes a handle of its own table as tag, with the counts (R124). The released version keeps its own tag. -/
def State.setTagH (s : State) (v : View) (k : Nat) (h : Handle) : State :=
  let old := if v then (fget s.wtags (k / 16)).getD hTRUE else s.rdTag v (k / 16)
  let s1 := if fixedHandle h then s else s.setTab (tabOf k) (tref (s.tab (tabOf k)) h)
  let s2 := s1.putTag v (k / 16) h
  if fixedHandle old then s2 else s2.setTab (tabOf k) (tunref (s2.tab (tabOf k)) old)

/-- A granule takes a label, interned in the table of its home as that table takes it (R126 to R128). None: the table is full. -/
def State.setTag (s : State) (v : View) (k slot : Nat) (l : Lab) : Option State :=
  match tintern (tabOf k).size (s.tab (tabOf k)) slot (s.arrive slot (tabOf k).die l) with
  | none => none
  | some (t, h) => some ((if fixedHandle h then s else s.setTab (tabOf k) t).setTagH v k h)

/-! ### Sources of a label product (R119, R126, R127) -/

/-- An entry that no place took goes back (R120, R124). -/
def tdrop (t : LTable) (h : Handle) : LTable :=
  match fget t h.toNat with
  | some e => if e.rc = 0 then ferase t h.toNat else t
  | none => t
def State.dropTmp (s : State) (h : Handle) : State :=
  if fixedHandle h then s else s.setMyCluster { s.myCluster with clt := tdrop s.myCluster.clt h }

/-- Labels in full form are interned in the acting core's table before they enter a product (R126 to R128): the handles of all
the sources, in order. LTFULL where the table is full. -/
def State.takeIn (s : State) : List LSrc → Res (State × List Handle)
  | [] => .ok (s, [])
  | .h x :: l =>
    match s.takeIn l with
    | .error e => .error e
    | .ok (t, hs) => .ok (t, x :: hs)
  | .l x :: l =>
    match s.intern (s.arrive s.slot (dieOf s.cl) x) with
    | .error e => .error e
    | .ok (t, h) =>
      match t.takeIn l with
      | .error e => .error e
      | .ok (u, hs) => .ok (u, h :: hs)

/-- Handles that a product took in and did not keep are given back. -/
def State.dropOthers (s : State) (k : Handle) (hs : List Handle) : State :=
  (hs.filter (fun h => h != k)).foldl State.dropTmp s

/-- The result label of sources of both kinds (R119, R126, R140, R141). -/
def State.productL (s : State) (srcs : List LSrc) : Res (State × Handle × Word) :=
  match s.takeIn srcs with
  | .error e => .error e
  | .ok (t, hs) =>
    match t.product hs with
    | .error e => .error e
    | .ok (u, k, f) => .ok (u.dropOthers k hs, k, f)

/-- As takeIn, for groups of sources, each a factor of its own. -/
def State.takeInG (s : State) : List (List LSrc) → Res (State × List (List Handle))
  | [] => .ok (s, [])
  | g :: gs =>
    match s.takeIn g with
    | .error e => .error e
    | .ok (t, hs) =>
      match t.takeInG gs with
      | .error e => .error e
      | .ok (u, hss) => .ok (u, hs :: hss)
def State.productGL (s : State) (gs : List (List LSrc)) : Res (State × Handle × Word) :=
  match s.takeInG gs with
  | .error e => .error e
  | .ok (t, hss) =>
    match t.productG hss with
    | .error e => .error e
    | .ok (u, k, f) => .ok (u.dropOthers k hss.flatten, k, f)

/-- A granule's tag as a source for the acting core: its handle in its own cluster, the full form from elsewhere (R126, R127).
The tag of a free entry reads as POISON (R382). -/
def State.tagSrc (s : State) (v : View) (k : Nat) : LSrc :=
  if isHost k || isCtl k then .h hTRUE
  else if isScratch k && scratchCluster k == s.cl then
    (let h := s.rdTag v (k / 16)
     if fixedHandle h || (fget s.myCluster.clt h.toNat).isSome then .h h else .h hPOISON)
  else match s.tagLab v k with
    | none => .h hPOISON
    | some l => .l (some l)

/-! ### Translation (R236, R237, R383) -/

/-- The kinds of access: both asks for reading and writing without being an atomic (R277). -/
inductive Kind where
  | rd | wr | atom | fetch | both
  deriving DecidableEq, Repr

/-- The lines that a handle holds under tenure. -/
def THandle.holds (h : THandle) (line : Nat) : Bool := h.kind != 0 && (h.blocks.take h.taken).any (fun b => b.lines.contains line)

/-- The tenured handle on a line, if any. -/
def State.tenureAt (s : State) (line : Nat) : Option (Nat × THandle) := s.handles.find? (fun p => p.2.holds line)

/-- Whether a cluster holds write tenure on a line: its accesses meet the working version (R255). -/
def State.writes (s : State) (k line : Nat) : View :=
  match s.tenureAt line with
  | some (_, h) => h.kind == 2 && h.holder == k
  | none => false

/-- A level of the walk for a core of cluster k: the 8-byte entry of a table (R237, R238). A walk for the holder of a write
tenure meets the working version, as the holder's own accesses do (DEDUCED, log 38). A table whose address lies at or above
2^38 is read at the key of that number, which is no DRAM: the spec gives no check of PTROOT.BASE (DESIGN CHOICE, log 39). -/
def State.pte (s : State) (k table idx : Nat) : Word :=
  wordOf (s.rdBytes (s.writes k ((table + 8 * idx) / 64)) (table + 8 * idx) 8)

def pteFrame (e : Word) : Nat := (e >>> 12).toNat % 2 ^ 39 * 4096
def pteTgt (e : Word) : Nat := (e >>> 6).toNat % 4
def pteMod (e : Word) : Nat := (e >>> 51).toNat

/-- The conditions of R237 that do not depend on the level. -/
def pteOk (e : Word) : Bool :=
  e.getLsbD 0 && ((e >>> 8) &&& 0xF) == 0 && (pteTgt e != 0 || pteFrame e < 2 ^ 38) && (pteTgt e == 3 || pteMod e == 0)

/-- The index of a walk's table when n + 1 levels remain, and the log of the span of an entry: 4, 3, 2, 1 levels remain for
levels 0, 1, 2, 3 (R237). -/
def walkShift (n : Nat) : Nat := if n = 0 then 16 else 12 + 9 * n
def walkIdx (n va : Nat) : Nat := if n = 0 then va / 2 ^ 16 % 32 else va / 2 ^ walkShift n % 512

/-- Where an address under an entry lies: the entry's TGT names the memory. The spec gives no bound on PADDR, and none on MOD beyond
the domain's checks, for TGT 3: the address is taken modulo 2^38, the size of a module's DRAM, and a MOD that names no module stands for a
memory of its own (DESIGN CHOICE, log 39). -/
def entryKey (s : State) (e : Word) (pa : Nat) : Nat :=
  match pteTgt e with
  | 0 => pa
  | 3 => if pteMod e = s.modId then pa % 2 ^ 38 else keyRemote (pteMod e) (pa % 2 ^ 38)
  | _ => keyHost pa

/-- A walk of four levels for cluster k (R237): the leaf and the log of its page size. The next table lies where TGT and PADDR of a
non-leaf entry say, as a frame does (DEDUCED, log 39). -/
def State.walk (s : State) (k table va : Nat) : Nat → Option (Word × Nat)
  | 0 => none
  | n + 1 =>
    let e := s.pte k table (walkIdx n va)
    if !pteOk e then none
    else if e.getLsbD 1 then
      if n = 3 then none else if pteFrame e % 2 ^ walkShift n == 0 then some (e, walkShift n) else none
    else if n = 0 then none else s.walk k (entryKey s e (pteFrame e)) va n

/-- The entries that the walk reads, in order, each with whether it lies in host memory under the plain mapping (R246). -/
def State.walkKeys (s : State) (k table va : Nat) (plain : Bool) : Nat → List (Nat × Bool)
  | 0 => []
  | n + 1 =>
    let e := s.pte k table (walkIdx n va)
    (table + 8 * walkIdx n va, plain) ::
      (if !pteOk e || e.getLsbD 1 || n = 0 then [] else s.walkKeys k (entryKey s e (pteFrame e)) va (pteTgt e == 2) n)

/-- The page size code of a shift: 0 for 64 KiB, 1 for 2 MiB, 2 for 1 GiB (R344). -/
def sizeCode (sh : Nat) : BitVec 2 := if sh = 16 then 0 else if sh = 21 then 1 else 2
def sizeShift (c : BitVec 2) : Nat := if c = 0 then 16 else if c = 1 then 21 else 30

/-- A translation that the cluster still holds (R238). -/
def State.cached (s : State) (core : Nat) (va : Nat) : Option (Word × Nat) :=
  ((s.cluster (core / 8)).tcache.find? (fun e =>
    e.tslot == (s.core core).tslot.toNat && va / 2 ^ sizeShift e.size == e.page.toNat)).map (fun e => (e.leaf, sizeShift e.size))

/-- The leaf that translates an address of space 0x0 for a core (R236 to R238). -/
def State.leaf (s : State) (core : Nat) (va : Nat) : Option (Word × Nat) :=
  let root := (s.core core).ptroot
  if root.getLsbD 0 = false then none
  else match s.cached core va with
    | some e => some e
    | none => s.walk (core / 8) ((root >>> 12).toNat % 2 ^ 39 * 4096) va 4

/-- The leaf's permission for an access (R237, R383). -/
def leafOk (e : Word) (k : Kind) (sup : Bool) : Bool :=
  match k with
  | .fetch => e.getLsbD 4 && (if sup then e.getLsbD 5 else !e.getLsbD 5)
  | .rd => sup || (e.getLsbD 2 && !e.getLsbD 5)
  | .wr => sup || (e.getLsbD 3 && !e.getLsbD 5)
  | .atom => sup || (e.getLsbD 2 && e.getLsbD 3 && !e.getLsbD 5)
  | .both => sup || (e.getLsbD 2 && e.getLsbD 3 && !e.getLsbD 5)

/-- Where a translated address lies (R230, R237, R246). -/
def leafKey (s : State) (e : Word) (sh va : Nat) : Nat := entryKey s e (pteFrame e + va % 2 ^ sh)

/-- Scratchpad bytes of a core now: LSPLIT, or the span of an adaptive carve (R23, R224, R229). -/
def Core.scratchSize (k : Core) : Nat :=
  match k.carveRun with
  | some (_, u, _) => u.toNat * 0x2000
  | none => k.lsplit.toNat * 0x2000

/-- Whether a core lies in a closed Shutter (R395). -/
def State.shuttered (s : State) (core : Nat) : Bool :=
  s.plant.shutters.any (fun p => p.2.state == 2 && inRect p.2.rect core)
/-- A peer module that is dead (R406). -/
def State.deadModule (s : State) (m : Nat) : Bool := ((fget s.plant.peers m).getD {}).dead

/-- A tenant whose record gives no DTID sends nothing on the fabric (R376): its access to another module fails with PROT
(DESIGN CHOICE, log 40). Slot 0 has no record. -/
def State.barred (s : State) (core : Nat) : Bool :=
  let t := (s.core core).tslot.toNat
  t != 0 && (s.tenant t).toNat / 2 ^ 48 % 2 ^ 16 == 0

/-- The physical key of one address for a core, or the fault (R22 to R25, R237, R383, R379, R385, R396). -/
def State.resolve (s : State) (core : Nat) (sup : Bool) (k : Kind) (x : Word) : Except (Cause × Word) Nat :=
  let sp := x.toNat / 2 ^ 60
  let lo := x.toNat % 2 ^ 60
  if sp = 0 then
    if 2 ^ 48 ≤ lo then .error (.xlate, x)
    else match s.leaf core lo with
      | none => .error (.xlate, x)
      | some (e, sh) =>
        if !leafOk e k sup then .error (.prot, x)
        else if pteTgt e == 3 && pteMod e != s.modId && s.barred core then .error (.prot, x)
        else if pteTgt e == 3 && pteMod e != s.modId && s.deadModule (pteMod e) then .error (.nakfenced, x)
        else if pteTgt e == 1 && !s.plant.hostcap.getLsbD 9 then .error (if k = .atom then .hostatom else .prot, x)
        else .ok (leafKey s e sh lo)
  else if k = .fetch then .error (.xlate, x)
  else if sp = 8 then
    if 2 ^ 21 ≤ lo then .error (.xlate, x)
    else
      let c := core / 8 * 8 + lo / 2 ^ 18
      if (s.core c).scratchSize ≤ lo % 2 ^ 18 then .error (.xlate, x)
      else if s.shuttered c then .error (.nakfenced, x)
      else .ok (keyScratch (core / 8) lo)
  else if sp = 9 then
    let m := lo / 2 ^ 32
    let ci := lo / 2 ^ 21 % 2 ^ 11
    let off := lo % 2 ^ 21
    if 2 ^ 45 ≤ lo || 1152 ≤ ci then .error (.xlate, x)
    else if m = s.modId then
      let c := ci * 8 + off / 2 ^ 18
      if (s.core c).scratchSize ≤ off % 2 ^ 18 then .error (.xlate, x)
      else if s.shuttered c then .error (.nakfenced, x)
      else if !sup && (s.core c).tslot != (s.core core).tslot then .error (.prot, x)
      else .ok (keyScratch ci off)
    else if Config.moduleCount ≤ m || !Config.inDomain m then .error (.xlate, x)
    else if s.barred core then .error (.prot, x)
    else if s.deadModule m then .error (.nakfenced, x)
    else match Config.remoteAnswer m (ci * 2 ^ 21 + off) s.tick with
      | 1 => .error (.xlate, x)
      | 2 => if sup then .ok (keyRemote m (2 ^ 41 + ci * 2 ^ 21 + off)) else .error (.prot, x)
      | 3 => .error (.nakfenced, x)
      | _ => .ok (keyRemote m (2 ^ 41 + ci * 2 ^ 21 + off))
  else if sp = 10 then
    if sup then .ok (keyCtl lo) else .error (.priv, x)
  else .error (.xlate, x)

/-! ### Pieces of an access (R240, R269) -/

/-- Part of an access that lies in one granule. -/
structure Piece where
  addr : Word
  off : Nat
  len : Nat
  key : Nat
  /-- host memory under the plain PCIe mapping: no stamps (R246, R266) -/
  plain : Bool := false
  deriving DecidableEq, Repr

/-- The parts of a range at granule boundaries: address, offset, length. -/
def splitRange (x : Word) : Nat → Nat → Nat → List (Word × Nat × Nat)
  | 0, _, _ => []
  | fuel + 1, off, n =>
    if n = 0 then []
    else
      let a := x + BitVec.ofNat 64 off
      let len := Nat.min n (16 - a.toNat % 16)
      (a, off, len) :: splitRange x fuel (off + len) (n - len)

/-- The target of an address's translation (R237): 0 for scratchpads. -/
def State.tgtOf (s : State) (core : Nat) (x : Word) : Nat :=
  if x.toNat / 2 ^ 60 = 0 then (match s.leaf core (x.toNat % 2 ^ 60) with | some (e, _) => pteTgt e | none => 0) else 0

/-- The resolved pieces of a range, in increasing address; the first fault stops it (R269). -/
def State.piecesOf (s : State) (core : Nat) (sup : Bool) (k : Kind) : List (Word × Nat × Nat) → Except (Cause × Word) (List Piece)
  | [] => .ok []
  | (a, off, len) :: l =>
    match s.resolve core sup k a with
    | .error e => .error e
    | .ok key =>
      match s.piecesOf core sup k l with
      | .error e => .error e
      | .ok ps => .ok (⟨a, off, len, key, isHost key && s.tgtOf core a == 2⟩ :: ps)

def State.pieces (s : State) (core : Nat) (sup : Bool) (k : Kind) (x : Word) (n : Nat) : Except (Cause × Word) (List Piece) :=
  s.piecesOf core sup k (splitRange x (n + 1) 0 n)

/-- Whether a range lies wholly in the core's own portion through the local window (R20, R78). -/
def ownShort (core : Nat) (x : Word) (n : Nat) : Bool :=
  x.toNat / 2 ^ 60 == 8 && decide (x.toNat % 2 ^ 60 / 2 ^ 18 = core % 8) && decide (x.toNat % 2 ^ 18 + n ≤ 2 ^ 18)

/-! ### Logical time (R244 to R247) -/

/-- Serial comparison: a precedes b or equals it (R244). -/
def tle (a b : Time) : Bool := (b - a).toNat < 2 ^ 47
def tmax (a b : Time) : Time := if tle a b then b else a
/-- As tmax, where a time may be wanting. -/
def tmaxO (a : Option Time) (b : Time) : Time := match a with | none => b | some a => tmax a b

def State.stamp (s : State) (line : Nat) : Stamp := (fget s.stamps line).getD ⟨s.stampBase, s.stampBase⟩
def State.setStamp (s : State) (line : Nat) (x : Stamp) : State := { s with stamps := fset s.stamps line x }

def Cluster.lease (c : Cluster) : Time := BitVec.ofNat 48 (c.ordcfg.toNat % 2 ^ 16)
def Cluster.skip (c : Cluster) : Time := BitVec.ofNat 48 (2 ^ (c.ordcfg.toNat / 2 ^ 28 % 32))
def Cluster.twait (c : Cluster) : Nat := c.ordcfg.toNat / 2 ^ 40

/-- The floor and LTIME rise to the time of an access (R247). -/
def State.atTime (s : State) (t : Time) : State :=
  let s1 := s.setAct { s.act with floor := tmax s.act.floor t }
  s1.setMyCluster { s1.myCluster with ltime := tmax s1.myCluster.ltime t }

/-- The page tenure of other modules over a line (R259). -/
def State.pageAbroad (s : State) (line : Nat) : Option PageTen :=
  match fget s.pages (line / 1024) with
  | some p => if p.holders.any (fun m => m != s.modId) then some p else none
  | none => none

/-- G of the write tenure on a line, if any (R255, R259). -/
def State.gOf (s : State) (line : Nat) : Option Time :=
  match s.tenureAt line with
  | some (_, h) => if h.kind = 2 then some h.stamp else none
  | none => match s.pageAbroad line with
    | some p => if p.write then some p.stamp else none
    | none => none

/-- The times of the accesses to a working version, from G on (R247, R255). -/
def State.wstamp (s : State) (line : Nat) : Stamp :=
  (fget s.wstamps line).getD (let g := (s.gOf line).getD 0; ⟨g, g⟩)

/-- A load performed at the home of a line (R247); a lease on a line under write tenure ends before G (R256). A load of a
working version takes no lease: nothing else reads it. -/
def State.timeLoad (s : State) (v : View) (key : Nat) : State :=
  let line := key / 64
  if v then
    let st := s.wstamp line
    let t := tmax s.act.floor st.wts
    { s with wstamps := fset s.wstamps line { st with rts := tmax st.rts t } }.atTime t
  else
    let st := s.stamp line
    let t := tmax s.act.floor st.wts
    let e := t + s.myCluster.lease
    let e := match s.gOf line with | some g => if tle g e then g - 1 else e | none => e
    (s.setStamp line { st with rts := tmax st.rts e }).atTime t

/-- A store or atomic performed at the home of a line (R247). -/
def State.timeStore (s : State) (v : View) (key : Nat) : State :=
  let line := key / 64
  if v then
    let t := tmax s.act.floor ((s.wstamp line).rts + 1)
    { s with wstamps := fset s.wstamps line ⟨t, t⟩ }.atTime t
  else
    let t := tmax s.act.floor ((s.stamp line).rts + 1)
    (s.setStamp line ⟨t, t⟩).atTime t

/-! ### Tenure around an access (R252, R255, R256) -/

/-- A thread access that must wait for a release: the core stalls, until TWAIT has passed (R256). -/
def State.tenureWait (s : State) (x : Word) : Res View := if s.me.twait then trapped .tenurewait x else .error .stall

/-- The version that a thread access of cluster k with a floor meets; it stalls where it must wait (R255, R256, R259). -/
def State.viewFor (s : State) (k : Nat) (floor : Time) (store : Bool) (key : Nat) (x : Word) : Res View :=
  match s.tenureAt (key / 64) with
  | none => match s.pageAbroad (key / 64) with
    | none => .ok false
    | some p => if store || (p.write && tle p.stamp floor) then s.tenureWait x else .ok false
  | some (_, h) =>
    if h.kind = 2 && h.holder == k then .ok true
    else if store || (h.kind == 2 && tle h.stamp floor) then s.tenureWait x else .ok false

/-! ### Copies in the cache portions and the victim pool (R226, R227, R247) -/

/-- A copy is valid while neither the floor nor LTIME has passed its lease end (R247, R248). -/
def State.live (s : State) (c : Copy) : Bool := tle s.act.floor c.lease && tle s.myCluster.ltime c.lease

/-- The cache portion in units of 8 KiB: what LSPLIT leaves, or CUR under an adaptive carve (R224, R228, R229). -/
def Core.cacheUnits (k : Core) : Nat :=
  match k.carveRun with
  | some _ => k.carve.toNat / 2 ^ 16 % 64
  | none => 32 - k.lsplit.toNat
def Core.joined (k : Core) : Bool := k.vpool.getLsbD 0
def Core.share (k : Core) : Nat := k.vpool.toNat / 2 % 4
/-- The sets of the cache portion, of four lines each; a member of the pool gives one, two or three ways of them to victims
(R226, R227; that SHARE divides by ways is a DESIGN CHOICE, log 41). -/
def Core.sets (k : Core) : Nat := k.cacheUnits * 32
def Core.ways (k : Core) : Nat := if k.joined then 3 - k.share else 4
/-- The lines of victims that a member holds: its part of the cache portion, and the bytes of an adaptive carve's span that are
not in the cache (R227, R229). -/
def Core.victimLines (k : Core) : Nat :=
  if !k.joined then 0
  else k.sets * (1 + k.share) + (match k.carveRun with | some (_, u, _) => (32 - u.toNat - k.cacheUnits) * 128 | none => 0)

def State.dropLabs (s : State) (k : Nat) (x : Copy) : State := s.unrefAll k x.labs

/-- The next core in core order, from i on, that can hold a victim. -/
def State.poolMember (s : State) (k i : Nat) : Option Nat :=
  ((List.range 8).map (fun j => (i + j) % 8)).find? (fun j => (s.core (8 * k + j)).victimLines != 0)

/-- A line evicted from the private part of core c: a member's goes into the pool, the rest are dropped (R227). -/
def State.toPool (s : State) (c : Nat) (x : Copy) : State :=
  let k := c / 8
  if !(s.core c).joined then s.dropLabs k x
  else match s.poolMember k (s.cluster k).poolNext with
    | none => s.dropLabs k x
    | some j =>
      let m := s.core (8 * k + j)
      let all := x :: m.victims
      (all.drop m.victimLines).foldl (fun s y => s.dropLabs k y)
        ((s.setCore (8 * k + j) { m with victims := all.take m.victimLines }).setCluster k { s.cluster k with poolNext := (j + 1) % 8 })

/-- A copy enters the private part of core c, where the least recently used line of a full set gives way (R226). Its labels'
references come with it. -/
def State.install (s : State) (c : Nat) (x : Copy) : State :=
  let k := s.core c
  if k.sets = 0 || k.ways = 0 then s.dropLabs (c / 8) x
  else
    let set (y : Copy) : Nat := Config.cacheSet k.sets y.key % k.sets
    let old := k.copies.filter (fun y => y.key == x.key)
    let rest := k.copies.filter (fun y => y.key != x.key)
    let same := rest.filter (fun y => set y == set x)
    let out := same.drop (k.ways - 1)
    let s1 := s.setCore c { k with copies := x :: rest.filter (fun y => !out.contains y) }
    out.foldl (fun s y => s.toPool c y) (old.foldl (fun s y => s.dropLabs (c / 8) y) s1)

/-- The private copy that serves a load. -/
def State.copyAt (s : State) (key : Nat) : Option Copy := s.me.copies.find? (fun c => c.key == key / 64 && s.live c)

/-- A victim copy that serves a load of a member: the core that holds it, and the copy (R227). -/
def State.victimAt (s : State) (key : Nat) : Option (Nat × Copy) :=
  if !s.me.joined then none
  else (List.range 8).findSome? (fun i =>
    ((s.core (8 * s.cl + i)).victims.find? (fun c => c.key == key / 64 && s.live c)).map (fun c => (8 * s.cl + i, c)))

/-- The copy that serves a load, and the state after it: a private hit becomes the most recently used, a pool hit moves into the
private part (R226, R227). -/
def State.hit (s : State) (key : Nat) : Option (State × Copy) :=
  match s.copyAt key with
  | some c => some (s.setMe { s.me with copies := c :: s.me.copies.filter (fun y => y != c) }, c)
  | none => match s.victimAt key with
    | none => none
    | some (m, c) => some ((s.setCore m { s.core m with victims := (s.core m).victims.filter (fun y => y != c) }).install s.cur c, c)

/-- Every copy of a line in the cluster is dropped before a store of the cluster (R226). -/
def dropCopies (line : Nat) (k : Core) : Core :=
  { k with copies := k.copies.filter (fun c => c.key != line), victims := k.victims.filter (fun c => c.key != line) }

/-- Label references of the copies of a line that core c of cluster k holds. -/
def State.dropLineFrom (s : State) (line k : Nat) : List Nat → State
  | [] => s
  | c :: l =>
    let old := ((s.core c).copies ++ (s.core c).victims).filter (fun x => x.key == line)
    let s1 := old.foldl (fun s x => s.dropLabs k x) s
    let s2 := if old.isEmpty then s1 else s1.setCore c (dropCopies line (s1.core c))
    s2.dropLineFrom line k l

def coresOf (k : Nat) : List Nat := (List.range 8).map (fun i => 8 * k + i)

def State.dropLine (s : State) (k line : Nat) : State := s.dropLineFrom line k (coresOf k)

/-! ### Reading and writing a piece -/

/-- Heartbeats are exchanged with a module that holds something here, or of which this module does (R406, R407). -/
def State.linkPeer (s : State) (m : Nat) : State :=
  { s with plant := { s.plant with peers := fset s.plant.peers m { (fget s.plant.peers m).getD {} with act := true } } }

/-- The traffic of a slot with another module, or with a page that one holds, is noted (R406). -/
def State.noteTraffic (s : State) (key slot : Nat) : State :=
  if isRemote key then
    let m := remoteModule key
    let p := (fget s.plant.peers m).getD {}
    { s with plant := { s.plant with peers := fset s.plant.peers m { p with act := true, slots := p.slots ||| ((1 : Word) <<< slot) } } }
  else match s.pageAbroad (key / 64) with
    | some p => { s with pages := fset s.pages (key / 65536) { p with slots := p.slots ||| ((1 : Word) <<< slot) } }
    | none => s

/-- Whether lines at a key may be copied: space 0x0 under DRAM, coherent host memory or another module (R226, R246). -/
def Piece.copied (p : Piece) : Bool :=
  !p.plain && !isCtl p.key && !isScratch p.key && (!isRemote p.key || (p.key - 2 ^ 56) % 2 ^ 42 < 2 ^ 41)

/-- A copy's label handle as a source after the hit: where the copy was the last place that held the handle and a pool hit has let it
go, the label in full form (R223, R227). -/
def State.copySrc (s t : State) (h : Handle) : LSrc :=
  if fixedHandle h || (fget t.myCluster.clt h.toNat).isSome then .h h
  else match s.labOf h with
    | none => .h hPOISON
    | some l => .l (some l)

/-- One piece of a load: its bytes and the source its granule gives to the label (R126, R129, R382). The holder's accesses meet
the working version, and no copy serves them (R255). -/
def State.readPiece (s : State) (home : Bool) (p : Piece) : Res (State × List Byte × LSrc) :=
  match s.viewFor s.cl s.act.floor false p.key p.addr with
  | .error e => .error e
  | .ok v =>
    match (if v || home || !p.copied then none else s.hit p.key) with
    | some (t, c) =>
      .ok (t.atTime (tmax s.act.floor c.wts), (c.bytes.drop (p.key % 64)).take p.len,
        s.copySrc t (if c.summary then hTRUE else c.labs.getD (p.key % 64 / 16) hTRUE))
    | none =>
      if s.foreignTag v p.key s.slot then trapped .prot p.addr
      else
        let t := s.noteTraffic p.key s.slot
        .ok (if p.plain then t else t.timeLoad v p.key, s.rdBytes v p.key p.len, s.tagSrc v p.key)

def State.readPieces (s : State) (home : Bool) : List Piece → Res (State × List Byte × List LSrc)
  | [] => .ok (s, [], [])
  | p :: l =>
    match s.readPiece home p with
    | .error e => .error e
    | .ok (s1, bs, src) =>
      match s1.readPieces home l with
      | .error e => .error e
      | .ok (s2, bs2, srcs) => .ok (s2, bs ++ bs2, src :: srcs)

/-- The tag that a store leaves on the granule of a piece: replaced when the whole granule is written, else the product
under WIDEN formed by the table of the home (R129). The flag says that environments were dropped. -/
def State.storeTag (s : State) (v : View) (p : Piece) (h : Handle) : Res (State × Word) :=
  if isHost p.key || isCtl p.key then .ok (s, 0)
  else
    let own := isScratch p.key && scratchCluster p.key == s.cl
    let old := s.rdTag v (p.key / 16)
    if p.len = 16 then
      if own then .ok (s.setTagH v p.key h, 0)
      else match s.setTag v p.key s.slot (s.labOf h) with
        | none => trapped .ltfull 0
        | some t => .ok (t, 0)
    else if s.foreignTag v p.key s.slot then trapped .prot p.addr
    else if h = hTRUE || (own && old = h) then .ok (s, 0)
    else if own && old = hTRUE then .ok (s.setTagH v p.key h, 0)
    else
      let tb := tabOf p.key
      let new := s.arrive s.slot tb.die (s.labOf h)
      match tintern tb.size (s.tab tb) s.slot new with
      | none => trapped .ltfull 0
      | some (t0, h0) =>
        let s0 := if fixedHandle h0 then s else s.setTab tb t0
        match lprod (s.jobLab s.slot tb.die) true (s0.tagLab v p.key) new with
        | none => .ok (s, 0)
        | some (l, lw) =>
          match s0.setTag v p.key s.slot l with
          | none => trapped .ltfull 0
          | some t => .ok (if fixedHandle h0 then t else t.setTab tb (tdrop (t.tab tb) h0), if lw then flagLW else 0)

/-- A store reaches its line: copies of the cluster are dropped and the line is stamped (R226, R247), a working version by the
times of its holder's accesses (R255, R257); a posted write to plain PCIe memory leaves a flush to wait for (R264). It is performed at
once, so that a later load of plain PCIe memory sees it, where the spec orders no read after it before FENCE.SYS (DESIGN CHOICE, log 58). -/
def State.touchStore (s : State) (v : View) (p : Piece) : State :=
  let s1 := (s.dropLine s.cl (p.key / 64)).noteTraffic p.key s.slot
  if p.plain then s1.setAct { s1.act with posted := true } else s1.timeStore v p.key

/-- One piece of a store (R247, R269). An access goes in units of 32 bytes, each stamped once (R240, R247): seen is the unit that
the piece before it has stamped. -/
def State.writePiece (s : State) (seen : Option Nat) (p : Piece) (bytes : List Byte) (h : Handle) : Res (State × Word) :=
  match s.viewFor s.cl s.act.floor true p.key p.addr with
  | .error e => .error e
  | .ok v =>
    match (if seen = some (p.key / 32) then s else s.touchStore v p).storeTag v p h with
    | .error e => .error e
    | .ok (t, f) => .ok (t.wrBytes v p.key ((bytes.drop p.off).take p.len), f)

def State.writePieces (s : State) (bytes : List Byte) (h : Handle) : Option Nat → List Piece → Res (State × Word)
  | _, [] => .ok (s, 0)
  | seen, p :: l =>
    match s.writePiece seen p bytes h with
    | .error e => .error e
    | .ok (s1, f) =>
      match s1.writePieces bytes h (some (p.key / 32)) l with
      | .error e => .error e
      | .ok (s2, g) => .ok (s2, f ||| g)

/-! ### The walker's reads (R238, R243) -/

/-- One entry that a walk reads: a load at its home with the floor of the access that walks; it waits as a load does. -/
def State.walkRead (s : State) (x : Word) : List Piece → Res State
  | [] => .ok s
  | p :: l =>
    match s.viewFor s.cl s.act.floor false p.key x with
    | .error e => .error e
    | .ok v => (if p.plain then s else s.timeLoad v p.key).walkRead x l

/-- What the walk for an address of core c reads; nothing where the cluster holds the translation. -/
def State.walkPieces (s : State) (c : Nat) (x : Word) : List Piece :=
  let root := (s.core c).ptroot
  if x.toNat / 2 ^ 60 != 0 || (s.cached c (x.toNat % 2 ^ 60)).isSome || !root.getLsbD 0 then []
  else (s.walkKeys (c / 8) ((root >>> 12).toNat % 2 ^ 39 * 4096) (x.toNat % 2 ^ 60) false 4).map (fun p => ⟨x, 0, 8, p.1, p.2⟩)

/-- The reads of the walk for an address of the acting core. -/
def State.walked (s : State) (x : Word) : Res State := s.walkRead x (s.walkPieces s.cur x)

/-- Whether a read of the released version with a floor waits for a release (R256, R259). -/
def State.mustWait (s : State) (floor : Time) (key : Nat) : Bool :=
  match s.tenureAt (key / 64) with
  | some (_, h) => h.kind == 2 && tle h.stamp floor
  | none => match s.pageAbroad (key / 64) with
    | some p => p.write && tle p.stamp floor
    | none => false

/-- Reads in the memory order by a unit of cluster k that holds no tenure, from a floor on: each takes its time and its lease at the
home of its line, and a lease under write tenure ends before G (R243, R247, R256). None: a read must wait for a release. -/
def State.homeReads (s : State) (k : Nat) (floor : Time) : List Piece → Option (State × Time)
  | [] => some (s, floor)
  | p :: l =>
    if p.plain then s.homeReads k floor l
    else if s.mustWait floor p.key then none
    else
      let st := s.stamp (p.key / 64)
      let t := tmax floor st.wts
      let e := t + (s.cluster k).lease
      let e := match s.gOf (p.key / 64) with | some g => if tle g e then g - 1 else e | none => e
      (s.setStamp (p.key / 64) { st with rts := tmax st.rts e }).homeReads k t l

/-- The walks of a unit of the cluster of core c, one for each 64 KiB that the pieces lie in: loads from the cluster's LTIME on; a walk
that would have to wait takes no time here (R238, log 51). -/
def State.unitWalks (s : State) (c : Nat) : Option Nat → List Piece → State
  | _, [] => s
  | seen, p :: l =>
    if seen = some (p.addr.toNat / 65536) then s.unitWalks c seen l
    else ((s.homeReads (c / 8) (s.cluster (c / 8)).ltime (s.walkPieces c p.addr)).map (·.1)).getD s |>.unitWalks c (some (p.addr.toNat / 65536)) l

/-- The walks of an access: one for each 64 KiB that its pieces lie in. -/
def State.walks (s : State) : Option Nat → List Piece → Res State
  | _, [] => .ok s
  | seen, p :: l =>
    if seen = some (p.addr.toNat / 65536) then s.walks seen l
    else match s.walked p.addr with
      | .error e => .error e
      | .ok t => t.walks (some (p.addr.toNat / 65536)) l

/-- A fault that an access at x meets comes after the walks of its pages. -/
def onPage {α : Type} (x : Word) : Res α → Res α
  | .error (.trap c v) => .error (.access x c v)
  | r => r

/-- The walks of an access at x that faults with a value v: to its first page, and to that of v, which is an address but for a fault of a
label table. -/
def State.walksTo (s : State) (x : Word) (c : Cause) (v : Word) : Res State :=
  s.walks none ({ addr := x, off := 0, len := 0, key := 0 } ::
    if c = .labelovf || c = .ltfull then [] else [{ addr := v, off := 0, len := 0, key := 0 }])

/-- What follows where an access has stopped with a fault: after its walks, which may wait; any other stop stays. -/
def State.faulted {α : Type} (s : State) (e : Stop) (f : State → Cause → Word → Res α) : Res α :=
  match e with
  | .trap c v => f s c v
  | .access x c v =>
    match s.walksTo x c v with
    | .ok t => f t c v
    | .error e => .error e
  | e => .error e

/-- The first piece of a labelled store that is bound for host memory: PROT (R266). -/
def hostLabelFault (h : Handle) (ps : List Piece) : Option Word :=
  if h = hTRUE then none else (ps.find? (fun p => isHost p.key)).map (·.addr)

def liftE {α : Type} : Except (Cause × Word) α → Res α
  | .ok a => .ok a
  | .error (c, v) => .error (.trap c v)

/-- A load of n bytes: the bytes and the label sources of its granules, in increasing address (R269); at its home, with no copy,
where the load is of a signal that was observed there (R261). -/
def State.loadAt (s : State) (home : Bool) (k : Kind) (x : Word) (n : Nat) : Res (State × List Byte × List LSrc) :=
  onPage x (match s.pieces s.cur s.act.sup k x n with
  | .error (c, v) => .error (.trap c v)
  | .ok ps =>
    match s.walks none ps with
    | .error e => .error e
    | .ok t => t.readPieces home ps)
def State.load (s : State) (k : Kind) (x : Word) (n : Nat) : Res (State × List Byte × List LSrc) := s.loadAt false k x n

/-- A store of bytes with a label handle (R269); its LW flags. -/
def State.store (s : State) (x : Word) (bytes : List Byte) (h : Handle) : Res (State × Word) :=
  onPage x (match s.pieces s.cur s.act.sup .wr x bytes.length with
  | .error (c, v) => .error (.trap c v)
  | .ok ps =>
    match hostLabelFault h ps with
    | some a => trapped .prot a
    | none =>
      match s.walks none ps with
      | .error e => .error e
      | .ok t => t.writePieces bytes h none ps)

/-- Whether every source of a record is free of POISON (R323, R327). -/
def State.anyPoison (s : State) (l : List LSrc) : Bool := l.any (fun x => s.srcLab x == none)

end Sys2Proof.Machine
end

