-- ==== Sys2Proof/Machine/Ops.lean ====
section
/-! DEFINITION. The shared operations: messages that are posted, completion counters (R304 to R306), the end of an
activation (R181, R298), taking an exception and returning from it (R336 to R340, R354 to R357), landing results (R79),
markers (R80 to R82), ELECT delivery (R330) and the end of every instruction. -/

namespace Sys2Proof.Machine

/-! ### Released scratchpad bytes (R225, R229) -/

/-- Scratchpad bytes from offset a to b of a core's portion read zero with TRUE and full from now on; their tags drop their
references (R124, R225). -/
def State.clearScratch (s : State) (c a b : Nat) : State :=
  let lo := keyScratch (c / 8) (c % 8 * 2 ^ 18 + a)
  let hi := keyScratch (c / 8) (c % 8 * 2 ^ 18 + b)
  let inside (k : Nat) : Bool := decide (lo ≤ k) && decide (k < hi)
  let gone := ((s.tags ++ s.wtags).filter (fun p => inside (p.1 * 16))).map (·.2)
  let s1 := s.unrefAll (c / 8) gone
  { s1 with mem := s1.mem.filter (fun p => !inside p.1), wmem := s1.wmem.filter (fun p => !inside p.1)
            tags := s1.tags.filter (fun p => !inside (p.1 * 16)), wtags := s1.wtags.filter (fun p => !inside (p.1 * 16))
            fe := s1.fe.filter (fun p => !inside (p.1 * 8)), wfe := s1.wfe.filter (fun p => !inside (p.1 * 8)) }

/-- Whether a bound channel's ring or named region touches offsets from a on of its core's portion (R225, R229). -/
def Chan.touches (ch : Chan) (a : Nat) : Bool :=
  ch.bound && (decide (a < ch.rbase.toNat % 2 ^ 18 + ch.rsize.toNat * 32) ||
    (ch.region != 0 && decide (a < ch.region.toNat % 2 ^ 18 + ch.rgsize.toNat * 32)))

/-- The cache portion of a core has another size: its copies are dropped, and the victims that its part no longer holds. -/
def State.resized (s : State) (c : Nat) : State :=
  let k := s.core c
  let out := k.copies ++ k.victims.drop k.victimLines
  out.foldl (fun s x => s.dropLabs (c / 8) x) (s.setCore c { k with copies := [], victims := k.victims.take k.victimLines })

/-- The split that a starting activation of a launch meets: another launch gives the span back to LSPLIT; a launch marked
adaptive carve takes it, or runs under fixed carve and sets FB (R228, R229). A launch's channels are taken to be all bound channels of the
core, and a change of LSPLIT during the run releases nothing until the split returns (DESIGN CHOICE, log 57). -/
def State.carveFor (s : State) (c : Nat) (r : Rec) : State :=
  let k := s.core c
  let s1 := match k.carveRun with
    | some (l, u, _) =>
      if r.launch != 0 && l != r.launch then
        ((s.setCore c { k with carveRun := none }).clearScratch c (u.toNat * 0x2000) (k.lsplit.toNat * 0x2000)).resized c
      else s
    | none => s
  let k1 := s1.core c
  if r.carve && k1.carveRun.isNone then
    let maxc := k1.carve.toNat / 2 ^ 8 % 64
    let u := 32 - maxc
    if k1.lsplit.toNat < u || k1.chans.toList.any (fun ch => ch.touches (u * 0x2000)) then
      s1.setCore c { k1 with carve := k1.carve ||| ((1 : Word) <<< 32) }
    else
      let cur := (k1.carve &&& (0x3F : Word)) <<< 16
      ((s1.clearScratch c (u * 0x2000) (k1.lsplit.toNat * 0x2000)).setCore c
        { k1 with carveRun := some (r.launch, BitVec.ofNat 6 u, k1.carve.setWidth 6), carve := (k1.carve &&& ~~~ ((0x3F : Word) <<< 16)) ||| cur }).resized c
  else s1

/-! ### Tenants (R376, R379) -/

/-- Whether a core lies in the sub-mesh of a slot. Slot 0 has no record, and bit 0 of every router is 1 (R376, R378). -/
def State.inSub (s : State) (slot core : Nat) : Bool :=
  slot == 0 || ((s.tenant slot).getLsbD 0 && inRect (tenantRect (s.tenant slot)) core)
/-- The domain tenant identity of a slot (R376). -/
def State.dtid (s : State) (slot : Nat) : Nat := (s.tenant slot).toNat / 2 ^ 48 % 2 ^ 16

/-! ### Running and parking (R26, R80, R302) -/

/-- A ready activation runs. -/
def Core.runReady (k : Core) (a : Act) : Core :=
  { k with ready := k.ready.filter (fun b => b.slot != a.slot), running := true, stalled := false,
           act := { a with level := k.prioOf a.chan } }

/-- A queued activation starts in a free slot (R27, R229). -/
def State.startQueued (s : State) (c : Nat) (q : Queued) (slot : Nat) : State :=
  let s1 := s.carveFor c q.rcd
  let k := s1.core c
  (s1.trace c 1 (traceAt q.chan.toNat q.entry)).setCore c { k with
    queue := k.queue.filter (fun x => x.chan != q.chan), running := true, stalled := false, nextAid := k.nextAid + 1
    act := s1.startAct c q slot }

/-- A core of slot 0, which lies in no valid rectangle, runs only activations of channels 56 to 63 (R376). -/
def Core.allows (k : Core) (i : BitVec 6) : Bool := k.tslot != 0 || decide (56 ≤ i.toNat)

/-- Whether the handler of a forced stop runs in an activation (R363). -/
def Act.inStop (a : Act) : Bool := match a.trap with | some t => t.stop | none => false
def State.inStop (s : State) : Bool := s.me.stopReq && s.act.inStop

/-- The core takes the first activation of the highest level, when none runs and it may issue (R302, R335, R361). A core that is
to stop takes only the handler of its forced stop, which runs to its ERET (R363). -/
def State.dispatch (s : State) (c : Nat) : State :=
  let k := s.core c
  if k.running || k.halted then s
  else if k.stopReq then
    (match k.ready.find? Act.inStop with | some a => s.setCore c (k.runReady a) | none => s)
  else
    let r := firstOf Act.cand k.ready
    let q := match k.freeSlot with | none => none | some i => (firstOf Queued.cand (k.queue.filter (fun q => k.allows q.chan))).map (fun q => (q, i))
    match r, q with
    | none, none => s
    | some a, none => s.setCore c (k.runReady a)
    | none, some (q, i) => s.startQueued c q i
    | some a, some (q, i) => if a.cand.before q.cand then s.setCore c (k.runReady a) else s.startQueued c q i

/-- Channel i of core c yields an activation if its entry allows it, and the activation is queued (R298, R302). -/
def State.yieldQ (s : State) (c : Nat) (i : BitVec 6) : State :=
  let k := s.core c
  let ch := k.chans[i.toNat]'i.isLt
  match ch.recs with
  | [] => s
  | r :: l =>
    if ch.act || !ch.bound || ch.pend = 0 || !ch.en || ch.hold || !(ch.ready || ch.auto) || k.stopReq || !k.allows i then s
    else
      let q : Queued := { chan := i, level := ch.prio, since := s.clock, entry := ch.entry, rbase := ch.rbase, rsize := ch.rsize, rcd := r }
      let ch1 := { ch with act := true, pend := ch.pend - 1, ready := ch.ready && ch.auto, recs := l }
      (s.refC (c / 8) r.lab).setCore c { k with chans := k.chans.set i.toNat ch1 i.isLt, queue := k.queue ++ [q] }

/-- As yieldQ; an idle core takes the activation. -/
def State.yieldAt (s : State) (c : Nat) (i : BitVec 6) : State := (s.yieldQ c i).dispatch c

/-- The running activation parks; the core takes the next (R26, R80, R302). -/
def State.park (s : State) (p : Park) (npc : Word) : State :=
  (s.setMe { s.me with running := false, parked := s.me.parked ++ [{ s.act with park := some p, npc := npc }] }).dispatch s.cur

/-- A parked activation of core c becomes ready, changed by f (R302). -/
def State.wake (s : State) (c : Nat) (slot : Nat) (f : Act → Act) : State :=
  let k := s.core c
  match k.parked.find? (fun a => a.slot == slot) with
  | none => s
  | some a =>
    (s.setCore c { k with parked := k.parked.filter (fun b => b.slot != slot),
                          ready := k.ready ++ [{ f a with park := none, readyAt := s.clock }] }).dispatch c

/-! ### Messages -/

/-- Whether a colour is the old one for a core: its own until it flips, the other one then (R361, R362). -/
def Core.oldColor (k : Core) (c : Bool) : Bool := (k.color.getLsbD 0 != k.color.getLsbD 1) == c
def Core.countSent (k : Core) (c : Bool) : Core :=
  if k.oldColor c then { k with sentOld := k.sentOld + 1 } else { k with sentNew := k.sentNew + 1 }
def Core.countRecv (k : Core) (c : Bool) : Core :=
  if k.oldColor c then { k with recvOld := k.recvOld + 1 } else { k with recvNew := k.recvNew + 1 }

/-- A message enters the networks from a send queue, where it was counted (R362). -/
def State.toNet (s : State) (m : Msg) : State := { s with net := s.net ++ [m] }

/-- The core of this module at which a message is counted as sent. -/
def Msg.sentAt (m : Msg) : Nat := m.poster.getD m.score.toNat

/-- A message enters the networks that stood in no send queue: it takes its place in the sending order of its core (R309), and a
cut counts it at its sender (R362). -/
def State.post (s : State) (m : Msg) : State :=
  let k := s.core m.sentAt
  (s.setCore m.sentAt { k.countSent m.color with sendSeq := k.sendSeq + 1 }).toNet { m with seq := k.sendSeq }

/-- A message that hardware posts (R430): sender is the receiving core, label TRUE. Its colour is the core's, where the cause gives none
(R362). -/
def State.hwMsg (s : State) (core : Nat) (chan : BitVec 6) (payload : List Byte) (time : Time) : Msg :=
  { core := core, dmod := s.plant.modId, chan := chan, net := 2, payload := payload, score := BitVec.ofNat 14 core,
    smod := s.plant.modId, time := time, sup := decide (56 ≤ chan.toNat), color := (s.core core).color.getLsbD 0, poster := some core
    tslot := (s.core core).tslot.toNat }

/-- An answer to a message goes back to its sender (R300, R305). A message that hardware posts has no sender to answer: its refusal counts
at the core that refuses it alone (DESIGN CHOICE, log 60). -/
def State.answer (s : State) (m : Msg) (kind : Nat) : State :=
  match m.from_ with
  | none => s
  | some (c, aid) => { s with answers := s.answers ++ [⟨c, aid, kind, m.chset.isSome⟩] }

/-- A 16-bit field of MSGCNT counts and holds at 0xFFFF (R300). Fields: 0 NAKRX, 1 DROPRX, 2 NAKTX, 3 DROPTX. -/
def bump (w : Word) (f : Nat) : Word :=
  if (w >>> (16 * f)) &&& 0xFFFF = 0xFFFF then w else w + (1 <<< (16 * f))


/-! ### Target words (R310, R314) -/

/-- A target word that R314 refuses: a reserved bit, a core or module out of range, a field that EXP forbids. -/
def badTarget (t : Word) : Bool :=
  (t &&& 0xFFFFFF00E000C000) != 0 ||
    (if t.getLsbD 38 then (t &&& 0x3F1FFF3000) != 0 else decide (9215 < t.toNat % 2 ^ 14) || decide (6143 < t.toNat / 2 ^ 16 % 2 ^ 13))

/-- Where a message goes. -/
structure Target where
  core : Nat
  dmod : BitVec 13
  chan : BitVec 6
  net : BitVec 2 := 0
  badAlias : Bool := false
  deriving DecidableEq, Repr

/-- The receiver that a target word names for a sender, through the alias table of its slot for an expert index. -/
def State.target (s : State) (slot sender : Nat) (t : Word) : Target :=
  let net : BitVec 2 := if t.getLsbD 39 then 1 else 0
  if t.getLsbD 38 then
    let e := ((fget (s.job slot).alias_ (t.toNat % 4096)).getD 0).toNat
    let base := e % 2 ^ 14
    let n := e / 2 ^ 14 % 64
    if e / 2 ^ 39 % 2 = 1 && base + n ≤ 9215 then
      { core := base + sender % (n + 1), dmod := BitVec.ofNat 13 (e / 2 ^ 26), chan := BitVec.ofNat 6 (e / 2 ^ 20), net := net }
    else { core := sender, dmod := s.plant.modId, chan := 0, net := net, badAlias := true }
  else { core := t.toNat % 2 ^ 14, dmod := BitVec.ofNat 13 (t.toNat / 2 ^ 16), chan := BitVec.ofNat 6 (t.toNat / 2 ^ 32), net := net }

/-- The number under which an answer finds no activation. -/
def noAct : Nat := 2 ^ 32

/-! ### Completion counters (R304 to R306) -/

def State.counter (s : State) (slot id : Nat) : Counter := (fget (s.job slot).counters id).getD {}
def State.setCounter (s : State) (slot id : Nat) (c : Counter) : State :=
  s.setJob slot { s.job slot with counters := fset (s.job slot).counters id c }
def jobCounter : Nat := 3 * 16384
def counterLevel (id : Nat) : Nat := id / 16384

/-- The job counter as it stands: allocated in state ZERO from the start of the job (R304). -/
def State.counterOr (s : State) (slot id : Nat) : Counter :=
  if id = jobCounter then (fget (s.job slot).counters id).getD { state := .zero } else s.counter slot id

/-- A counter is raised by n (R305); a ZERO job counter opens again (R304). -/
def State.raiseCounter (s : State) (slot id n : Nat) (t : Time) : State :=
  let c := s.counterOr slot id
  let st := if id = jobCounter && c.state = .zero then CState.open_ else c.state
  s.setCounter slot id { c with count := c.count + BitVec.ofNat 32 n, state := st, time := tmax c.time t }

/-- A channel whose LEVEL still names a freed counter goes back to 0 (R305). -/
def clearLevel (slot id : Nat) (chan : BitVec 6) (k : Core) : Core :=
  let ch := k.chans[chan.toNat]'chan.isLt
  if ch.level.toNat = id && ch.lslot = slot && ch.lhome.isNone then { k with chans := k.chans.set chan.toNat { ch with level := 0 } chan.isLt } else k

/-- A counter that has reached zero, with nothing that keeps it, is free (R304, R327): LEVEL is cleared in channel CHAN of the
cores of the launch's rectangle (R305). -/
def State.freeCounter (s : State) (slot id : Nat) : State :=
  let c := s.counter slot id
  if id = jobCounter || c.held || c.waiters != 0 || c.state = .free || c.state = .open_ || c.count != 0
      || s.succs.any (fun x => x.1 == slot && x.2.1 == id) then s
  else
    let s1 := s.setCounter slot id { (({} : Counter)) with zeros := c.zeros }
    { s1 with cores := s1.cores.map (fun p => (p.1, if inRect c.rect p.1 then clearLevel slot id c.chan p.2 else p.2)) }

/-- The lowest cluster of a tenant's rectangle (R304, R376). -/
def State.lowCluster (s : State) (slot : Nat) : Nat :=
  let r := ((fget s.plant.tenants slot).getD 0).toNat
  (r / 2 ^ 16 % 32) * 48 + r / 2 ^ 8 % 64

/-- What the home of a launch counter makes of its successor record: nothing to send, a read that waits for a release, or the message
with the state after the reads. -/
inductive SuccRead where
  | nothing
  | waits
  | send (t : State) (m : Msg)
  deriving DecidableEq, Repr

/-- A unit's read of a range in the memory order, from a floor on, with the walks; the released version is read, and another slot's tag
forbids it (R238, R328, R380, R382). -/
def State.unitRead (s : State) (c : Nat) (sup : Bool) (slot : Nat) (x : Word) (n : Nat) (floor : Time) :
    Except (Cause × Word) (Option (State × Time × List Byte × List Piece)) :=
  match s.pieces c sup .rd x n with
  | .error e => .error e
  | .ok ps =>
    if ps.any (fun p => s.foreignTag false p.key slot) then .error (.prot, x)
    else .ok (((s.unitWalks c none ps).homeReads (c / 8) floor ps).map (fun r =>
      (r.1, r.2, ps.flatMap (fun p => s.rdBytes false p.key p.len), ps)))

/-- The successor message of a launch: its record and payload are read at the counter's home (R328). It names the receiving core as its
sender (R27, R430), and takes the colour of what brought the counter to zero (R362). A record that a fault or another slot's tag keeps
from being read sends nothing. -/
def State.successor (s : State) (slot : Nat) (c : Counter) (color : Bool) : SuccRead :=
  if c.succ = 0 then .nothing
  else match s.unitRead c.core c.sup slot c.succ 32 c.time with
    | .error _ => .nothing
    | .ok none => .waits
    | .ok (some (s1, f, bytes, _)) =>
      let t := wordOf (bytes.take 8)
      let addr := wordOf ((bytes.drop 8).take 8)
      let len := (wordOf ((bytes.drop 16).take 8)).toNat
      if 256 < len || (bytes.drop 24).any (fun b => b != 0) || badTarget t then .nothing
      else match s1.unitRead c.core c.sup slot addr len f with
        | .error _ => .nothing
        | .ok none => .waits
        | .ok (some (s2, _, data, qs)) =>
          let lab := qs.foldl (fun l p =>
            match lprod (s.jobLab slot (dieOf (c.core / 8))) true l (s.tagLab false p.key) with
            | some (r, _) => r | none => l) c.lab
          let g := s.target slot c.core t
          .send s2 {
            core := g.core, dmod := g.dmod, chan := g.chan, net := 2, payload := data,
            lab := lab, score := BitVec.ofNat 14 g.core, smod := g.dmod, ctr := BitVec.ofNat 16 c.parent, time := c.time,
            succ := true, sup := decide (56 ≤ g.chan.toNat), badAlias := g.badAlias, tslot := slot,
            from_ := some (c.core, noAct), color := color, poster := some c.core }

/-- A launch counter has reached zero: its successor leaves once its record can be read, and its graph is raised before (R305, R328). None
while a read waits for a release. -/
def State.sendSuccessor (s : State) (slot : Nat) (c : Counter) (color : Bool) : Option State :=
  match s.successor slot c color with
  | .nothing => some s
  | .waits => none
  | .send t m => some ((t.raiseCounter slot c.parent 1 c.time).post m)

/-- A counter is lowered by one, with the time and the colour of the cause; one that reaches zero lowers what it counts to (R305, R362). -/
def State.lowerCounter (s : State) (slot id : Nat) (t : Time) (color : Bool) : Nat → State
  | 0 => s
  | fuel + 1 =>
    let c := s.counterOr slot id
    if c.state = .free || c.count = 0 then s
    else
      let c1 := { c with count := c.count - 1, time := tmax c.time t }
      if c1.count != 0 then s.setCounter slot id c1
      else
        let open_ := c.state = .open_
        let c2 := { c1 with state := if open_ then .zero else c.state, zeros := c.zeros + 1 }
        let s1 := s.setCounter slot id c2
        if id = jobCounter then
          if open_ then
            s1.post { s1.hwMsg (8 * s1.lowCluster slot) 62 (toBytes 8 c2.zeros) c2.time with color := color }
          else s1
        else
          match (if counterLevel id = 0 && open_ then s1.sendSuccessor slot c2 color else some s1) with
          | none => { s1 with succs := s1.succs ++ [(slot, id, color)] }
          | some s2 => (s2.lowerCounter slot c2.parent c2.time color fuel).freeCounter slot id

/-- The launches whose successor record waited are looked at again, after a release (R256, R328). -/
def State.retrySuccs (s : State) : State :=
  s.succs.foldl (fun s x =>
    let c := s.counter x.1 x.2.1
    match s.sendSuccessor x.1 c x.2.2 with
    | none => s
    | some t => (({ t with succs := t.succs.filter (fun y => y != x) }).lowerCounter x.1 c.parent c.time x.2.2 3).freeCounter x.1 x.2.1) s

/-- Every counter counted to a counter, itself included (R306): by parents, at most three levels down. -/
def countsTo (cs : FMap Counter) (id : Nat) : Nat → Nat → Bool
  | 0, k => k == id
  | n + 1, k => k == id || (match fget cs k with | some c => c.state != .free && c.parent != 0 && countsTo cs id n c.parent | none => false)

/-! ### Places that hold label handles (R124) -/

def RegWrite.labs : RegWrite → List Handle
  | .s _ _ l => [l]
  | .v _ x => x.labs

/-- The handles that a recorded access keeps (R355, log 26). -/
def LOp.labs : LOp → List Handle
  | .arith => []
  | .load _ _ _ _ la => [la]
  | .loadQ _ _ la => [la]
  | .ldfe _ _ la => [la]
  | .store _ _ l _ => [l]
  | .atom _ _ _ _ _ _ _ la ls => [la, ls]
  | .vload _ _ _ _ pre mkl => pre ++ mkl
  | .vgather _ _ _ _ pre mkl _ => pre.flatten ++ mkl
  | .vscatter _ _ _ data pre mkl _ => data.labs ++ pre.flatten ++ mkl
  | .vstore _ _ _ data pre mkl => data.labs ++ pre ++ mkl
  | .tile _ _ _ _ _ _ pre mkl => pre ++ mkl
  | .clgo _ _ la => [la]
  | .ringwait _ _ _ ls => ls
  | .syncw _ _ _ ls => ls
def Deferred.labs (d : Deferred) : List Handle := d.iss.clab :: d.op.labs ++ (match d.part with | some w => w.labs | none => [])

/-- A handle that a wait keeps beside the registers. -/
def Park.labs : Park → List Handle
  | .lwait _ lab _ _ _ => [lab]
  | .tacq _ _ lab _ _ => [lab]
  | .ringwait _ _ _ ls _ _ => ls
  | .syncw _ _ _ ls _ _ => ls
  | _ => []

/-- Every handle that a resident activation holds (R124). -/
def Act.labs (a : Act) : List Handle :=
  a.sregs.toList.map (·.lab) ++ a.mregs.toList.map (·.lab) ++ a.vregs.toList.flatMap VReg.labs ++ (a.clab :: a.cstack) ++ [a.rcd.lab]
    ++ (match a.trap with | none => [] | some t => (t.clab :: t.cstack) ++ t.shadow.toList.map (·.lab) ++ t.deferred.flatMap Deferred.labs)
    ++ a.outs.flatMap (fun o => o.writes.flatMap RegWrite.labs) ++ a.deferred.flatMap Deferred.labs
    ++ (match a.park with | some p => p.labs | none => [])

/-! ### Acquisitions that end without a grant (R277, R278) -/

/-- An acquisition ends: the blocks taken are let go; a TOPEN's entry is free again. -/
def State.letGoAcq (s : State) (h : Nat) (mode : BitVec 2) : State :=
  let e := s.thandle h
  s.setThandle h { e with
    wait := false, want := 0, open_ := e.open_ && mode != 1, stale := e.stale && e.kind != 0
    taken := if e.kind = 0 then 0 else e.taken
    blocks := if e.kind = 0 then [] else e.blocks }

/-! ### The end of an activation -/

/-- The record of a channel is freed and the channel may yield again (R298). -/
def Chan.freeUnits (ch : Chan) (r : Rec) : Chan :=
  { ch with used := ch.used - (r.units + r.pad),
            rtail := if ch.rsize = 0 then 0 else BitVec.ofNat 14 ((r.unit + r.units) % ch.rsize.toNat) }

/-- Records that a cancellation discarded are freed once nothing older is in the ring (R306). -/
def Chan.trim (ch : Chan) : List Rec → Chan
  | [] => { ch with recs := [] }
  | r :: l => if r.dead then (ch.freeUnits r).trim l else { ch with recs := r :: l }

def Chan.freeRec (ch : Chan) (r : Rec) : Chan := ({ ch.freeUnits r with act := false }).trim ch.recs

/-- The gang member of an activation that ends counts as arrived from then on; a gang whose members have all ended is gone (R282). -/
def State.gangDone (s : State) (c : Nat) (g : Option Nat) : State :=
  match g with
  | none => s
  | some g =>
    let k := s.cluster (c / 8)
    match fget k.gangs g with
    | none => s
    | some x =>
      let bit : BitVec 8 := BitVec.ofNat 8 (2 ^ (c % 8))
      let left := x.results.map (fun r => (r.1, (r.2.1, r.2.2.1, r.2.2.2.1, r.2.2.2.2 &&& ~~~ bit)))
      let y := { x with done := x.done ||| bit, results := left.filter (fun r => r.2.2.2.2 != 0) }
      let s1 := s.setCluster (c / 8) { k with gangs := if y.mask &&& ~~~ y.done = 0 then ferase k.gangs g else fset k.gangs g y }
      (left.filter (fun r => r.2.2.2.2 == 0)).foldl (fun s r => s.unrefC (c / 8) r.2.2.1) s1

/-- The gang of a start message (R282): by the launching slot and counter, and by the launch when that is another module's. -/
def Msg.gang (m : Msg) : Option Nat :=
  if !m.start then none
  else some ((match m.home with | none => 0 | some _ => 2 ^ 32 * m.launch) + m.tslot * 65536 + m.ctr.toNat)

/-- A refused, dropped or discarded message that a counter or gang still counts (R282, R305). -/
def State.lost (s : State) (m : Msg) : State :=
  let s1 := if (m.start || m.succ) && m.ctr != 0 && m.home.isNone then
      s.lowerCounter m.tslot m.ctr.toNat (tmax m.time (s.cluster (m.core / 8)).ltime) m.color 4
    else s
  s1.gangDone m.core m.gang

/-- The arrival is counted for a cut: at the receiving core, or at the sender where that core serves another slot (R362). -/
def State.countIn (s : State) (m : Msg) : State :=
  if m.counted then s
  else
    let c := if (s.core m.core).tslot.toNat = m.tslot then m.core else m.sentAt
    s.setCore c ((s.core c).countRecv m.color)

/-- A message is refused and counted (R300, R301); kind 2 is an oversize drop. -/
def State.refuse (s : State) (m : Msg) (kind : Nat) : State :=
  let k := s.core m.core
  ((s.setCore m.core { k with msgcnt := bump k.msgcnt (if kind = 2 then 3 else 2) }).countIn m |>.answer m kind).lost m

/-- A message is refused or dropped; a report of an unbound message frees the entry it reports, and the held message is refused
(R301). -/
def State.turnBack (s : State) (m : Msg) (kind : Nat) : State :=
  let s1 := s.refuse m kind
  match m.ubuf.bind (fun e => (fget (s1.core m.core).unbound e).map (fun x => (e, x))) with
  | none => s1
  | some (e, x) =>
    ((s1.setCore m.core { s1.core m.core with unbound := ferase (s1.core m.core).unbound e }).unrefC (m.core / 8) x.2).refuse x.1 1

/-- An unbound-buffer entry is freed (R301): at the DONE of the activation that took its report, the held message is offered
again when its channel is bound; else it is refused and counted. -/
def State.freeUnbound (s : State) (c : Nat) (e : Option Nat) : State :=
  match e with
  | none => s
  | some e =>
    match fget (s.core c).unbound e with
    | none => s
    | some (m, h) =>
      let s1 := (s.setCore c { s.core c with unbound := ferase (s.core c).unbound e }).unrefC (c / 8) h
      if ((s1.core c).chans[m.chan.toNat]'m.chan.isLt).bound then s1.toNet m else s1.refuse m 1

/-- Counters of which an ended activation was the launcher are no longer held (R327). -/
def State.dropHeld (s : State) (slot c aid : Nat) : State :=
  ((s.job slot).counters.filter (fun p => p.2.held && p.2.core == c && p.2.aid == aid)).foldl
    (fun s p => (s.setCounter slot p.1 { s.counter slot p.1 with held := false }).freeCounter slot p.1) s

/-- An activation has ended: its labels are dropped, its record is freed, its counter lowered, and its channel may yield again
(R28, R124, R181, R298, R305). A counter of another module is lowered there. A CCWAIT that it was at no longer waits (R304). -/
def State.endAct (s : State) (c : Nat) (a : Act) : State :=
  let s1 := (s.trace c 2 (traceAt a.chan.toNat a.pc)).unrefAll (c / 8) a.labs
  let k := s1.core c
  let ch := k.chans[a.chan.toNat]'a.chan.isLt
  let s2 := s1.setCore c { k with chans := k.chans.set a.chan.toNat (ch.freeRec a.rcd) a.chan.isLt }
  let s2 := match a.waits with
    | none => s2
    | some key =>
      let t := k.tslot.toNat
      (s2.setCounter t key { s2.counter t key with waiters := (s2.counter t key).waiters - 1 }).freeCounter t key
  let s3 := if a.rcd.ctr = 0 || a.rcd.home.isSome then s2 else s2.lowerCounter a.rcd.tslot a.rcd.ctr.toNat a.floor (k.color.getLsbD 0) 4
  (((s3.dropHeld k.tslot.toNat c a.aid).gangDone c a.gang).freeUnbound c a.rcd.ubuf).yieldAt c a.chan

/-- The running activation ends and the core takes the next one (R181, R302). -/
def State.endRunning (s : State) : State :=
  ((s.setMe { s.me with running := false, act := Act.blank }).endAct s.cur s.act).dispatch s.cur

/-- The registers of a result take their values at once: a short instruction's (R78). -/
def State.applyNow (s : State) : List RegWrite → State
  | [] => s
  | .s n v l :: ws => (s.writeS n v l).applyNow ws
  | .v n x :: ws => (s.writeV n x).applyNow ws

/-- What gathers had read below their faulting elements lands, as the fault is taken, and the flags of the elements below (R175). -/
def State.landParts (s : State) : State :=
  let ws := s.act.deferred.filterMap (·.part)
  let f := s.act.deferred.foldl (fun f d => f ||| d.pflags) 0
  if ws = [] && f = 0 then s
  else
    let t := (s.applyNow ws).orFlags f
    (t.unrefAll t.cl (ws.flatMap RegWrite.labs)).setAct { t.act with deferred := t.act.deferred.map (fun d => { d with part := none, pflags := 0 }) }

/-! ### The engines at a cancellation (R306) -/

/-- A BTE channel at the cancellation of an activation: its chain stops at the current record, and a chain head that it has queued is
discarded (R306). -/
def Bte.cancelled (b : Bte) (c aid : Nat) : Bte :=
  let b1 := if b.state == 1 && b.core == c && b.aid == aid then { b with cancel := true } else b
  if b.queued != 0 && b.qcore == c && b.qaid == aid then { b1 with queued := 0, qlab := 0 } else b1

/-- The engines' work of a cancelled activation: MXE commands are discarded, with V left at 1, BTE chains stop at their record,
collectives end (R306). -/
def cancelEngines (c aid : Nat) (k : Cluster) : Cluster :=
  let hit (m : MxCmd) : Bool := m.core == c && m.aid == aid
  let mine (m : MxCmd) : MxCmd := if hit m then { m with discard := true } else m
  let accs := (k.mxq.toList.flatMap (fun q => q.active.toList ++ q.shadow.toList)).filterMap (fun m => if hit m then some m.acc else none)
  { k with
    clt := (k.bte.toList.filter (fun b => b.queued != 0 && b.qcore == c && b.qaid == aid)).foldl (fun t b => tunref t b.qlab) k.clt
    accs := accs.foldl (fun (v : Vector Accum 16) i => v.set i.toNat { v[i.toNat]'i.isLt with v := true } i.isLt) k.accs
    mxq := k.mxq.map (fun q => { q with active := q.active.map mine, shadow := q.shadow.map mine })
    bte := k.bte.map (fun b => b.cancelled c aid)
    colls := k.colls.map (fun x => if x.core == c && x.aid == aid then { x with ending := some (x.ending.getD (3, 0)) } else x) }

/-! ### Taking an exception (R336 to R340) -/

/-- A trap while a handler runs: the activation ends as a cancellation ends it, its engines' work with it (R306, R340). -/
def State.doubleTrap (s : State) (p : PendTrap) : State :=
  let k := s.me
  let bytes := toBytes 8 k.xpc.toNat ++ toBytes 8 k.xval.toNat ++ toBytes 8 p.xpc.toNat ++ toBytes 8 p.xval.toNat
    ++ [0xFE, BitVec.ofNat 8 k.xcause.toNat, BitVec.ofNat 8 p.cause.code] ++ List.replicate 29 0
  let floor := k.act.floor
  let s1 := (s.setMyCluster (cancelEngines s.cur k.act.aid s.myCluster)).endRunning
  if (k.chans[63]'(by decide)).bound then s1.post (s1.hwMsg s.cur 63 bytes (tmax (s.myCluster.ltime) floor))
  else s1.haltCore false s.cur

/-- The trap is taken: the handler at UVEC or XVEC, a halt when XVEC is 0, or a double trap (R336, R340). -/
def State.takeTrap (s0 : State) (p : PendTrap) : State :=
  let s := if p.cause = .pfail then s0.setMe { s0.me with pfDone := true } else s0
  if s.act.trap.isSome then s.doubleTrap p
  else if !s.me.delegates p.cause s.act.sup && s.me.xvec = 0 then
    (s.setAct { s.act with pend := none }).haltCore false s.cur
  else s.enterHandler p

/-- A trap of the running activation is taken once its results have settled; a deferred fault found by then is delivered
in its place, and the instruction runs again (R336, R355). -/
def State.trapNow (s : State) (p : PendTrap) : State :=
  if s.act.outs != [] then s.setAct { s.act with pend := some p }
  else match s.act.deferred with
    | [] => s.takeTrap p
    | d :: _ => s.landParts.takeTrap (if p.deferred then p else deferredTrap d s.act.pc)

/-- An instruction raises a trap (R336). -/
def State.raise (s : State) (c : Cause) (v : Word) : State :=
  (s.setMe { s.me with stallSince := none, twait := false }).trapNow { cause := c, xval := v, xpc := s.act.xpcOf }

/-- A write to a register with an outstanding result is held: the core stalls (R81). Where only a recorded fault holds the
register no landing can end the hold: the oldest fault is delivered here, as where R81 parks, and the held instruction issues
again once the access has been performed again (DESIGN CHOICE, log 42). -/
def State.hold (s : State) : Stop :=
  match s.act.outs, s.act.deferred with
  | [], d :: _ => .final ((s.setMe { s.me with stallSince := none, twait := false }).trapNow (deferredTrap d s.act.xpcOf))
  | _, _ => .stall
def State.freeS (s : State) (r : BitVec 6) : Res Unit := if s.act.busyS r then .error s.hold else .ok ()
def State.freeV (s : State) (r : BitVec 4) : Res Unit := if s.act.busyV r then .error s.hold else .ok ()

/-! ### Landing (R79, R330) -/

/-- One register of an activation takes a landed value; the label's reference came with the result. -/
def applyWrite (k : Nat) (sa : State × Act) (w : RegWrite) : State × Act :=
  match w with
  | .s n v l => if n = 0 then (sa.1.unrefC k l, sa.2) else (sa.1.unrefC k (sa.2.rd n).lab, sa.2.wr n ⟨v, l⟩)
  | .v n x => (sa.1.unrefAll k (sa.2.rdV n).labs, sa.2.wrV n x)

/-- The resident activation in a slot of a core. -/
def Core.inSlot (k : Core) (slot : Nat) : Option Act := k.residents.find? (fun a => a.slot == slot)

/-- A resident activation is replaced where it stands. -/
def Core.putSlot (k : Core) (slot : Nat) (a : Act) : Core :=
  { k with act := if k.running && k.act.slot == slot then a else k.act,
           parked := k.parked.map (fun b => if b.slot == slot then a else b),
           ready := k.ready.map (fun b => if b.slot == slot then a else b) }

/-- A parked activation ends. -/
def State.endParked (s : State) (c : Nat) (a : Act) : State :=
  let k := s.core c
  ((s.setCore c { k with parked := k.parked.filter (fun b => b.slot != a.slot) }).endAct c a).dispatch c

/-- A parked activation whose wait for results is over becomes ready, with recorded faults to take the oldest (R80, R82, R355); a
DONE ends it and a fence is passed (R181, R273, R361). -/
def State.settle (s : State) (c slot : Nat) : State :=
  match (s.core c).inSlot slot with
  | none => s
  | some a =>
    let tr (b : Act) : Act := match b.deferred with | [] => b | d :: _ => { b with pend := some (deferredTrap d b.pc) }
    match a.park with
    | some .outs => if a.outs = [] then s.wake c slot tr else s
    | some .room => if a.outs = [] then s.wake c slot tr else if a.deferred = [] then s.wake c slot id else s
    | some .done =>
      if a.outs != [] then s
      else if a.deferred != [] then s.wake c slot tr
      else if a.unanswered != 0 then s.setCore c ((s.core c).putSlot slot { a with park := some .answers })
      else s.endParked c a
    | some (.fence sel) =>
      if a.outs != [] then s
      else if a.deferred != [] then s.wake c slot tr
      else if sel = 2 && a.posted then s
      else if sel = 1 then
        let f := tmaxO a.engStamp a.floor
        (s.setCluster (c / 8) { s.cluster (c / 8) with ltime := tmax (s.cluster (c / 8)).ltime f }).wake c slot
          (fun b => { b with pc := b.npc, floor := f })
      else s.wake c slot (fun b => { b with pc := b.npc })
    | _ => s

/-- The result of an elected instruction goes to the gang: kept for each member until it takes it (R330). -/
def State.electGive (s : State) (c : Nat) (g : Nat) (v : Word) (l : Handle) (floor : Time) : State :=
  let k := s.cluster (c / 8)
  match fget k.gangs g with
  | none => s
  | some x =>
    let rest : BitVec 8 := x.mask &&& ~~~ x.done &&& ~~~ (BitVec.ofNat 8 (2 ^ (c % 8)))
    let res := if rest = 0 then x.results else fset x.results x.electGen (v, l, floor, rest)
    let y := { x with electGen := x.electGen + 1, results := res }
    let s1 := s.setCluster (c / 8) { k with gangs := fset k.gangs g y }
    if rest = 0 then s1 else s1.refC (c / 8) l

/-- A long-latency result lands as one event, with its flags (R40, R79). -/
def State.land (s : State) (c slot i : Nat) : State :=
  match (s.core c).inSlot slot with
  | none => s
  | some a =>
    match a.outs[i]? with
    | none => s
    | some o =>
      let (s1, a1) := o.writes.foldl (applyWrite (c / 8)) (s, { a with outs := a.outs.eraseIdx i, flags := a.flags ||| o.flags })
      let s2 := s1.setCore c ({ s1.core c with stalled := false }.putSlot slot a1)
      let s3 := match o.iss.elect, o.writes with
        | some g, [.s _ v l] => s2.electGive c g v l a1.floor
        | _, _ => s2
      s3.settle c slot

/-! ### Markers and the end of an instruction (R80 to R83) -/

/-- A stopping core takes no further instruction of the running activation; recorded faults wait for the resumption (R361). -/
def State.stopHere (s : State) : State :=
  let a := s.act
  let p := match a.deferred with | d :: _ => some (deferredTrap d a.pc) | [] => a.pend
  s.setMe { s.me with running := false, act := Act.blank, ready := { a with readyAt := s.clock, pend := p } :: s.me.ready }

/-- The running activation is at a marker: a cancelled one ends (R306); it parks while results are outstanding; a stopping
core stops it (R361); recorded faults are taken. -/
def State.marker (s : State) : State :=
  let a := s.act
  if a.cancelled then s.endRunning
  else if a.outs != [] then s.park .outs a.pc
  else if s.me.stopReq && !a.inStop then s.stopHere
  else match a.deferred with
    | d :: _ => s.trapNow (deferredTrap d a.pc)
    | [] => s

/-- The prefix of ELECT gives the result of a short instruction to the gang (R330). -/
def State.electEnd (s : State) : State :=
  match s.act.elect with
  | none => s
  | some none => s.setAct { s.act with elect := none }
  | some (some g) =>
    let a := s.act
    let s1 := s.setAct { a with elect := none, electGen := a.electGen + 1 }
    if a.outs.any (fun o => o.iss.elect == some g) || a.deferred.any (fun o => o.iss.elect == some g) then s1
    else s1.electGive s.cur g (a.rd s.ir.d).val (a.rd s.ir.d).lab a.floor

/-- An instruction has had its effect: the pc moves on, and a switch marker is obeyed (R63, R80). -/
def State.finish (s : State) (pc : Word) : State :=
  let s1 := (s.setMe { s.me with stallSince := none, twait := false, act := { s.act with pc := pc } }).electEnd
  if s.ir.sw then s1.marker else s1

/-- The core stalls at the instruction, which issues again (R81). -/
def State.stall (s : State) : State := s.setMe { s.me with stalled := true, twait := false, stallSince := some (s.me.stallSince.getD s.clock) }

/-- The trap of an access at x, after the walks of its pages; a walk that waits for a release stalls the core (R238, R243, R256). -/
def State.raiseAt (s : State) (x : Word) (c : Cause) (v : Word) : State :=
  match s.walksTo x c v with
  | .ok t => t.raise c v
  | .error (.trap c v) => s.raise c v
  | .error _ => s.stall

/-- The outcome of an instruction that goes on in sequence. -/
def State.run (s : State) (r : Res State) : Host.Outcome State Fault Refusal :=
  match r with
  | .ok t => .next (t.finish s.npc)
  | .error (.trap c v) => .next (s.raise c v)
  | .error (.access x c v) => .next (s.raiseAt x c v)
  | .error .stall => .next s.stall
  | .error (.final t) => .next t

/-- The outcome of an instruction that gives the address to go to. -/
def State.runTo (s : State) (r : Res (State × Word)) : Host.Outcome State Fault Refusal :=
  match r with
  | .ok (t, pc) => .next (t.finish pc)
  | .error (.trap c v) => .next (s.raise c v)
  | .error (.access x c v) => .next (s.raiseAt x c v)
  | .error .stall => .next s.stall
  | .error (.final t) => .next t

/-- The marker that some instructions are before their own effect, whatever their SW bit (R80): the instruction issues
again once the results have landed. -/
def State.asMarker (s : State) : Res Unit :=
  let a := s.act
  if a.outs = [] && a.deferred = [] && !a.cancelled && (!s.me.stopReq || a.inStop) then .ok () else .error (.final s.marker)

/-- The room for one more outstanding result: with 16, the activation parks until one lands (R81). -/
def State.room (s : State) : Res Unit :=
  if s.act.outs.length + s.act.deferred.length < 16 then .ok ()
  else if s.act.outs = [] then .error (.final s.marker)
  else .error (.final (s.park .room s.act.pc))

/-- The conditions of the issue, as the deferred list keeps them (R355). -/
def State.issue (s : State) : Issue :=
  { pc := s.act.xpcOf, raw := s.raw, rm := s.act.flags.setWidth 3, focus := s.act.focus, focld := s.act.focld.getLsbD 0, clab := s.act.clab,
    elect := match s.act.elect with | some (some g) => some g | _ => none }

/-- A result is left outstanding; its labels count from now on (R79, log 26). -/
def State.leave (s : State) (o : Out) : State :=
  (s.refAll s.cl (o.writes.flatMap RegWrite.labs)).setAct { s.act with outs := s.act.outs ++ [o] }

/-- A fault found after issue is recorded (R354, R355), with what a gather had read before it (R175). -/
def State.defer (s : State) (op : LOp) (iss : Issue) (c : Cause) (v : Word) (part : Option RegWrite) (pflags : Word := 0) : State :=
  let d : Deferred := ⟨op, iss, c, v, part, pflags⟩
  (s.refAll s.cl d.labs).setAct { s.act with deferred := s.act.deferred ++ [d] }

/-- The causes that a long-latency access takes as deferred faults (R82, R354): those of the label that lands with its value among them
(R141; DEDUCED, log 42). -/
def Cause.late : Cause → Bool
  | .xlate => true | .prot => true | .nakfenced => true | .hostatom => true | .bounds => true | .tenurewait => true
  | .stalehandle => true | .labelovf => true | .ltfull => true | _ => false

end Sys2Proof.Machine
end

