-- ==== Sys2Proof/Machine/Operands.lean ====
section
/-! DEFINITION. Operand forms: scalar, mask and vector registers, the literal in place of B or of the immediate (R64, R70),
signed and unsigned immediates (R67), word-relative targets, element vectors (R34), and the scalar instruction as a whole:
checks, sources, result and label in the order of R84 and R119. -/

namespace Sys2Proof

open Machine

/-- The registers that B names: none when a literal stands for it. -/
def Ops.bRU (o : Ops) : List RU := match o.lit with | none => [.s o.b.toNat] | some _ => []
/-- The signed 10-bit immediate of format I, or the literal (R67, R70). -/
def Ops.immS (o : Ops) : Word := match o.lit with | none => (o.imm.setWidth 10).signExtend 64 | some v => v
/-- OFF7, signed, in units of a size (R67). -/
def Ops.off7 (o : Ops) (size : Nat) : Word := (o.imm.setWidth 7).signExtend 64 * BitVec.ofNat 64 size
/-- OFF10 and OFF22 in words relative to the instruction's first word (R67). -/
def Ops.off10 (o : Ops) : Word := (o.imm.setWidth 10).signExtend 64 * 4
def Ops.off22 (o : Ops) : Word := (o.imm.setWidth 22).signExtend 64 * 4
def Ops.kd (o : Ops) : BitVec 3 := o.d.setWidth 3
def Ops.ka (o : Ops) : BitVec 3 := o.a.setWidth 3
def Ops.kb (o : Ops) : BitVec 3 := o.b.setWidth 3
def Ops.vd (o : Ops) : BitVec 4 := o.d.setWidth 4
def Ops.va (o : Ops) : BitVec 4 := o.a.setWidth 4
def Ops.vb (o : Ops) : BitVec 4 := o.b.setWidth 4
def Ops.acc (o : Ops) : BitVec 4 := o.d.setWidth 4

end Sys2Proof

namespace Sys2Proof.Machine

/-- The B operand of format A: the register, or the literal with the label TRUE (R64, R70). -/
def State.opB (s : State) : Reg :=
  match s.ir.lit with
  | none => s.act.rd s.ir.b
  | some v => ⟨v, hTRUE⟩

/-- A scalar instruction: d gets f of the sources, its label the product of their labels and CLAB (R36, R119). The
sources are given with the registers they name; f gives the value and the sticky flags. -/
def State.scalar (s : State) (ru : List RU) (srcs : List Reg) (f : Word × Word) : Res State :=
  match s.regs (.s s.ir.d.toNat :: ru) with
  | .error e => .error e
  | .ok _ =>
    match s.freeS s.ir.d with
    | .error e => .error e
    | .ok _ =>
      match s.product (srcs.map (·.lab) ++ [s.act.clab]) with
      | .error e => .error e
      | .ok (t, l, lf) => .ok ((t.writeS s.ir.d f.1 l).orFlags (f.2 ||| lf))

/-- The sources A and B of a scalar instruction of format A, with B a register or the literal. -/
def State.alu2 (s : State) (f : Word → Word → Word) : Res State :=
  s.scalar (.s s.ir.a.toNat :: s.ir.bRU) [s.act.rd s.ir.a, s.opB] (f (s.act.rd s.ir.a).val s.opB.val, 0)
/-- As alu2, with D read as a third source (R119). -/
def State.alu3 (s : State) (f : Word → Word → Word → Word) : Res State :=
  s.scalar (.s s.ir.a.toNat :: s.ir.bRU) [s.act.rd s.ir.a, s.opB, s.act.rd s.ir.d]
    (f (s.act.rd s.ir.a).val s.opB.val (s.act.rd s.ir.d).val, 0)
/-- One source A. -/
def State.alu1 (s : State) (f : Word → Word) : Res State :=
  s.scalar [.s s.ir.a.toNat] [s.act.rd s.ir.a] (f (s.act.rd s.ir.a).val, 0)
/-- Format I: A and the immediate or literal. -/
def State.aluI (s : State) (f : Word → Word) : Res State :=
  s.scalar [.s s.ir.a.toNat] [s.act.rd s.ir.a] (f (s.act.rd s.ir.a).val, 0)

/-- The first of several operands that is POISON traps (R138). -/
def State.noPoison (s : State) : List Reg → Res Unit
  | [] => .ok ()
  | r :: l => match s.notPoison r with | .error e => .error e | .ok _ => s.noPoison l

/-! ### Vector elements (R34) -/

/-- Element width in bits of an EW code (R68). -/
def ewBits (e : BitVec 2) : Nat := 8 * 2 ^ e.toNat
/-- Elements of a vector register at a width. -/
def ewCount (e : BitVec 2) : Nat := 64 / 2 ^ e.toNat

/-- Element i of width w bits, as a number. -/
def vElem (v : Line) (w i : Nat) : Nat := v.toNat / 2 ^ (w * i) % 2 ^ w

/-- The vector whose elements of width w bits are given, element 0 lowest. -/
def vPack (w : Nat) : List Nat → Nat
  | [] => 0
  | x :: l => x % 2 ^ w + 2 ^ w * vPack w l

def vOf (w : Nat) (l : List Nat) : Line := BitVec.ofNat 512 (vPack w l)
def vElems (v : Line) (w n : Nat) : List Nat := (List.range n).map (vElem v w)

/-- The quad of element i at width w bits (R34). -/
def quadOf (w i : Nat) : Nat := w * i / 128

def VReg.quadLab (x : VReg) (q : Nat) : Handle :=
  match q with | 0 => x.l0 | 1 => x.l1 | 2 => x.l2 | _ => x.l3
def VReg.ofLabs (v : Line) (l : List Handle) : VReg :=
  { val := v, l0 := l.getD 0 0, l1 := l.getD 1 0, l2 := l.getD 2 0, l3 := l.getD 3 0 }

/-- Whether quad q has an active element under a mask, among n elements of width w (R34, R160). -/
def quadAny (mask : Word) (w n q : Nat) : Bool := (List.range n).any (fun i => quadOf w i == q && mask.getLsbD i)
/-- Whether every element of quad q is active. -/
def quadAll (mask : Word) (w n q : Nat) : Bool := (List.range n).all (fun i => quadOf w i != q || mask.getLsbD i)

end Sys2Proof.Machine
end

