-- ==== Sys2Proof/Machine/Alu.lean ====
section
/-! DEFINITION. Integer and address arithmetic (R147 to R152): one meaning per instruction over shared functions of any
width; the .W forms compute on the low 32 bits and sign-extend (R150). No instruction here sets a flag (R149). -/

namespace Sys2Proof.Machine

variable {w : Nat}

/-- Shifts and rotates take their count modulo the width: b[5:0], or b[4:0] in the .W forms (R147, R150). -/
def aluShl (a b : BitVec w) : BitVec w := a <<< (b.toNat % w)
def aluShr (a b : BitVec w) : BitVec w := a >>> (b.toNat % w)
def aluSra (a b : BitVec w) : BitVec w := a.sshiftRight (b.toNat % w)
def aluRot (a b : BitVec w) : BitVec w := a.rotateRight (b.toNat % w)
def aluMin (a b : BitVec w) : BitVec w := if a.slt b then a else b
def aluMax (a b : BitVec w) : BitVec w := if a.slt b then b else a
def aluMinu (a b : BitVec w) : BitVec w := if a.ult b then a else b
def aluMaxu (a b : BitVec w) : BitVec w := if a.ult b then b else a
def aluSlt (a b : BitVec w) : BitVec w := if a.slt b then 1 else 0
def aluSltu (a b : BitVec w) : BitVec w := if a.ult b then 1 else 0
def aluSeq (a b : BitVec w) : BitVec w := if a = b then 1 else 0
/-- The high half of the signed and of the unsigned product (R148). -/
def aluMulh (a b : BitVec w) : BitVec w := ((a.signExtend (2 * w) * b.signExtend (2 * w)) >>> w).setWidth w
def aluMulhu (a b : BitVec w) : BitVec w := ((a.setWidth (2 * w) * b.setWidth (2 * w)) >>> w).setWidth w
/-- Leading zero bits from bit n - 1 down (R148). -/
def clzFrom (a : BitVec w) : Nat → Nat
  | 0 => 0
  | n + 1 => if a.getLsbD n then 0 else 1 + clzFrom a n
def ctzFrom (a : BitVec w) (i : Nat) : Nat → Nat
  | 0 => 0
  | n + 1 => if a.getLsbD i then 0 else 1 + ctzFrom a (i + 1) n
def aluClz (a : BitVec w) : BitVec w := BitVec.ofNat w (clzFrom a w)
def aluCtz (a : BitVec w) : BitVec w := BitVec.ofNat w (ctzFrom a 0 w)
def aluPopc (a : BitVec w) : BitVec w := BitVec.ofNat w (popCount a)
/-- The bytes in reverse order (R148). -/
def swapBytes : Nat → Nat → Nat
  | 0, _ => 0
  | n + 1, x => x % 256 * 256 ^ n + swapBytes n (x / 256)
def aluBswap (a : BitVec w) : BitVec w := BitVec.ofNat w (swapBytes (w / 8) a.toNat)
/-- SEXT and ZEXT: bit n = b mod w is the highest kept (R148, R150). -/
def aluSext (a b : BitVec w) : BitVec w := (a <<< (w - 1 - b.toNat % w)).sshiftRight (w - 1 - b.toNat % w)
def aluZext (a b : BitVec w) : BitVec w := (a <<< (w - 1 - b.toNat % w)) >>> (w - 1 - b.toNat % w)
/-- CSEL: a when the old d is not zero (R148). -/
def aluCsel (a b d : BitVec w) : BitVec w := if d = 0 then b else a

/-- A function of two and of three operands on the low 32 bits, sign-extended (R150). -/
def on32 (f : BitVec 32 → BitVec 32 → BitVec 32) (a b : Word) : Word := (f (a.setWidth 32) (b.setWidth 32)).signExtend 64
def on32c (f : BitVec 32 → BitVec 32 → BitVec 32 → BitVec 32) (a b d : Word) : Word :=
  (f (a.setWidth 32) (b.setWidth 32) (d.setWidth 32)).signExtend 64
def on32u (f : BitVec 32 → BitVec 32) (a : Word) : Word := (f (a.setWidth 32)).signExtend 64

/-- Field position and width of BFX and BFI (R151). -/
def bfPos (b : Word) : Nat := b.toNat % 64
def bfMask (b : Word) : Word := BitVec.ofNat 64 (2 ^ (b.toNat / 64 % 64 + 1) - 1)
def aluBfx (a b : Word) : Word := (a >>> bfPos b) &&& bfMask b
def aluBfi (a b d : Word) : Word := (d &&& ~~~ (bfMask b <<< bfPos b)) ||| ((a &&& bfMask b) <<< bfPos b)

/-- The count of a shift by immediate (R152). -/
def State.shImm (s : State) : Nat := match s.ir.lit with | none => s.ir.imm.toNat % 1024 | some v => v.toNat

def execAdd (s : State) : Host.Outcome State Fault Refusal := s.run (s.alu2 (fun a b => a + b))
def execSub (s : State) : Host.Outcome State Fault Refusal := s.run (s.alu2 (fun a b => a - b))
def execAnd (s : State) : Host.Outcome State Fault Refusal := s.run (s.alu2 (fun a b => a &&& b))
def execOr (s : State) : Host.Outcome State Fault Refusal := s.run (s.alu2 (fun a b => a ||| b))
def execXor (s : State) : Host.Outcome State Fault Refusal := s.run (s.alu2 (fun a b => a ^^^ b))
def execAndn (s : State) : Host.Outcome State Fault Refusal := s.run (s.alu2 (fun a b => a &&& ~~~ b))
def execShl (s : State) : Host.Outcome State Fault Refusal := s.run (s.alu2 (fun a b => aluShl a b))
def execShr (s : State) : Host.Outcome State Fault Refusal := s.run (s.alu2 (fun a b => aluShr a b))
def execSra (s : State) : Host.Outcome State Fault Refusal := s.run (s.alu2 (fun a b => aluSra a b))
def execRot (s : State) : Host.Outcome State Fault Refusal := s.run (s.alu2 (fun a b => aluRot a b))
def execMin (s : State) : Host.Outcome State Fault Refusal := s.run (s.alu2 (fun a b => aluMin a b))
def execMax (s : State) : Host.Outcome State Fault Refusal := s.run (s.alu2 (fun a b => aluMax a b))
def execMinu (s : State) : Host.Outcome State Fault Refusal := s.run (s.alu2 (fun a b => aluMinu a b))
def execMaxu (s : State) : Host.Outcome State Fault Refusal := s.run (s.alu2 (fun a b => aluMaxu a b))
def execSlt (s : State) : Host.Outcome State Fault Refusal := s.run (s.alu2 (fun a b => aluSlt a b))
def execSltu (s : State) : Host.Outcome State Fault Refusal := s.run (s.alu2 (fun a b => aluSltu a b))
def execMul (s : State) : Host.Outcome State Fault Refusal := s.run (s.alu2 (fun a b => a * b))
def execMulh (s : State) : Host.Outcome State Fault Refusal := s.run (s.alu2 (fun a b => aluMulh a b))
def execMulhu (s : State) : Host.Outcome State Fault Refusal := s.run (s.alu2 (fun a b => aluMulhu a b))
def execDiv (s : State) : Host.Outcome State Fault Refusal := s.run (s.alu2 (fun a b => a.sdiv b))
def execDivu (s : State) : Host.Outcome State Fault Refusal := s.run (s.alu2 (fun a b => a.udiv b))
def execRem (s : State) : Host.Outcome State Fault Refusal := s.run (s.alu2 (fun a b => a.srem b))
def execRemu (s : State) : Host.Outcome State Fault Refusal := s.run (s.alu2 (fun a b => a.umod b))
def execSeq (s : State) : Host.Outcome State Fault Refusal := s.run (s.alu2 (fun a b => aluSeq a b))
def execSext (s : State) : Host.Outcome State Fault Refusal := s.run (s.alu2 (fun a b => aluSext a b))
def execZext (s : State) : Host.Outcome State Fault Refusal := s.run (s.alu2 (fun a b => aluZext a b))
def execCsel (s : State) : Host.Outcome State Fault Refusal := s.run (s.alu3 aluCsel)
def execClz (s : State) : Host.Outcome State Fault Refusal := s.run (s.alu1 (fun a => aluClz a))
def execCtz (s : State) : Host.Outcome State Fault Refusal := s.run (s.alu1 (fun a => aluCtz a))
def execPopc (s : State) : Host.Outcome State Fault Refusal := s.run (s.alu1 (fun a => aluPopc a))
def execBrev (s : State) : Host.Outcome State Fault Refusal := s.run (s.alu1 (fun a => a.reverse))
def execBswap (s : State) : Host.Outcome State Fault Refusal := s.run (s.alu1 (fun a => aluBswap a))

/-! The .W forms (R150). -/

def execAddW (s : State) : Host.Outcome State Fault Refusal := s.run (s.alu2 (on32 (fun a b => a + b)))
def execSubW (s : State) : Host.Outcome State Fault Refusal := s.run (s.alu2 (on32 (fun a b => a - b)))
def execAndW (s : State) : Host.Outcome State Fault Refusal := s.run (s.alu2 (on32 (fun a b => a &&& b)))
def execOrW (s : State) : Host.Outcome State Fault Refusal := s.run (s.alu2 (on32 (fun a b => a ||| b)))
def execXorW (s : State) : Host.Outcome State Fault Refusal := s.run (s.alu2 (on32 (fun a b => a ^^^ b)))
def execAndnW (s : State) : Host.Outcome State Fault Refusal := s.run (s.alu2 (on32 (fun a b => a &&& ~~~ b)))
def execShlW (s : State) : Host.Outcome State Fault Refusal := s.run (s.alu2 (on32 (fun a b => aluShl a b)))
def execShrW (s : State) : Host.Outcome State Fault Refusal := s.run (s.alu2 (on32 (fun a b => aluShr a b)))
def execSraW (s : State) : Host.Outcome State Fault Refusal := s.run (s.alu2 (on32 (fun a b => aluSra a b)))
def execRotW (s : State) : Host.Outcome State Fault Refusal := s.run (s.alu2 (on32 (fun a b => aluRot a b)))
def execMinW (s : State) : Host.Outcome State Fault Refusal := s.run (s.alu2 (on32 (fun a b => aluMin a b)))
def execMaxW (s : State) : Host.Outcome State Fault Refusal := s.run (s.alu2 (on32 (fun a b => aluMax a b)))
def execMinuW (s : State) : Host.Outcome State Fault Refusal := s.run (s.alu2 (on32 (fun a b => aluMinu a b)))
def execMaxuW (s : State) : Host.Outcome State Fault Refusal := s.run (s.alu2 (on32 (fun a b => aluMaxu a b)))
def execSltW (s : State) : Host.Outcome State Fault Refusal := s.run (s.alu2 (on32 (fun a b => aluSlt a b)))
def execSltuW (s : State) : Host.Outcome State Fault Refusal := s.run (s.alu2 (on32 (fun a b => aluSltu a b)))
def execMulW (s : State) : Host.Outcome State Fault Refusal := s.run (s.alu2 (on32 (fun a b => a * b)))
def execMulhW (s : State) : Host.Outcome State Fault Refusal := s.run (s.alu2 (on32 (fun a b => aluMulh a b)))
def execMulhuW (s : State) : Host.Outcome State Fault Refusal := s.run (s.alu2 (on32 (fun a b => aluMulhu a b)))
def execDivW (s : State) : Host.Outcome State Fault Refusal := s.run (s.alu2 (on32 (fun a b => a.sdiv b)))
def execDivuW (s : State) : Host.Outcome State Fault Refusal := s.run (s.alu2 (on32 (fun a b => a.udiv b)))
def execRemW (s : State) : Host.Outcome State Fault Refusal := s.run (s.alu2 (on32 (fun a b => a.srem b)))
def execRemuW (s : State) : Host.Outcome State Fault Refusal := s.run (s.alu2 (on32 (fun a b => a.umod b)))
def execSeqW (s : State) : Host.Outcome State Fault Refusal := s.run (s.alu2 (on32 (fun a b => aluSeq a b)))
def execSextW (s : State) : Host.Outcome State Fault Refusal := s.run (s.alu2 (on32 (fun a b => aluSext a b)))
def execZextW (s : State) : Host.Outcome State Fault Refusal := s.run (s.alu2 (on32 (fun a b => aluZext a b)))
def execCselW (s : State) : Host.Outcome State Fault Refusal := s.run (s.alu3 (on32c aluCsel))
def execClzW (s : State) : Host.Outcome State Fault Refusal := s.run (s.alu1 (on32u (fun a => aluClz a)))
def execCtzW (s : State) : Host.Outcome State Fault Refusal := s.run (s.alu1 (on32u (fun a => aluCtz a)))
def execPopcW (s : State) : Host.Outcome State Fault Refusal := s.run (s.alu1 (on32u (fun a => aluPopc a)))
def execBrevW (s : State) : Host.Outcome State Fault Refusal := s.run (s.alu1 (on32u (fun a => a.reverse)))
def execBswapW (s : State) : Host.Outcome State Fault Refusal := s.run (s.alu1 (on32u (fun a => aluBswap a)))

/-! Bit fields and address arithmetic (R151). -/

def execBfx (s : State) : Host.Outcome State Fault Refusal := s.run (s.alu2 aluBfx)
def execBfi (s : State) : Host.Outcome State Fault Refusal := s.run (s.alu3 aluBfi)
def execLea (s : State) : Host.Outcome State Fault Refusal := s.run (s.alu2 (fun a b => a + (b <<< s.ir.t.toNat)))

/-! Immediates (R152). -/

def execAddi (s : State) : Host.Outcome State Fault Refusal := s.run (s.aluI (fun a => a + s.ir.immS))
def execAndi (s : State) : Host.Outcome State Fault Refusal := s.run (s.aluI (fun a => a &&& s.ir.immS))
def execOri (s : State) : Host.Outcome State Fault Refusal := s.run (s.aluI (fun a => a ||| s.ir.immS))
def execXori (s : State) : Host.Outcome State Fault Refusal := s.run (s.aluI (fun a => a ^^^ s.ir.immS))
def execShli (s : State) : Host.Outcome State Fault Refusal := s.run (s.aluI (fun a => a <<< s.shImm))
def execShri (s : State) : Host.Outcome State Fault Refusal := s.run (s.aluI (fun a => a >>> s.shImm))
def execSrai (s : State) : Host.Outcome State Fault Refusal := s.run (s.aluI (fun a => a.sshiftRight s.shImm))
def execSlti (s : State) : Host.Outcome State Fault Refusal := s.run (s.aluI (fun a => aluSlt a s.ir.immS))
def execSltiu (s : State) : Host.Outcome State Fault Refusal := s.run (s.aluI (fun a => aluSltu a s.ir.immS))
def execLi (s : State) : Host.Outcome State Fault Refusal := s.run (s.scalar [] [] (s.ir.immS, 0))

end Sys2Proof.Machine
end

