-- ==== Sys2Proof/Machine/Crypto.lean ====
section
/-! DEFINITION. The functions that R388 and R389 name by their standards: SHA-384, HMAC and HKDF (RFC 5869), and ECDSA on brainpoolP384r1
(RFC 5639). What is in those standards and not in the spec is PRESUMED (log 66). -/

namespace Sys2Proof.Machine

/-! ### SHA-384 -/

/-- The greatest number of so many bits whose power is at most n. -/
def rootOf (power n bits : Nat) : Nat :=
  (List.range bits).foldr (fun b r => if (r + 2 ^ b) ^ power ≤ n then r + 2 ^ b else r) 0

/-- The first eighty primes. -/
def primes : List Nat :=
  [2, 3, 5, 7, 11, 13, 17, 19, 23, 29, 31, 37, 41, 43, 47, 53, 59, 61, 67, 71] ++
  [73, 79, 83, 89, 97, 101, 103, 107, 109, 113, 127, 131, 137, 139, 149, 151, 157, 163, 167, 173] ++
  [179, 181, 191, 193, 197, 199, 211, 223, 227, 229, 233, 239, 241, 251, 257, 263, 269, 271, 277, 281] ++
  [283, 293, 307, 311, 313, 317, 331, 337, 347, 349, 353, 359, 367, 373, 379, 383, 389, 397, 401, 409]

/-- The round constants: 64 bits of the fraction of each cube root. -/
def shaConst : List Word := primes.map (fun p => BitVec.ofNat 64 (rootOf 3 (p * 2 ^ 192) 68))
/-- The eight words at the start: 64 bits of the fraction of the square roots of the ninth to the sixteenth prime. -/
def shaStart : List Word := ((primes.drop 8).take 8).map (fun p => BitVec.ofNat 64 (rootOf 2 (p * 2 ^ 128) 68))

def shaMix (i j k : Nat) (x : Word) : Word := x.rotateRight i ^^^ x.rotateRight j ^^^ x.rotateRight k
def shaSpread (i j k : Nat) (x : Word) : Word := x.rotateRight i ^^^ x.rotateRight j ^^^ (x >>> k)

/-- One round over the eight working words and the window of sixteen message words, whose head it takes. -/
def shaRound (x : List Word × List Word) (c : Word) : List Word × List Word :=
  match x.1, x.2 with
  | [a, b, cc, d, e, f, g, h], w0 :: w =>
    let t1 := h + shaMix 14 18 41 e + ((e &&& f) ^^^ (~~~e &&& g)) + c + w0
    let t2 := shaMix 28 34 39 a + ((a &&& b) ^^^ (a &&& cc) ^^^ (b &&& cc))
    ([t1 + t2, a, b, cc, d + t1, e, f, g], w ++ [shaSpread 19 61 6 (w.getD 13 0) + w.getD 8 0 + shaSpread 1 8 7 (w.getD 0 0) + w0])
  | _, _ => x

/-- A number in bytes, the most significant first. -/
def bigBytes (n x : Nat) : List Byte := (toBytes n x).reverse
/-- The number of such bytes. -/
def bigOf (l : List Byte) : Nat := ofBytes l.reverse

/-- A block of 128 bytes enters the eight words. -/
def shaBlock (h : List Word) (block : List Byte) : List Word :=
  let w := (List.range 16).map (fun i => BitVec.ofNat 64 (bigOf ((block.drop (8 * i)).take 8)))
  (h.zip (shaConst.foldl shaRound (h, w)).1).map (fun p => p.1 + p.2)

/-- The message with its padding: a one bit, zeros, and its length in bits. -/
def shaPad (m : List Byte) : List Byte :=
  m ++ (0x80 : Byte) :: List.replicate ((239 - m.length % 128) % 128) 0 ++ bigBytes 16 (8 * m.length)

/-- SHA-384: 48 bytes (R388, R389). -/
def sha384 (m : List Byte) : List Byte :=
  let b := shaPad m
  (((List.range (b.length / 128)).foldl (fun h i => shaBlock h ((b.drop (128 * i)).take 128)) shaStart).take 6).flatMap (fun w => bigBytes 8 w.toNat)

/-! ### HMAC and HKDF -/

/-- HMAC with SHA-384. -/
def hmac384 (key m : List Byte) : List Byte :=
  let k := if 128 < key.length then sha384 key else key
  let pad (b : Byte) : List Byte := (k ++ List.replicate (128 - k.length) 0).map (fun x => x ^^^ b)
  sha384 (pad 0x5C ++ sha384 (pad 0x36 ++ m))

/-- The bytes of HKDF's expansion, block by block. -/
def hkdfExpand (prk info : List Byte) : Nat → List Byte
  | 0 => []
  | n + 1 =>
    let l := hkdfExpand prk info n
    l ++ hmac384 prk (l.drop (48 * n - 48) ++ info ++ [BitVec.ofNat 8 (n + 1)])

/-- HKDF of a secret: n bytes (R389). -/
def hkdf384 (salt ikm info : List Byte) (n : Nat) : List Byte := (hkdfExpand (hmac384 salt ikm) info ((n + 47) / 48)).take n

/-! ### brainpoolP384r1 -/

def ecP : Nat := 0x8CB91E82A3386D280F5D6F7E50E641DF152F7109ED5456B412B1DA197FB71123ACD3A729901D1A71874700133107EC53
def ecA : Nat := 0x7BC382C63D8C150C3C72080ACE05AFA0C2BEA28E4FB22787139165EFBA91F90F8AA5814A503AD4EB04A8C7DD22CE2826
def ecB : Nat := 0x04A8C7DD22CE28268B39B55416F0447C2FB77DE107DCD2A62E880EA53EEB62D57CB4390295DBC9943AB78696FA504C11
def ecN : Nat := 0x8CB91E82A3386D280F5D6F7E50E641DF152F7109ED5456B31F166E6CAC0425A7CF3AB6AF6B7FC3103B883202E9046565

/-- A point in Jacobian coordinates: (x / z², y / z³), or the point at infinity where z is 0. -/
structure EcPoint where
  x : Nat
  y : Nat
  z : Nat := 1
  deriving DecidableEq, Repr

def ecG : EcPoint where
  x := 0x1D1C64F068CF45FFA2A63A81B7C13F6B8847A3E77EF14FE3DB7FCAFE0CBD10E8E826E03436D646AAEF87B2E247D4AF1E
  y := 0x8ABE1D7520F9C2A45CB1EB8E95CFD55262B70B29FEEC5864E19C054FF99129280E4646217791811142820341263C5315

/-- A difference modulo the field's prime. -/
def ecSub (a b : Nat) : Nat := (a + (ecP - b % ecP)) % ecP

def EcPoint.double (q : EcPoint) : EcPoint :=
  let yy := q.y * q.y % ecP
  let s := 4 * q.x * yy % ecP
  let zz := q.z * q.z % ecP
  let m := (3 * q.x * q.x + ecA * (zz * zz % ecP)) % ecP
  let x := ecSub (m * m) (2 * s)
  ⟨x, ecSub (m * ecSub s x) (8 * (yy * yy % ecP)), 2 * q.y * q.z % ecP⟩

def EcPoint.add (q r : EcPoint) : EcPoint :=
  if q.z = 0 then r
  else if r.z = 0 then q
  else
    let qz := q.z * q.z % ecP
    let rz := r.z * r.z % ecP
    let u := q.x * rz % ecP
    let s := q.y * (rz * r.z % ecP) % ecP
    let h := ecSub (r.x * qz) u
    let d := ecSub (r.y * (qz * q.z % ecP)) s
    if h = 0 then (if d = 0 then q.double else ⟨1, 1, 0⟩)
    else
      let hh := h * h % ecP
      let hhh := hh * h % ecP
      let v := u * hh % ecP
      let x := ecSub (d * d) (hhh + 2 * v)
      ⟨x, ecSub (d * ecSub v x) (s * hhh), h * (q.z * r.z % ecP) % ecP⟩

/-- A multiple of a point. -/
def EcPoint.mul (q : EcPoint) (k : Nat) : EcPoint :=
  (List.range 384).foldr (fun i r => let d := r.double; if k.testBit i then d.add q else d) ⟨1, 1, 0⟩

/-- A power, by the bits of the exponent. -/
def powMod (m a e : Nat) : Nat :=
  (List.range 384).foldr (fun i r => let d := r * r % m; if e.testBit i then d * a % m else d) 1
/-- The inverse modulo a prime. -/
def invMod (m a : Nat) : Nat := powMod m a (m - 2)

/-- The affine coordinates of a point. -/
def EcPoint.affine (q : EcPoint) : Nat × Nat :=
  let i := invMod ecP q.z
  let ii := i * i % ecP
  (q.x * ii % ecP, q.y * (ii * i % ecP) % ecP)

/-- A public key is a point of the curve. -/
def ecOnCurve (k : Nat × Nat) : Bool :=
  decide (k.1 < ecP) && decide (k.2 < ecP) && k.2 * k.2 % ecP == (k.1 * k.1 % ecP * k.1 + ecA * k.1 + ecB) % ecP

/-- The bytes of a pair of numbers below 2^384, the most significant first: x then y, or r then s (R389). -/
def pairBytes (p : Nat × Nat) : List Byte := bigBytes 48 p.1 ++ bigBytes 48 p.2

/-- ECDSA: whether a signature (r, s) over a digest verifies under a public key (R388). -/
def ecVerify (key : Nat × Nat) (digest : List Byte) (sig : Nat × Nat) : Bool :=
  let w := invMod ecN sig.2
  let u := (ecG.mul (bigOf digest % ecN * w % ecN)).add (EcPoint.mul ⟨key.1, key.2, 1⟩ (sig.1 * w % ecN))
  ecOnCurve key && sig.1 != 0 && decide (sig.1 < ecN) && sig.2 != 0 && decide (sig.2 < ecN) && u.z != 0 && u.affine.1 % ecN == sig.1

/-- ECDSA: the signature of a digest by a private scalar, with a secret number of its own (R389). -/
def ecSign (d : Nat) (digest : List Byte) (k : Nat) : Nat × Nat :=
  let r := (ecG.mul k).affine.1 % ecN
  (r, invMod ecN k * (bigOf digest + r * d) % ecN)

/-- The private scalar from the 72 bytes that HKDF expands (R389). -/
def scalarOf (x : List Byte) : Nat := bigOf x % (ecN - 1) + 1

end Sys2Proof.Machine
end

