-- ==== Sys2Proof/Machine/Flags.lean ====
section
/-! DEFINITION. Number formats, rounding and the sticky flags (R87 to R97, R114): exact values, Round into the wide, the
narrow and the integer formats, and the operations of R153 to R159 on exact values. -/

namespace Sys2Proof.Machine

/-- An exact value: a NaN (NaR is a quiet one), an infinity, or a sign with m * 2^e. -/
inductive FVal where
  | nan (signalling : Bool)
  | inf (neg : Bool)
  | num (neg : Bool) (m : Nat) (e : Int)
  deriving DecidableEq, Repr

/-- Fraction bits, exponent bits and bias of a wide format (R87). -/
structure WFmt where
  f : Nat
  eb : Nat
  bias : Nat
  deriving DecidableEq, Repr

def fmtOf : Fmt → WFmt
  | .d => ⟨52, 11, 1023⟩
  | .s => ⟨23, 8, 127⟩
  | .h => ⟨10, 5, 15⟩
  | .bf => ⟨7, 8, 127⟩

def WFmt.width (w : WFmt) : Nat := 1 + w.eb + w.f
/-- The exponent field of infinities and NaNs. -/
def WFmt.emax (w : WFmt) : Nat := 2 ^ w.eb - 1
/-- Quantum exponent of the subnormals. -/
def WFmt.qmin (w : WFmt) : Int := 1 - (w.bias : Int) - (w.f : Int)
def WFmt.canonNan (w : WFmt) : Nat := w.emax * 2 ^ w.f + 2 ^ (w.f - 1)
def WFmt.signBit (w : WFmt) : Nat := 2 ^ (w.eb + w.f)
def WFmt.maxFinite (w : WFmt) : Nat := w.emax * 2 ^ w.f - 1
def WFmt.signed (w : WFmt) (neg : Bool) (n : Nat) : Nat := if neg then w.signBit + n else n
def WFmt.infCode (w : WFmt) (neg : Bool) : Nat := w.signed neg (w.emax * 2 ^ w.f)

/-- The value of a code of a wide format (R87). -/
def WFmt.decode (w : WFmt) (x : Nat) : FVal :=
  let neg := x / w.signBit % 2 == 1
  let e := x / 2 ^ w.f % 2 ^ w.eb
  let m := x % 2 ^ w.f
  if e = w.emax then (if m = 0 then .inf neg else .nan (m < 2 ^ (w.f - 1)))
  else if e = 0 then .num neg m w.qmin
  else .num neg (m + 2 ^ w.f) ((e : Int) - (w.bias : Int) - (w.f : Int))

/-- floor(log2 n) of a number below 2^k; 0 for 0. -/
def log2From (n : Nat) : Nat → Nat
  | 0 => 0
  | k + 1 => if 2 ^ (k + 1) ≤ n then k + 1 else log2From n k
def nlog2 (n : Nat) : Nat := Nat.log2 n

/-- m * 2^e in units of 2^q: quotient, remainder, divisor. -/
def scaleTo (m : Nat) (e q : Int) : Nat × Nat × Nat :=
  if q ≤ e then (m * 2 ^ (e - q).toNat, 0, 1)
  else (m / 2 ^ (q - e).toNat, m % 2 ^ (q - e).toNat, 2 ^ (q - e).toNat)

/-- Whether a magnitude between lo and lo + 1 units goes up (R94). Modes: 0 RNE, 1 RTZ, 2 RUP, 3 RDN, 4 RNA, 6 stochastic
with a draw of 16 bits. -/
def goesUp (mode : Nat) (draw : Nat) (neg loEven : Bool) (rem den : Nat) : Bool :=
  if rem = 0 then false
  else match mode with
    | 1 => false
    | 2 => !neg
    | 3 => neg
    | 6 => decide (draw < rem * 65536 / den)
    | 4 => decide (den ≤ 2 * rem)
    | _ => decide (den < 2 * rem) || (den == 2 * rem && !loEven)

/-- A magnitude above the largest finite value (R94). -/
def ovfToMax (mode : Nat) (neg : Bool) : Bool := mode == 1 || (mode == 2 && neg) || (mode == 3 && !neg)

/-- Whether a result is tiny: rounded to the precision with an unbounded exponent, below the smallest normal (R89). -/
def WFmt.tiny (w : WFmt) (mode : Nat) (neg : Bool) (m : Nat) (e : Int) : Bool :=
  let top := (nlog2 m : Int) + e
  if 1 - (w.bias : Int) ≤ top then false
  else
    let (lo, rem, den) := scaleTo m e (top - (w.f : Int))
    let r := if goesUp (if mode = 6 then 0 else mode) 0 neg (lo % 2 == 0) rem den then lo + 1 else lo
    !(r == 2 ^ (w.f + 1) && top + 1 == 1 - (w.bias : Int))

/-- Round of R94 into a wide format: the code and the flags. -/
def WFmt.round (w : WFmt) (mode draw : Nat) (x : FVal) : Nat × Word :=
  match x with
  | .nan sig => (w.canonNan, if sig then flagNV else 0)
  | .inf neg => (w.infCode neg, 0)
  | .num neg m e =>
    if m = 0 then (w.signed neg 0, 0)
    else
      let top := (nlog2 m : Int) + e
      let q := if top - (w.f : Int) < w.qmin then w.qmin else top - (w.f : Int)
      let (lo, rem, den) := scaleTo m e q
      let r := if goesUp mode draw neg (lo % 2 == 0) rem den then lo + 1 else lo
      -- the code of r units of 2^q: the hidden bit of a normal value adds one to its exponent field
      let code := (q - w.qmin).toNat * 2 ^ w.f + r
      if w.maxFinite < code then
        ((if ovfToMax mode neg then w.signed neg w.maxFinite else w.infCode neg), flagOF ||| flagNX)
      else if rem = 0 then (w.signed neg code, 0)
      else (w.signed neg code, flagNX ||| (if w.tiny mode neg m e then flagUF else 0))

/-! ### Narrow formats (R90 to R95) -/

structure NFmt where
  s : Bool
  e : Nat
  m : Nat
  bias : Nat
  nar : Bool
  deriving DecidableEq, Repr

def NFmt.mag (n : NFmt) : Nat := 2 ^ (n.e + n.m)
/-- The value of a code of a narrow format (R90). -/
def NFmt.decode (n : NFmt) (x : Nat) : FVal :=
  let neg := n.s && x / n.mag % 2 == 1
  let c := x % n.mag
  if c = 0 then (if neg then .nan false else .num false 0 0)
  else .num neg (2 ^ n.m + c % 2 ^ n.m) ((c / 2 ^ n.m : Nat) - (n.bias : Int) - (n.m : Int))

/-- The largest code magnitude; minpos is code 1 (R90). -/
def NFmt.maxCode (n : NFmt) : Nat := n.mag - 1
def NFmt.narCode (n : NFmt) : Nat := n.mag
def NFmt.signed (n : NFmt) (neg : Bool) (c : Nat) : Nat := if neg && c != 0 then n.mag + c else c

/-- The magnitude of an overflow (R94). -/
def NFmt.overflow (n : NFmt) (mode : Nat) (neg : Bool) : Nat × Word :=
  if ovfToMax mode neg || !n.nar then (n.signed neg n.maxCode, flagOF ||| flagNX)
  else (n.narCode, flagOF ||| flagNX ||| flagNR)

/-- Round of R94 into a narrow format. -/
def NFmt.round (n : NFmt) (mode draw : Nat) (x : FVal) : Nat × Word :=
  match x with
  | .nan sig =>
    if n.s then (n.narCode, flagNR ||| (if sig then flagNV else 0)) else (0, flagNV)
  | .inf neg => if !n.s && neg then (0, flagNV) else n.overflow mode neg
  | .num neg m e =>
    if m = 0 then (0, 0)
    else if !n.s && neg then (0, flagNV)
    else
      let top := (nlog2 m : Int) + e
      -- below minpos: between 0 and minpos
      let minM := if n.m = 0 then 1 else 2 ^ n.m + 1
      let minE : Int := if n.m = 0 then 1 - (n.bias : Int) else - (n.bias : Int) - (n.m : Int)
      let (a, b) := if minE ≤ e then (m * 2 ^ (e - minE).toNat, minM) else (m, minM * 2 ^ (minE - e).toNat)
      if a < b then
        if goesUp mode draw neg true a b then (n.signed neg 1, flagNX ||| flagUF) else (0, flagNX ||| flagUF)
      else
        let (lo, rem, den) := scaleTo m e (top - (n.m : Int))
        let field := top + (n.bias : Int)
        let code := field.toNat * 2 ^ n.m + (lo - 2 ^ n.m)
        let c := if goesUp mode draw neg (code % 2 == 0) rem den then code + 1 else code
        if n.maxCode < c then n.overflow mode neg
        else (n.signed neg c, if rem = 0 then 0 else flagNX)

/-! ### Integer codes (R96) -/

/-- Rounds to an integer within bounds: NaN gives 0 and a value beyond the range the nearest bound, both with NV. -/
def roundInt (lo hi : Int) (mode : Nat) (x : FVal) : Int × Word :=
  match x with
  | .nan _ => (0, flagNV)
  | .inf neg => (if neg then lo else hi, flagNV)
  | .num neg m e =>
    let (q, rem, den) := scaleTo m e 0
    let r : Nat := if goesUp mode 0 neg (q % 2 == 0) rem den then q + 1 else q
    let v : Int := if neg then - (r : Int) else r
    if v < lo then (lo, flagNV) else if hi < v then (hi, flagNV)
    else (v, if rem = 0 then 0 else flagNX)

def ofInt (v : Int) : FVal := .num (decide (v < 0)) v.natAbs 0

/-! ### Exact operations (R88) -/

def FVal.isNan : FVal → Bool | .nan _ => true | _ => false
def FVal.isSig : FVal → Bool | .nan s => s | _ => false
def FVal.neg : FVal → FVal
  | .nan s => .nan s
  | .inf n => .inf (!n)
  | .num n m e => .num (!n) m e

/-- NV of a signalling NaN among the sources. -/
def sigFlag (l : List FVal) : Word := if l.any FVal.isSig then flagNV else 0

/-- The exact sum of two finite values; a zero of like signs keeps its sign, otherwise it is +0, or -0 under RDN. -/
def numAdd (mode : Nat) (n1 : Bool) (m1 : Nat) (e1 : Int) (n2 : Bool) (m2 : Nat) (e2 : Int) : FVal :=
  if m1 = 0 && m2 = 0 then .num (if n1 == n2 then n1 else mode == 3) 0 0
  else
    let e := if e1 ≤ e2 then e1 else e2
    let a : Int := (m1 * 2 ^ (e1 - e).toNat : Nat)
    let b : Int := (m2 * 2 ^ (e2 - e).toNat : Nat)
    let v := (if n1 then -a else a) + (if n2 then -b else b)
    if v = 0 then .num (mode == 3) 0 0 else .num (decide (v < 0)) v.natAbs e

def fAdd (mode : Nat) (a b : FVal) : FVal × Word :=
  match a, b with
  | .nan _, _ => (.nan false, sigFlag [a, b])
  | _, .nan _ => (.nan false, sigFlag [a, b])
  | .inf x, .inf y => if x == y then (.inf x, 0) else (.nan false, flagNV)
  | .inf x, _ => (.inf x, 0)
  | _, .inf y => (.inf y, 0)
  | .num n1 m1 e1, .num n2 m2 e2 => (numAdd mode n1 m1 e1 n2 m2 e2, 0)

def fMul (a b : FVal) : FVal × Word :=
  match a, b with
  | .nan _, _ => (.nan false, sigFlag [a, b])
  | _, .nan _ => (.nan false, sigFlag [a, b])
  | .inf x, .inf y => (.inf (x != y), 0)
  | .inf x, .num n m _ => if m = 0 then (.nan false, flagNV) else (.inf (x != n), 0)
  | .num n m _, .inf y => if m = 0 then (.nan false, flagNV) else (.inf (n != y), 0)
  | .num n1 m1 e1, .num n2 m2 e2 => (.num (n1 != n2) (m1 * m2) (e1 + e2), 0)

/-- The product plus an addend, fused; 0 * inf is invalid whatever the addend (R157). -/
def fMulAdd (mode : Nat) (negp negd : Bool) (a b d : FVal) : FVal × Word :=
  let p := fMul a b
  if p.2 != 0 && !a.isNan && !b.isNan then (.nan false, flagNV)
  else
    let x := if negp then p.1.neg else p.1
    let y := if negd then d.neg else d
    let r := fAdd mode x y
    (r.1, r.2 ||| sigFlag [a, b, d])

/-- The quotient with a trace of its remainder below the rounding position. -/
def fDiv (a b : FVal) : FVal × Word :=
  match a, b with
  | .nan _, _ => (.nan false, sigFlag [a, b])
  | _, .nan _ => (.nan false, sigFlag [a, b])
  | .inf x, .inf _ => let _ := x; (.nan false, flagNV)
  | .inf x, .num n _ _ => (.inf (x != n), 0)
  | .num n _ _, .inf y => (.num (n != y) 0 0, 0)
  | .num n1 m1 e1, .num n2 m2 e2 =>
    if m2 = 0 then (if m1 = 0 then (.nan false, flagNV) else (.inf (n1 != n2), flagDZ))
    else if m1 = 0 then (.num (n1 != n2) 0 0, 0)
    else
      let k := 130 + nlog2 m2
      let q := m1 * 2 ^ k / m2
      let r := m1 * 2 ^ k % m2
      (.num (n1 != n2) (2 * q + (if r = 0 then 0 else 1)) (e1 - e2 - (k : Int) - 1), 0)

/-- The integer square root by bits from bit k - 1 down. -/
def isqrt (n : Nat) : Nat → Nat → Nat
  | 0, r => r
  | k + 1, r => if (r + 2 ^ k) * (r + 2 ^ k) ≤ n then isqrt n k (r + 2 ^ k) else isqrt n k r

def fSqrt (a : FVal) : FVal × Word :=
  match a with
  | .nan s => (.nan false, if s then flagNV else 0)
  | .inf true => (.nan false, flagNV)
  | .inf false => (.inf false, 0)
  | .num n m e =>
    if m = 0 then (.num n 0 0, 0)
    else if n then (.nan false, flagNV)
    else
      -- an even exponent, and 140 more bits
      let m1 := if e % 2 = 0 then m else 2 * m
      let e1 := if e % 2 = 0 then e else e - 1
      let x := m1 * 2 ^ 280
      let r := isqrt x 200 0
      (.num false (2 * r + (if r * r = x then 0 else 1)) (e1 / 2 - 141), 0)

/-- Order of two values that are not NaN: negative, zero or positive as the first is below, equal or above. -/
def fCmp (a b : FVal) : Int :=
  match a, b with
  | .inf x, .inf y => (if x then -1 else 1) - (if y then -1 else 1)
  | .inf x, _ => if x then -1 else 1
  | _, .inf y => if y then 1 else -1
  | .num n1 m1 e1, .num n2 m2 e2 =>
    let e := if e1 ≤ e2 then e1 else e2
    let x : Int := (m1 * 2 ^ (e1 - e).toNat : Nat)
    let y : Int := (m2 * 2 ^ (e2 - e).toNat : Nat)
    (if n1 then -x else x) - (if n2 then -y else y)
  | .nan _, _ => 0
  | _, .nan _ => 0

def FVal.negSign : FVal → Bool | .nan _ => false | .inf n => n | .num n _ _ => n

/-! ### Operations on codes of a wide format -/

/-- FMIN and FMAX of R154. -/
def WFmt.minmax (w : WFmt) (max : Bool) (x y : Nat) : Nat × Word :=
  let a := w.decode x
  let b := w.decode y
  let f := sigFlag [a, b]
  if a.isNan && b.isNan then (w.canonNan, f)
  else if a.isNan then (y, f) else if b.isNan then (x, f)
  else
    let c := fCmp a b
    -- equal values differ at most in the sign of zero
    let aFirst : Bool := if c = 0 then a.negSign || !b.negSign else decide (c < 0)
    ((if aFirst != max then x else y), f)

def WFmt.bin (w : WFmt) (mode : Nat) (op : FVal → FVal → FVal × Word) (x y : Nat) : Nat × Word :=
  let r := op (w.decode x) (w.decode y)
  let o := w.round mode 0 r.1
  (o.1, r.2 ||| o.2)
def WFmt.add (w : WFmt) (mode x y : Nat) : Nat × Word := w.bin mode (fAdd mode) x y
def WFmt.sub (w : WFmt) (mode x y : Nat) : Nat × Word := w.bin mode (fun a b => fAdd mode a b.neg) x y
def WFmt.mul (w : WFmt) (mode x y : Nat) : Nat × Word := w.bin mode fMul x y
def WFmt.div (w : WFmt) (mode x y : Nat) : Nat × Word := w.bin mode fDiv x y
def WFmt.sqrt (w : WFmt) (mode x : Nat) : Nat × Word :=
  let r := fSqrt (w.decode x)
  let o := w.round mode 0 r.1
  (o.1, r.2 ||| o.2)
/-- FMA and its kin: the signs of the product and of the addend (R157). -/
def WFmt.fma (w : WFmt) (mode : Nat) (negp negd : Bool) (x y d : Nat) : Nat × Word :=
  let r := fMulAdd mode negp negd (w.decode x) (w.decode y) (w.decode d)
  let o := w.round mode 0 r.1
  (o.1, r.2 ||| o.2)

/-- Sign injection acts on bits (R154): kind 0 the sign of y, 1 its inverse, 2 the xor. -/
def WFmt.sgnj (w : WFmt) (kind : Nat) (x y : Nat) : Nat :=
  let sx := x / w.signBit % 2
  let sy := y / w.signBit % 2
  let s := match kind with | 0 => sy | 1 => 1 - sy | _ => (sx + sy) % 2
  s * w.signBit + x % w.signBit

/-- The class word of R155. -/
def WFmt.classOf (w : WFmt) (x : Nat) : Word :=
  let sgn : Nat := x / w.signBit % 2
  match w.decode x with
  | .nan sig => BitVec.ofNat 64 ((if sig then 7 else 6) + 8 * sgn)
  | .inf _ => BitVec.ofNat 64 (3 + 8 * sgn)
  | .num _ m e =>
    if m = 0 then BitVec.ofNat 64 (8 * sgn)
    else
      let kind := if x / 2 ^ w.f % 2 ^ w.eb = 0 then 1 else 2
      BitVec.ofNat 64 (kind + 8 * sgn + 16) ||| (((BitVec.ofInt 16 ((nlog2 m : Int) + e)).setWidth 64) <<< 16)

/-- Every fraction bit below the top min(F, 12) is cleared (R156). -/
def WFmt.cut (w : WFmt) (x : Nat) : Nat := x / 2 ^ (w.f - Nat.min w.f 12) * 2 ^ (w.f - Nat.min w.f 12)

/-- The estimates of R156: rounded RTZ, cut, without NX or UF; too large a magnitude gives the largest finite value and OF. -/
def WFmt.estimate (w : WFmt) (neg : Bool) (v : FVal) : Nat × Word :=
  let o := w.round 1 0 v
  if (o.2 &&& flagOF) != 0 then (w.signed neg w.maxFinite, flagOF) else (w.cut o.1, 0)

def WFmt.frece (w : WFmt) (x : Nat) : Nat × Word :=
  match w.decode x with
  | .nan sig => (w.canonNan, if sig then flagNV else 0)
  | .inf n => (w.signed n 0, 0)
  | .num n m e => if m = 0 then (w.infCode n, flagDZ) else w.estimate n (fDiv (.num false 1 0) (.num n m e)).1

def WFmt.frsqe (w : WFmt) (x : Nat) : Nat × Word :=
  match w.decode x with
  | .nan sig => (w.canonNan, if sig then flagNV else 0)
  | .inf n => if n then (w.canonNan, flagNV) else (0, 0)
  | .num n m e =>
    if m = 0 then (w.infCode n, flagDZ)
    else if n then (w.canonNan, flagNV)
    else
      -- 1/sqrt(m 2^e) = sqrt(2^K / m) 2^(-(e + K) / 2), with K chosen so that e + K is even
      let k : Nat := 700 + nlog2 m + ((nlog2 m : Int) + e).natAbs % 2
      let q := 2 ^ k / m
      let r := isqrt q 400 0
      let exact := r * r = q && 2 ^ k % m = 0
      w.estimate false (.num false (2 * r + (if exact then 0 else 1)) ((- (e + (k : Int))) / 2 - 1))

/-- The compares: 0 EQ, 1 LT, 2 LE, 3 unordered (R154, R165). -/
def WFmt.compare (w : WFmt) (kind : Nat) (x y : Nat) : Bool × Word :=
  let a := w.decode x
  let b := w.decode y
  let un := a.isNan || b.isNan
  let f := if kind = 0 || kind = 3 then sigFlag [a, b] else if un then flagNV else 0
  let c := fCmp a b
  ((match kind with
    | 0 => !un && c == 0
    | 1 => !un && decide (c < 0)
    | 2 => !un && decide (c ≤ 0)
    | _ => un), f)

/-! ### Conversions (R159, R169) -/

/-- The exact value of a source under a conversion code: 0 D, 1 S, 2 H, 3 BF, 4 L, 5 LU, 6 W, 7 WU. -/
def cvtSource (code : Nat) (x : Nat) : FVal :=
  match code with
  | 0 => (fmtOf .d).decode (x % 2 ^ 64)
  | 1 => (fmtOf .s).decode (x % 2 ^ 32)
  | 2 => (fmtOf .h).decode (x % 2 ^ 16)
  | 3 => (fmtOf .bf).decode (x % 2 ^ 16)
  | 4 => ofInt (BitVec.ofNat 64 x).toInt
  | 5 => .num false (x % 2 ^ 64) 0
  | 6 => ofInt (BitVec.ofNat 32 x).toInt
  | _ => .num false (x % 2 ^ 32) 0

/-- The result of a conversion in the bits of its width, with the flags. -/
def cvtTo (code mode draw : Nat) (v : FVal) : Nat × Word :=
  match code with
  | 0 => (fmtOf .d).round mode draw v
  | 1 => (fmtOf .s).round mode draw v
  | 2 => (fmtOf .h).round mode draw v
  | 3 => (fmtOf .bf).round mode draw v
  | 4 => let r := roundInt (-(2 ^ 63)) (2 ^ 63 - 1) mode v; ((BitVec.ofInt 64 r.1).toNat, r.2)
  | 5 => let r := roundInt 0 (2 ^ 64 - 1) mode v; ((BitVec.ofInt 64 r.1).toNat, r.2)
  | 6 => let r := roundInt (-(2 ^ 31)) (2 ^ 31 - 1) mode v; ((BitVec.ofInt 32 r.1).toNat, r.2)
  | _ => let r := roundInt 0 (2 ^ 32 - 1) mode v; ((BitVec.ofInt 32 r.1).toNat, r.2)

def cvtWidth (code : Nat) : Nat :=
  match code with | 0 => 64 | 1 => 32 | 2 => 16 | 3 => 16 | 4 => 64 | 5 => 64 | _ => 32

/-- The mode that takes effect for a destination: stochastic only into H and BF (R93). -/
def cvtMode (mode dst : Nat) : Nat := if mode = 6 && dst != 2 && dst != 3 then 0 else mode

/-! ### Rounding state -/

/-- One step of the generator of R97: the new state, and the draw in its low 16 bits. -/
def rngStep (x : Word) : Word :=
  let x := if x = 0 then 1 else x
  let x := x ^^^ (x <<< 13)
  let x := x ^^^ (x >>> 7)
  x ^^^ (x <<< 17)

/-- FLAGS.RM (R39). -/
def State.rm (s : State) : Nat := s.act.flags.toNat % 8
/-- FLAGS.RM with 6 read as RNE (R40). -/
def State.rmArith (s : State) : Nat := if s.rm = 6 then 0 else s.rm

end Sys2Proof.Machine
end

