-- ==== Sys2Proof/Machine/Float.lean ====
section
/-! DEFINITION. Scalar floating point (R153 to R159). -/

namespace Sys2Proof.Machine

/-- The format of an FPA or FMA instruction, and that of an extended form (R71, R158). -/
def State.fpF (s : State) : WFmt := fmtOf (fmtDown s.ir.t)
def State.fpX (s : State) : WFmt := fmtOf (fmtUp s.ir.ew)
/-- The rounding of an extended form: RND, where 5 is FLAGS.RM (R158). -/
def State.rmX (s : State) : Nat := if s.ir.rnd.toNat = 5 then s.rmArith else s.ir.rnd.toNat

/-- The bits of an operand that a format reads (R143). -/
def WFmt.of (w : WFmt) (r : Reg) : Nat := r.val.toNat % 2 ^ w.width

/-- A result of a format is written zero-extended (R143). -/
def fpRes (r : Nat × Word) : Word × Word := (BitVec.ofNat 64 r.1, r.2)

/-- A scalar result that stays outstanding (R78, R79): the value is settled at issue and lands later. -/
def State.scalarLong (s : State) (ru : List RU) (srcs : List Reg) (f : Word × Word) : Res State :=
  match s.regs (.s s.ir.d.toNat :: ru) with
  | .error e => .error e
  | .ok _ =>
    match s.room with
    | .error e => .error e
    | .ok _ =>
      match s.freeS s.ir.d with
      | .error e => .error e
      | .ok _ =>
        match s.product (srcs.map (·.lab) ++ [s.act.clab]) with
        | .error e => .error e
        | .ok (t, l, lf) => .ok (t.leave ⟨.arith, s.issue, [.s s.ir.d f.1 l], f.2 ||| lf⟩)

/-- Two sources, one source, and three sources with the addend from D or from C. -/
def State.fp2 (s : State) (w : WFmt) (f : Nat → Nat → Nat × Word) : Res State :=
  s.scalar (.s s.ir.a.toNat :: s.ir.bRU) [s.act.rd s.ir.a, s.opB] (fpRes (f (w.of (s.act.rd s.ir.a)) (w.of s.opB)))
def State.fp1 (s : State) (w : WFmt) (f : Nat → Nat × Word) : Res State :=
  s.scalar [.s s.ir.a.toNat] [s.act.rd s.ir.a] (fpRes (f (w.of (s.act.rd s.ir.a))))
def State.fp3d (s : State) (w : WFmt) (f : Nat → Nat → Nat → Nat × Word) : Res State :=
  s.scalar (.s s.ir.a.toNat :: s.ir.bRU) [s.act.rd s.ir.a, s.opB, s.act.rd s.ir.d]
    (fpRes (f (w.of (s.act.rd s.ir.a)) (w.of s.opB) (w.of (s.act.rd s.ir.d))))
def State.fp3c (s : State) (w : WFmt) (f : Nat → Nat → Nat → Nat × Word) : Res State :=
  s.scalar [.s s.ir.a.toNat, .s s.ir.b.toNat, .s s.ir.c.toNat] [s.act.rd s.ir.a, s.act.rd s.ir.b, s.act.rd s.ir.c]
    (fpRes (f (w.of (s.act.rd s.ir.a)) (w.of (s.act.rd s.ir.b)) (w.of (s.act.rd s.ir.c))))
def State.fp2long (s : State) (w : WFmt) (f : Nat → Nat → Nat × Word) : Res State :=
  s.scalarLong (.s s.ir.a.toNat :: s.ir.bRU) [s.act.rd s.ir.a, s.opB] (fpRes (f (w.of (s.act.rd s.ir.a)) (w.of s.opB)))
def State.fp1long (s : State) (w : WFmt) (f : Nat → Nat × Word) : Res State :=
  s.scalarLong [.s s.ir.a.toNat] [s.act.rd s.ir.a] (fpRes (f (w.of (s.act.rd s.ir.a))))

def boolWord (b : Bool × Word) : Nat × Word := (if b.1 then 1 else 0, b.2)

def execFadd (s : State) : Host.Outcome State Fault Refusal := s.run (s.fp2 s.fpF (s.fpF.add s.rmArith))
def execFsub (s : State) : Host.Outcome State Fault Refusal := s.run (s.fp2 s.fpF (s.fpF.sub s.rmArith))
def execFmul (s : State) : Host.Outcome State Fault Refusal := s.run (s.fp2 s.fpF (s.fpF.mul s.rmArith))
def execFdiv (s : State) : Host.Outcome State Fault Refusal := s.run (s.fp2long s.fpF (s.fpF.div s.rmArith))
def execFsqrt (s : State) : Host.Outcome State Fault Refusal := s.run (s.fp1long s.fpF (s.fpF.sqrt s.rmArith))
def execFmin (s : State) : Host.Outcome State Fault Refusal := s.run (s.fp2 s.fpF (s.fpF.minmax false))
def execFmax (s : State) : Host.Outcome State Fault Refusal := s.run (s.fp2 s.fpF (s.fpF.minmax true))
def execFsgnj (s : State) : Host.Outcome State Fault Refusal := s.run (s.fp2 s.fpF (fun x y => (s.fpF.sgnj 0 x y, 0)))
def execFsgnjn (s : State) : Host.Outcome State Fault Refusal := s.run (s.fp2 s.fpF (fun x y => (s.fpF.sgnj 1 x y, 0)))
def execFsgnjx (s : State) : Host.Outcome State Fault Refusal := s.run (s.fp2 s.fpF (fun x y => (s.fpF.sgnj 2 x y, 0)))
def execFclass (s : State) : Host.Outcome State Fault Refusal := s.run (s.fp1 s.fpF (fun x => ((s.fpF.classOf x).toNat, 0)))
def execFrece (s : State) : Host.Outcome State Fault Refusal := s.run (s.fp1 s.fpF s.fpF.frece)
def execFrsqe (s : State) : Host.Outcome State Fault Refusal := s.run (s.fp1 s.fpF s.fpF.frsqe)
def execFcmpeq (s : State) : Host.Outcome State Fault Refusal := s.run (s.fp2 s.fpF (fun x y => boolWord (s.fpF.compare 0 x y)))
def execFcmplt (s : State) : Host.Outcome State Fault Refusal := s.run (s.fp2 s.fpF (fun x y => boolWord (s.fpF.compare 1 x y)))
def execFcmple (s : State) : Host.Outcome State Fault Refusal := s.run (s.fp2 s.fpF (fun x y => boolWord (s.fpF.compare 2 x y)))
def execFma (s : State) : Host.Outcome State Fault Refusal := s.run (s.fp3d s.fpF (s.fpF.fma s.rmArith false false))
def execFms (s : State) : Host.Outcome State Fault Refusal := s.run (s.fp3d s.fpF (s.fpF.fma s.rmArith false true))
def execFnma (s : State) : Host.Outcome State Fault Refusal := s.run (s.fp3d s.fpF (s.fpF.fma s.rmArith true true))
def execFnms (s : State) : Host.Outcome State Fault Refusal := s.run (s.fp3d s.fpF (s.fpF.fma s.rmArith true false))

/-! The extended forms (R158). -/

def execFaddX (s : State) : Host.Outcome State Fault Refusal := s.run (s.fp2 s.fpX (s.fpX.add s.rmX))
def execFsubX (s : State) : Host.Outcome State Fault Refusal := s.run (s.fp2 s.fpX (s.fpX.sub s.rmX))
def execFmulX (s : State) : Host.Outcome State Fault Refusal := s.run (s.fp2 s.fpX (s.fpX.mul s.rmX))
def execFdivX (s : State) : Host.Outcome State Fault Refusal := s.run (s.fp2long s.fpX (s.fpX.div s.rmX))
def execFsqrtX (s : State) : Host.Outcome State Fault Refusal := s.run (s.fp1long s.fpX (s.fpX.sqrt s.rmX))
def execFmaX (s : State) : Host.Outcome State Fault Refusal := s.run (s.fp3c s.fpX (s.fpX.fma s.rmX false false))
def execFmsX (s : State) : Host.Outcome State Fault Refusal := s.run (s.fp3c s.fpX (s.fpX.fma s.rmX false true))
def execFnmaX (s : State) : Host.Outcome State Fault Refusal := s.run (s.fp3c s.fpX (s.fpX.fma s.rmX true true))
def execFnmsX (s : State) : Host.Outcome State Fault Refusal := s.run (s.fp3c s.fpX (s.fpX.fma s.rmX true false))

/-! Conversions (R159). -/

/-- The draw of the core's generator steps RNGST at issue (R97). -/
def State.drawIf (s : State) (b : Bool) : State := if b then s.setMe { s.me with rngst := rngStep s.me.rngst } else s

/-- The mode that FN names: 5 is FLAGS.RM (R93, R159). -/
def State.cvtRm (s : State) : Nat := if s.ir.rnd.toNat = 5 then s.rm else s.ir.rnd.toNat

/-- A result of an integer code W is sign-extended, every other is zero-extended (R159). -/
def cvtExtend (code : Nat) (x : Nat) : Word := if code = 6 then (BitVec.ofNat 32 x).signExtend 64 else BitVec.ofNat 64 x

def execFcvt (s : State) : Host.Outcome State Fault Refusal :=
  let src := s.ir.x.toNat
  let dst := s.ir.y.toNat
  let mode := cvtMode s.cvtRm dst
  let draw := (rngStep s.me.rngst).toNat % 65536
  let r := cvtTo dst mode draw (cvtSource src (s.act.rd s.ir.a).val.toNat)
  s.run (match s.scalar [.s s.ir.a.toNat] [s.act.rd s.ir.a] (cvtExtend dst r.1, r.2) with
    | .error e => .error e
    | .ok t => .ok (t.drawIf (mode == 6)))

end Sys2Proof.Machine
end

