-- ==== Sys2Proof/Machine/Cut.lean ====
section
/-! DEFINITION. Cuts of a tenant (R360 to R366), and the saving and restoring of its cores (R367 to R370). -/

namespace Sys2Proof.Machine

/-! ### The cut record (R360) -/

/-- The cores of a slot's sub-mesh. -/
def State.subCores (s : State) (t : Nat) : List Nat :=
  if t = 0 then [] else (List.range Config.coreCount).filter (fun c => s.inSub t c)

def State.setCut (s : State) (t : Nat) (c : Cut) : State := s.setJob t { s.job t with cut := c }

/-- A command written to the cut record of a slot: one that its state does not admit is ignored. Its notice will take the colour of the
storing core (R362). -/
def State.cutCommand (s : State) (t cmd : Nat) : State :=
  let c := { s.cutOf t with color := s.me.color.getLsbD 0 }
  if c.busy then s
  else if cmd = 1 && c.state = 0 then s.setCut t { c with state := 1, since := s.clock }
  else if cmd = 2 && c.state = 2 then s.setCut t { c with busy := true, err := false, cmd := 2 }
  else if cmd = 3 && c.state = 3 then s.setCut t { c with busy := true, err := false, cmd := 3 }
  else s

/-- CUT is written to the cut record of slot n (R361). -/
def execCut (s : State) : Host.Outcome State Fault Refusal := .next (s.cutCommand s.arg.n 1)

/-- The stop request of a cut reaches core n, unless it is halted (R361, R418). -/
def execStopRequest (s : State) : Host.Outcome State Fault Refusal :=
  let k := s.core s.arg.n
  .next (if (s.cutOf k.tslot.toNat).state = 1 && !k.stopReq && !k.halted && s.inSub k.tslot.toNat s.arg.n && k.tslot != 0 then
      s.setCore s.arg.n { k with stopReq := true }
    else s)

/-! ### The stop of a core (R361) -/

/-- A wait that a stop ends, to be executed again; one that goes on; one that the stop waits for. -/
def Park.atStop : Park → Nat
  | .ldfe .. => 0 | .ldfeAgain .. => 0 | .waitAgain .. => 0 | .syncw .. => 0 | .ringwait .. => 0 | .lwait .. => 0 | .ccwait .. => 0 | .sleep .. => 0 | .sleepMsg .. => 0
  | .mwait .. => 0 | .tlbi .. => 0 | .tacq .. => 0
  | .bar .. => 1 | .elect .. => 1
  | _ => 2

/-- The waits that a stop ends are undone, and the activations are ready to execute their instruction again. A CCWAIT has not returned: it
stays among its counter's waiters (R304). -/
def State.stopParked (s : State) (c : Nat) (a : Act) : State :=
  match a.park with
  | some p =>
    if p.atStop != 0 then s
    else
      let s1 := match p with
        | .tacq h _ _ mode _ => s.letGoAcq h mode
        | _ => s
      (s1.unrefAll (c / 8) p.labs).wake c a.slot (fun b => { b with re := true })
  | none => s

/-- Whether a core has come to its stop: nothing runs, every result has landed, no wait is left that the stop waits for. -/
def Core.still (k : Core) : Bool :=
  !k.running && k.residents.all (fun a => a.outs == [] && !a.inStop && (match a.park with | some p => p.atStop != 2 | none => true))

/-- Core n of a cut, unless a debugger has halted it (R418), has come to its stop: it flips its colour and sets STOPPED (R361, R365). -/
def execCoreStopped (s : State) : Host.Outcome State Fault Refusal :=
  let c := s.arg.n
  let k := s.core c
  .next (if !k.stopReq || k.halted || k.color.getLsbD 1 || !k.still then s
    else
      let s1 := k.parked.foldl (fun s a => s.stopParked c a) s
      let gen := ((s.cutOf k.tslot.toNat).gen + 1).setWidth 64
      s1.setCore c { s1.core c with color := ((k.color ^^^ 1) &&& 1) ||| 2 ||| (gen <<< 8) })

/-- A wave of the reduction tree of slot n: the sums, and the close of the cut (R362). -/
def execCutWave (s : State) : Host.Outcome State Fault Refusal :=
  let t := s.arg.n
  let c := s.cutOf t
  .next (if c.state != 1 then s
    else
      let cores := (s.subCores t).map s.core
      let sent := (cores.map (·.sentOld)).sum
      let recv := (cores.map (·.recvOld)).sum
      let c1 := { c with sent := BitVec.ofNat 64 sent, recv := BitVec.ofNat 64 recv }
      s.setCut t (if cores.all (fun k => k.color.getLsbD 1) && sent == recv then { c1 with state := 2, gen := c.gen + 1, owed := c.owed ++ [(1, false)] } else c1))

/-- An activation runs on the core that no trap waits on. -/
def Core.canStop (k : Core) : Bool := k.running && !k.halted && k.act.pend.isNone

/-- LIMIT has passed on core n, and STOP is raised on its running activation (R363). -/
def execStop (s : State) : Host.Outcome State Fault Refusal :=
  let c := s.arg.n
  let k := s.core c
  let cut := s.cutOf k.tslot.toNat
  .next (if !k.stopReq || !k.canStop || cut.limit = 0 || decide ((s.clock - cut.since).toNat < cut.limit.toNat * Config.cyclesPerUs)
      || (k.act.trap.isSome && k.xcause.toNat % 256 == Cause.stop.code) then s
    else
      let t := ({ s with cur := c }.setCore c { k with stalled := false, stallSince := none, twait := false }).trapNow
        { cause := .stop, xval := cut.gen.setWidth 64, xpc := k.act.xpcOf }
      { t with cur := s.cur })

/-! ### Labels of a saved core -/

def Reg.mapL (f : Handle → Handle) (r : Reg) : Reg := { r with lab := f r.lab }
def VReg.mapL (f : Handle → Handle) (r : VReg) : VReg := { r with l0 := f r.l0, l1 := f r.l1, l2 := f r.l2, l3 := f r.l3 }
def RegWrite.mapL (f : Handle → Handle) : RegWrite → RegWrite
  | .s n w l => .s n w (f l)
  | .v n x => .v n (x.mapL f)
def LOp.mapL (f : Handle → Handle) : LOp → LOp
  | .arith => .arith
  | .load x n e d la => .load x n e d (f la)
  | .loadQ x d la => .loadQ x d (f la)
  | .ldfe x d la => .ldfe x d (f la)
  | .store x b l fe => .store x b (f l) fe
  | .atom o x d b b1 e e1 la ls => .atom o x d b b1 e e1 (f la) (f ls)
  | .vload x w m d p k => .vload x w m d (p.map f) (k.map f)
  | .vgather xs w m d p k j => .vgather xs w m d (p.map (fun g => g.map f)) (k.map f) j
  | .vscatter xs w m data p k j => .vscatter xs w m (data.mapL f) (p.map (fun g => g.map f)) (k.map f) j
  | .vstore x w m data p k => .vstore x w m (data.mapL f) (p.map f) (k.map f)
  | .tile h o dim w m d p k => .tile h o dim w m d (p.map f) (k.map f)
  | .clgo x d la => .clgo x d (f la)
  | .ringwait x o d ls => .ringwait x o d (ls.map f)
  | .syncw x o d ls => .syncw x o d (ls.map f)
def Issue.mapL (f : Handle → Handle) (i : Issue) : Issue := { i with clab := f i.clab }
def Deferred.mapL (f : Handle → Handle) (d : Deferred) : Deferred := { d with op := d.op.mapL f, iss := d.iss.mapL f, part := d.part.map (RegWrite.mapL f) }
def Out.mapL (f : Handle → Handle) (o : Out) : Out := { o with op := o.op.mapL f, iss := o.iss.mapL f, writes := o.writes.map (RegWrite.mapL f) }
def TrapSave.mapL (f : Handle → Handle) (t : TrapSave) : TrapSave :=
  { t with clab := f t.clab, cstack := t.cstack.map f, shadow := t.shadow.map (Reg.mapL f), deferred := t.deferred.map (Deferred.mapL f) }
def Rec.mapL (f : Handle → Handle) (r : Rec) : Rec := { r with lab := f r.lab }
def Act.mapL (f : Handle → Handle) (a : Act) : Act :=
  { a with
    sregs := a.sregs.map (Reg.mapL f), vregs := a.vregs.map (VReg.mapL f), mregs := a.mregs.map (Reg.mapL f), clab := f a.clab
    cstack := a.cstack.map f, rcd := a.rcd.mapL f, outs := a.outs.map (Out.mapL f), deferred := a.deferred.map (Deferred.mapL f)
    trap := a.trap.map (TrapSave.mapL f) }
def Core.mapL (f : Handle → Handle) (k : Core) : Core :=
  { k with
    act := k.act.mapL f, parked := k.parked.map (Act.mapL f), ready := k.ready.map (Act.mapL f)
    queue := k.queue.map (fun q => { q with rcd := q.rcd.mapL f })
    chans := k.chans.map (fun ch => { ch with recs := ch.recs.map (Rec.mapL f) })
    unbound := k.unbound.map (fun p => (p.1, (p.2.1, f p.2.2))) }
def MxCmd.mapL (f : Handle → Handle) (m : MxCmd) : MxCmd := { m with lab := f m.lab, lab2 := f m.lab2 }
def MxQueue.mapL (f : Handle → Handle) (q : MxQueue) : MxQueue := { q with active := q.active.map (MxCmd.mapL f), shadow := q.shadow.map (MxCmd.mapL f) }
def Accum.mapL (f : Handle → Handle) (a : Accum) : Accum := { a with lab := f a.lab }
def Bte.mapL (f : Handle → Handle) (b : Bte) : Bte := { b with lab := f b.lab, qlab := f b.qlab, rlab := f b.rlab }

/-- The handles that a core holds beside its scratchpad, each as often as it holds it: the label of a record in a ring counts by
the tags of its granules alone (R124). -/
def Core.handles (k : Core) : List Handle :=
  k.residents.flatMap Act.labs ++ k.queue.map (·.rcd.lab) ++ k.unbound.map (·.2.2)
/-- The records that lie in a core's rings, with their channels: those of its activations and those not yet yielded. -/
def Core.ringRecs (k : Core) : List (BitVec 6 × Rec) :=
  k.residents.map (fun a => (a.chan, a.rcd)) ++ k.queue.map (fun q => (q.chan, q.rcd))
    ++ (List.range 64).flatMap (fun i => (k.chans.toList.getD i {}).recs.map (fun r => (BitVec.ofNat 6 i, r)))
def MxQueue.handles (q : MxQueue) : List Handle := (q.active.toList ++ q.shadow.toList).flatMap (fun m => [m.lab, m.lab2])
def Bte.handles (b : Bte) : List Handle := [b.lab, b.rlab] ++ (if b.queued != 0 then [b.qlab] else [])

/-- The accumulators that a core owns. -/
def State.ownAccs (s : State) (c : Nat) : FMap Accum :=
  ((List.range 16).filter (fun i => (s.core c).accmap.getLsbD i)).map (fun i => (i, (s.cluster (c / 8)).accs.toList.getD i {}))
/-- The transfer channels saved with a core: all of them with core 0 of a cluster (R368). -/
def State.ownBte (s : State) (c : Nat) : List Bte := if c % 8 = 0 then (s.cluster (c / 8)).bte.toList else []
def State.ownMxq (s : State) (c : Nat) : MxQueue := (s.cluster (c / 8)).mxq.toList.getD (c % 8) {}

/-- Granules of a core's scratchpad portion with a tag. -/
def State.scratchTags (s : State) (c : Nat) : List (Nat × Handle) :=
  let lo := keyScratch (c / 8) (c % 8 * 2 ^ 18)
  s.tags.filter (fun p => decide (lo ≤ p.1 * 16) && decide (p.1 * 16 < lo + 2 ^ 18))

/-- What a core holds but its scratchpad: these references go when it is cleared. -/
def State.coreHandles (s : State) (c : Nat) : List Handle :=
  (s.core c).handles ++ (s.ownAccs c).map (·.2.lab) ++ (s.ownMxq c).handles ++ (s.ownBte c).flatMap Bte.handles

def dedupH : List Handle → List Handle
  | [] => []
  | h :: l => h :: (dedupH l).filter (fun g => g != h)

/-- The dictionary of an image: index i + 1 is the i-th handle (R368). -/
def State.dictOf (s : State) (c : Nat) : List Handle :=
  (dedupH (s.coreHandles c ++ (s.core c).ringRecs.map (·.2.lab) ++ (s.scratchTags c).map (·.2))).filter (fun h => !fixedHandle h && (tlab (s.cluster (c / 8)).clt h).isSome)

def dictIndex (d : List Handle) (h : Handle) : Handle :=
  if fixedHandle h then h else match d.findIdx? (fun g => g == h) with | some i => BitVec.ofNat 16 (i + 1) | none => hPOISON

/-! ### The image in memory (R368, R369) -/

/-- Bytes at an address of a core's supervisor, with TRUE. -/
def State.putMem (s : State) (c : Nat) (x : Word) (bytes : List Byte) : Option State :=
  match s.pieces c true .wr x bytes.length with
  | .error _ => none
  | .ok ps => some (ps.foldl (fun s p =>
      let t := (s.stamp (p.key / 64)).rts + 1
      ((s.wrBytes false p.key ((bytes.drop p.off).take p.len)).setTagH false p.key hTRUE).setStamp (p.key / 64) ⟨t, t⟩) s)
def State.getMem (s : State) (c : Nat) (x : Word) (n : Nat) : Option (List Byte) :=
  match s.pieces c true .rd x n with
  | .error _ => none
  | .ok ps => some (ps.flatMap (fun p => s.rdBytes false p.key p.len))

/-- Several ranges of one area. -/
def State.putParts (s : State) (c : Nat) (base : Word) : List (Nat × List Byte) → Option State
  | [] => some s
  | (off, b) :: l => match s.putMem c (base + BitVec.ofNat 64 off) b with
    | none => none
    | some t => t.putParts c base l

/-- The unit's key in a ring, wrapped at its end. -/
def ringKey (c : Nat) (ch : Chan) (unit : Nat) : Nat :=
  keyScratch (c / 8) (ch.rbase.toNat + unit % Nat.max ch.rsize.toNat 1 * 32)

/-- Where the LABEL of a record's descriptor lies in its core's scratchpad portion (R300). -/
def Core.labelAt (k : Core) (c : Nat) (p : BitVec 6 × Rec) : Nat :=
  ringKey c (k.chans[p.1.toNat]'p.1.isLt) p.2.unit + 2 - keyScratch (c / 8) (c % 8 * 2 ^ 18)

/-- The scratchpad bytes of an image, with the labels of ring descriptors as indices (R368). -/
def patchHalves (b : List Byte) (l : List (Nat × Handle)) : List Byte :=
  l.foldl (fun b p => (b.set p.1 (BitVec.ofNat 8 p.2.toNat)).set (p.1 + 1) (BitVec.ofNat 8 (p.2.toNat / 256))) b

def words (l : List Word) : List Byte := l.flatMap (fun w => toBytes 8 w.toNat)
def halves (l : List Handle) : List Byte := l.flatMap (fun h => toBytes 2 h.toNat)

/-- The source words of a recorded access, as far as an entry of the image holds them. -/
def LOp.srcs : LOp → List Word
  | .arith => []
  | .load x _ _ _ _ => [x]
  | .loadQ x _ _ => [x]
  | .ldfe x _ _ => [x]
  | .store x b _ _ => [x, wordOf (b.take 8), wordOf (b.drop 8)]
  | .atom _ x _ b _ e _ _ _ => [x, b, e]
  | .vload x _ m _ _ _ => [x, m]
  | .vgather _ _ m _ _ _ _ => [m]
  | .vstore x _ m _ _ _ => [x, m]
  | .vscatter _ _ m _ _ _ _ => [m]
  | .tile h o _ _ m _ _ _ => [h, o, m]
  | .clgo x _ _ => [x]
  | .ringwait x o _ _ => [x, o]
  | .syncw x o _ _ => [x, o.setWidth 64]
def LOp.withSrcs (o : LOp) (w : Nat → Word) : LOp :=
  match o with
  | .arith => .arith
  | .load _ n e d la => .load (w 0) n e d la
  | .loadQ _ d la => .loadQ (w 0) d la
  | .ldfe _ d la => .ldfe (w 0) d la
  | .store _ b l fe => .store (w 0) ((toBytes 8 (w 1).toNat ++ toBytes 8 (w 2).toNat).take b.length ++ b.drop 16) l fe
  | .atom op _ d _ b1 _ e1 la ls => .atom op (w 0) d (w 1) b1 (w 2) e1 la ls
  | .vload _ ew _ d p k => .vload (w 0) ew (w 1) d p k
  | .vgather xs ew _ d p k j => .vgather xs ew (w 0) d p k j
  | .vstore _ ew _ data p k => .vstore (w 0) ew (w 1) data p k
  | .vscatter xs ew _ data p k j => .vscatter xs ew (w 0) data p k j
  | .tile _ _ dim ew _ d p k => .tile (w 0) (w 1) dim ew (w 2) d p k
  | .clgo _ d la => .clgo (w 0) d la
  | .ringwait _ _ d ls => .ringwait (w 0) (w 1) d ls
  | .syncw _ _ d ls => .syncw (w 0) ((w 1).setWidth 32) d ls

/-- An entry of the deferred list, in 64 bytes: address, encoding, XVAL, cause with RM, FOCLD and label indices, FOCUS, sources (R355,
R369; the layout of an entry is log 24's). -/
def Deferred.image (d : Deferred) : List Byte :=
  let h (i : Nat) : Nat := (d.op.labs.getD i 0).toNat * 2 ^ (16 * (i + 1))
  words ([d.iss.pc, BitVec.ofNat 64 ((d.iss.raw.getD 0 0).toNat + (d.iss.raw.getD 1 0).toNat * 2 ^ 32), d.xval,
      BitVec.ofNat 64 (d.cause.code + d.iss.rm.toNat * 2 ^ 8 + bitAt d.iss.focld 11 + h 0 + h 1 + d.iss.clab.toNat * 2 ^ 48), d.iss.focus]
    ++ d.op.srcs ++ List.replicate (3 - d.op.srcs.length) 0)

/-- The cause of a code (R42). -/
def causeOf (n : Nat) : Cause :=
  ([.illegal, .illegal, .regbound, .priv, .alignatom, .xlate, .prot, .bounds, .stalehandle, .tenurewait, .sendfull, .unbound, .labelovf,
    .ltfull, .ngfull, .arith, .poison, .hostatom, .swtrap, .stop, .pfail, .checker, .nakfenced] : List Cause).getD n .illegal

def getWord (b : List Byte) (off : Nat) : Word := wordOf ((b.drop off).take 8)
def getHalf (b : List Byte) (off : Nat) : Handle := BitVec.ofNat 16 (ofBytes ((b.drop off).take 2))
def getStack (b : List Byte) (off depth : Nat) : CStack := (List.range (Nat.min depth 8)).map (fun i => getHalf b (off + 2 * i))

/-- An entry takes back what its 64 bytes hold; the rest of its access is kept beside the image (log 24). -/
def Deferred.ofImage (d : Deferred) (b : List Byte) : Deferred :=
  let w := getWord b 24
  { d with
    op := d.op.withSrcs (fun i => getWord b (40 + 8 * i)), cause := causeOf (w.toNat % 2 ^ 8), xval := getWord b 16
    iss := { d.iss with
      pc := getWord b 0, rm := BitVec.ofNat 3 (w.toNat / 2 ^ 8), focld := w.getLsbD 11, focus := getWord b 32, clab := getHalf b 30
      raw := d.iss.raw.mapIdx (fun i _ => BitVec.ofNat 32 ((getWord b 8).toNat / 2 ^ (32 * i))) } }

/-- The deferred list, wherever the activation holds it: a handler's is that of the interrupted code (R356). -/
def Act.defList (a : Act) : List Deferred := match a.trap with | some t => t.deferred | none => a.deferred

/-- An activation slot of an image; its labels are indices already (R369), and the registers beyond the allotment are not in it (R370). The core's trap registers stand in the trap state of an
activation whose handler is under way. -/
def Act.image (a : Act) (k : Core) : List (Nat × List Byte) :=
  let parked := a.park.isSome
  let ctl := 1 + (if parked then 2 else 0) + (if a.re then 4 else 0) + (if a.sup then 8 else 0) + (if a.trap.isSome then 16 else 0)
    + a.level.toNat * 2 ^ 8 + a.chan.toNat * 2 ^ 16
  let allot := a.sa.toNat + a.va.toNat * 2 ^ 4 + a.slot * 2 ^ 8
  let defr := a.defList.length + (if a.dfr then 32 else 0)
  let stack (l : CStack) : List Handle := l ++ List.replicate (8 - l.length) 0
  [(0, words [BitVec.ofNat 64 ctl, a.pc, a.flags, a.focus, a.focld, a.pix, BitVec.ofNat 64 allot, BitVec.ofNat 64 defr]),
   (0x40, halves (a.clab :: stack a.cstack ++ [a.rcd.lab, BitVec.ofNat 16 a.cstack.length])),
   (0x58, toBytes 2 a.rcd.score.toNat ++ toBytes 2 a.rcd.smod.toNat ++ toBytes 2 a.rcd.ctr.toNat ++ toBytes 2 a.rcd.unit),
   (0x100, words ((a.sregs.toList.take (8 * a.sa.toNat)).map (·.val))), (0x300, halves ((a.sregs.toList.take (8 * a.sa.toNat)).map (·.lab))),
   (0x380, words (a.mregs.toList.map (·.val))), (0x3C0, halves (a.mregs.toList.map (·.lab))),
   (0x400, (a.vregs.toList.take (4 * a.va.toNat)).flatMap (fun v => toBytes 64 v.val.toNat)),
   (0x800, halves ((a.vregs.toList.take (4 * a.va.toNat)).flatMap VReg.labs)), (0xA00, a.defList.flatMap Deferred.image)]
    ++ (match a.trap with
      | none => []
      | some t => [(0x880, words (t.shadow.toList.map (·.val)) ++ halves (t.shadow.toList.map (·.lab))),
          (0x920, halves ((if t.sup then 1 else 0) :: t.clab :: stack t.cstack ++ [BitVec.ofNat 16 t.cstack.length])),
          (0x938, words [k.xcause, k.xval, k.xpc, k.xrpc])])

/-- An activation takes back what its slot of an image holds (R369); the registers beyond the allotment are zero with TRUE (R370). -/
def Act.ofImage (a : Act) (b : List Byte) : Act :=
  let ctl := getWord b 0
  let alt := (getWord b 0x30).toNat
  let defs (l : List Deferred) : List Deferred := l.mapIdx (fun i d => d.ofImage ((b.drop (0xA00 + 64 * i)).take 64))
  { a with
    re := ctl.getLsbD 2, sup := ctl.getLsbD 3, level := BitVec.ofNat 3 (ctl.toNat / 2 ^ 8), chan := BitVec.ofNat 6 (ctl.toNat / 2 ^ 16)
    pc := getWord b 8, flags := getWord b 0x10
    focus := getWord b 0x18, focld := getWord b 0x20, pix := getWord b 0x28, sa := (getWord b 0x30).setWidth 4
    va := BitVec.ofNat 3 ((getWord b 0x30).toNat / 16), dfr := (getWord b 0x38).getLsbD 5, clab := getHalf b 0x40
    cstack := getStack b 0x42 (getHalf b 0x54).toNat
    rcd := { a.rcd with lab := getHalf b 0x52, score := BitVec.ofNat 14 (getHalf b 0x58).toNat, smod := BitVec.ofNat 13 (getHalf b 0x5A).toNat,
                        ctr := getHalf b 0x5C, unit := (getHalf b 0x5E).toNat }
    deferred := defs a.deferred
    sregs := Vector.ofFn (fun i => if i.val < 8 * (alt % 16) then ⟨getWord b (0x100 + 8 * i.val), getHalf b (0x300 + 2 * i.val)⟩ else {})
    mregs := Vector.ofFn (fun i => ⟨getWord b (0x380 + 8 * i.val), getHalf b (0x3C0 + 2 * i.val)⟩)
    vregs := Vector.ofFn (fun i =>
      let l (q : Nat) : Handle := getHalf b (0x800 + 8 * i.val + 2 * q)
      if i.val < 4 * (alt / 16 % 8) then
        { val := BitVec.ofNat 512 (ofBytes ((b.drop (0x400 + 64 * i.val)).take 64)), l0 := l 0, l1 := l 1, l2 := l 2, l3 := l 3 }
      else {})
    trap :=
      if !ctl.getLsbD 4 then none
      else some { sup := (getHalf b 0x920).getLsbD 0, clab := getHalf b 0x922, cstack := getStack b 0x924 (getHalf b 0x934).toNat
                  shadow := Vector.ofFn (fun i => ⟨getWord b (0x880 + 8 * i.val), getHalf b (0x900 + 2 * i.val)⟩)
                  stop := a.inStop, deferred := match a.trap with | some t => defs t.deferred | none => [] } }

/-- The core header: the registers in the order of R368 at steps of 8 bytes, MXWT after them, the watch slots from 0x100 at steps of
16, the queued activations from 0x200 at steps of 2, the BTE channel states from 0xC00 (log 24). -/
def Core.header (k : Core) : List Byte :=
  words [if k.lpol then 1 else 0, k.lsplit.setWidth 64, k.vpool.setWidth 64, k.carve, k.age.setWidth 64, k.sqwake, k.xdeleg, k.uvec, k.rngst,
    k.accmap.setWidth 64, k.msgcnt, k.hqbase, k.color]
def Core.watchImage (k : Core) : List Byte :=
  (List.range 16).flatMap (fun i => match fget k.watches i with
    | some (x, ch, _) => words [x, ch.setWidth 64 ||| 0x100]
    | none => words [0, 0])
def Core.queueImage (k : Core) : List Byte :=
  k.queue.flatMap (fun q => toBytes 2 (q.chan.toNat + q.level.toNat * 2 ^ 8 + 2 ^ 15)) ++ [0, 0]
def Core.ofHeader (k : Core) (b : List Byte) : Core :=
  let w (i : Nat) : Word := getWord b (8 * i)
  { k with
    lpol := (w 0).getLsbD 0, lsplit := (w 1).setWidth 6, vpool := (w 2).setWidth 3, carve := w 3, age := (w 4).setWidth 16, sqwake := w 5
    xdeleg := w 6, uvec := w 7, rngst := w 8, accmap := (w 9).setWidth 16, msgcnt := w 10, hqbase := w 11, color := w 12 }

/-- CTXBASE and CHBASE as addresses. -/
def Core.ctxAddr (k : Core) : Word := k.ctxbase &&& ~~~ (0xFFFFF : Word)
def Core.chAddr (k : Core) : Word := k.chbase &&& ~~~ (0xFFF : Word)

/-- The progress word of an accumulator as its slot of the image holds it: KDONE, V, PFL (R206; the places are log 24's). -/
def Accum.progress (a : Accum) : Word := BitVec.ofNat 64 (a.kdone + bitAt a.v 24 + a.pfl.toNat * 2 ^ 32)

/-- A matrix command as its accumulator's slot holds it, in 512 bytes: what it is and how far it has come, the control word, the metadata
base, the address, the command labels as indices, and the copies of its records and boxes (R368; the places are log 24's). -/
def MxKind.code : MxKind → Nat
  | .mma => 0 | .mmas => 1 | .mzero => 2 | .mload => 3 | .mstore => 4
def MxCmd.image (m : MxCmd) : List Byte :=
  let hd (o : Operand) : Nat := match o.handle with | some h => h + 2 ^ 16 | none => 0
  words [BitVec.ofNat 64 (1 + m.kind.code * 2 + bitAt m.begun 4 + bitAt m.discard 5 + bitAt m.sup 6 + bitAt m.metaW.isSome 7 + m.done * 2 ^ 8
      + m.tslot.toNat * 2 ^ 32 + m.core * 2 ^ 40), m.ctl, m.metaW.getD 0, m.addr, BitVec.ofNat 64 m.aid,
    BitVec.ofNat 64 (m.lab.toNat + m.lab2.toNat * 2 ^ 16), BitVec.ofNat 64 (hd m.a + hd m.b * 2 ^ 32), m.since]
    ++ toBytes 64 m.a.rcd.toNat ++ toBytes 32 m.a.box.toNat ++ toBytes 64 m.b.rcd.toNat ++ toBytes 32 m.b.box.toNat
/-- A command takes back what its bytes hold; the places of an MLOAD or MSTORE as translated are kept beside the image. -/
def MxCmd.ofImage (m : MxCmd) (b : List Byte) : MxCmd :=
  let w := getWord b 0
  let n := w.toNat
  let ops (o : Operand) (off k : Nat) : Operand :=
    let h := (getWord b 48).toNat / 2 ^ (32 * k)
    { o with rcd := BitVec.ofNat 512 (ofBytes ((b.drop off).take 64)), box := BitVec.ofNat 256 (ofBytes ((b.drop (off + 64)).take 32))
             handle := if h / 2 ^ 16 % 2 = 1 then some (h % 2 ^ 16) else none }
  { m with
    kind := ([.mma, .mmas, .mzero, .mload, .mstore] : List MxKind).getD (n / 2 % 8) m.kind, begun := w.getLsbD 4, discard := w.getLsbD 5
    sup := w.getLsbD 6, metaW := if w.getLsbD 7 then some (getWord b 16) else none, done := n / 2 ^ 8 % 2 ^ 24
    tslot := BitVec.ofNat 6 (n / 2 ^ 32), core := n / 2 ^ 40 % 2 ^ 14, ctl := getWord b 8, addr := getWord b 24
    aid := (getWord b 32).toNat, lab := getHalf b 40, lab2 := getHalf b 42, since := getWord b 56
    a := ops m.a 64 0, b := ops m.b 160 1 }

/-- The image of a core, with the entries of its channels and its unbound buffer. -/
def State.imageParts (s : State) (c : Nat) (d : List Handle) : List (Nat × List Byte) :=
  let k := (s.core c).mapL (dictIndex d)
  let lo := keyScratch (c / 8) (c % 8 * 2 ^ 18)
  let envs := d.map (fun h => (tlab (s.cluster (c / 8)).clt h).getD [])
  let q := (s.ownMxq c).mapL (dictIndex d)
  let cmds (i off : Nat) (m : Option MxCmd) : List (Nat × List Byte) :=
    match m with
    | some m => if m.acc.toNat = i then [(off + 0x2000 * i, m.image)] else [(off + 0x2000 * i, toBytes 8 0)]
    | none => [(off + 0x2000 * i, toBytes 8 0)]
  [(0, k.header), (0x100, k.watchImage), (0x200, k.queueImage)]
    ++ (if c % 8 = 0 then [(0x68, words [(s.cluster (c / 8)).mxwt]), (0xC00, (s.ownBte c).flatMap Bte.image)] else [])
    ++ k.residents.flatMap (fun a => (a.image k).map (fun p => (0x1000 + 0x2000 * a.slot + p.1, p.2)))
    ++ (List.range 8).filterMap (fun i => if k.residents.any (fun a => a.slot == i) then none else some (0x1000 + 0x2000 * i, toBytes 8 0))
    ++ (s.ownAccs c).flatMap (fun p =>
      [(0x11000 + 0x2000 * p.1, (List.range 1024).flatMap (fun i => toBytes 4 (p.2.vals.getD i 0).toNat)),
       (0x12000 + 0x2000 * p.1, words [p.2.progress, (dictIndex d p.2.lab).setWidth 64])]
      ++ cmds p.1 0x12100 (q.active) ++ cmds p.1 0x12300 (q.shadow))
    ++ [(0x31000, 0 :: (envs.map (fun l => BitVec.ofNat 8 l.length) ++ List.replicate (4095 - envs.length) 0))]
    ++ ((List.range envs.length).zip envs).map (fun p => (0x32000 + 128 * (p.1 + 1), words p.2))
    ++ [(0xB2000, patchHalves (s.rdBytes false lo (2 ^ 18)) (k.ringRecs.map (fun p => (k.labelAt c p, p.2.lab)))),
        (0xF2000, (List.range (2 ^ 14)).flatMap (fun i => toBytes 2 (dictIndex d ((fget s.tags (lo / 16 + i)).getD hTRUE)).toNat)),
        (0xFA000, (List.range 4096).map (fun i =>
          BitVec.ofNat 8 (((List.range 8).filter (fun j => s.full false (lo + 64 * i + 8 * j))).map (2 ^ ·)).sum))]

def State.chanParts (s : State) (c : Nat) (d : List Handle) : List (Nat × List Byte) :=
  let k := s.core c
  (List.range 64).map (fun i => (32 * i, (k.chans.toList.getD i {}).bytes))
    ++ k.unbound.map (fun p => (0x800 + 0x200 * p.1, unboundBytes p.2.1 (dictIndex d p.2.2)))

/-! ### SAVE (R367) -/

/-- The state of a core whose tenant is saved: no activation, channel, watch or accumulator. -/
def Core.cleared (k : Core) : Core :=
  { k with
    running := false, act := Act.blank, parked := [], ready := [], queue := [], stalled := false, stallSince := none, twait := false
    chans := Vector.replicate 64 {}, unbound := [], watches := [], accmap := 0, accRel := 0, copies := [], victims := [], carveRun := none }

def clearAccs (m : BitVec 16) (v : Vector Accum 16) : Vector Accum 16 := Vector.ofFn (fun i => if m.getLsbD i.val then {} else v[i])

/-- A core is cleared, with every reference dropped (R124, R367). -/
def State.clearCore (s : State) (c : Nat) : State :=
  let k := s.core c
  let cl := c / 8
  let s1 := s.unrefAll cl (s.coreHandles c ++ (k.copies ++ k.victims).flatMap (·.labs))
  let s2 := s1.clearScratch c 0 (2 ^ 18)
  let x := s2.cluster cl
  let y := { x with
    accs := clearAccs k.accmap x.accs, mxq := x.mxq.setIfInBounds (c % 8) {}
    bte := if c % 8 = 0 then Vector.replicate 16 {} else x.bte }
  (s2.setCluster cl y).setCore c k.cleared

/-- A core's part of a SAVE: none when its area cannot be written. -/
def State.saveCore (s : State) (c : Nat) : Option State :=
  let k := s.core c
  let d := s.dictOf c
  let f := dictIndex d
  match s.putParts c k.ctxAddr (s.imageParts c d) with
  | none => none
  | some t => match t.putParts c k.chAddr (s.chanParts c d) with
    | none => none
    | some u =>
      let img : CtxImage := {
        core := c, slot := k.tslot.toNat, body := { k.mapL f with copies := [], victims := [] }, accs := (s.ownAccs c).map (fun p => (p.1, p.2.mapL f)), mxq := (s.ownMxq c).mapL f
        bte := (s.ownBte c).map (Bte.mapL f), mxwt := (s.cluster (c / 8)).mxwt }
      some { u with ctx := img :: u.ctx.filter (fun x => x.core != c || x.slot != k.tslot.toNat) }

def State.saveCores (s : State) : List Nat → Option State
  | [] => some s
  | c :: l => match s.saveCore c with
    | none => none
    | some t => t.saveCores l

def State.cutFail (s : State) (t : Nat) : State := s.setCut t { s.cutOf t with err := true, owed := (s.cutOf t).owed ++ [((s.cutOf t).cmd, true)], cmd := 0 }
def State.cutDone (s : State) (t : Nat) : State := s.setCut t { s.cutOf t with owed := (s.cutOf t).owed ++ [((s.cutOf t).cmd, false)], cmd := 0 }

/-- SAVE of slot n: the command is written, and the cores write their state and are cleared. -/
def execSave (s : State) : Host.Outcome State Fault Refusal :=
  let t := s.arg.n
  let s0 := s.cutCommand t 2
  let c := s0.cutOf t
  .next (if !c.busy || c.cmd != 2 then s0
    else
      let cores := s0.subCores t
      if cores.any (fun i => !(s0.core i).ctxbase.getLsbD 0 || !(s0.core i).chbase.getLsbD 0) then s0.cutFail t
      else match s0.saveCores cores with
        | none => s0.cutFail t
        | some u => (cores.foldl (fun s i => s.clearCore i) u).cutDone t)

/-! ### RESTORE (R367) -/

/-- The labels of an image are interned by R136, each held once while the core is rebuilt: handles by index. None: the table
is full. -/
def State.internDict (s : State) (k slot : Nat) : List (Nat × List Env) → Option (State × List (Nat × Handle))
  | [] => some (s, [])
  | (i, envs) :: l =>
    match tintern cltSize (s.cluster k).clt slot (some (lclean (s.jobLab slot (dieOf k)) envs)) with
    | none => none
    | some (t, h) =>
      let s1 := if fixedHandle h then s else (s.setCluster k { s.cluster k with clt := t }).refC k h
      match s1.internDict k slot l with
      | none => none
      | some (u, m) => some (u, (i, h) :: m)

/-- The handle of an index; a label of no environments is not listed, and is EMPTY (R122, R368). -/
def dictHandle (m : List (Nat × Handle)) (h : Handle) : Handle :=
  if fixedHandle h then h else match m.find? (fun p => p.1 == h.toNat) with | some p => p.2 | none => hEMPTY

/-- The dictionary of an image in memory. -/
def State.readDict (s : State) (c : Nat) (base : Word) : List (Nat × List Env) :=
  match s.getMem c (base + 0x31000) 4096 with
  | none => []
  | some counts => ((List.range 4096).filter (fun i => counts.getD i 0 != 0)).map (fun i =>
      (i, match s.getMem c (base + BitVec.ofNat 64 (0x32000 + 128 * i)) (8 * Nat.min (counts.getD i 0).toNat 16) with
        | some b => (List.range (b.length / 8)).map (fun j => getWord b (8 * j))
        | none => []))

/-- The scratchpad portion of a core as its image holds it; the LABEL of each ring descriptor becomes the new handle (R368). -/
def State.restoreScratch (s : State) (c : Nat) (base : Word) (f : Handle → Handle) : State :=
  let lo := keyScratch (c / 8) (c % 8 * 2 ^ 18)
  match s.getMem c (base + 0xB2000) (2 ^ 18), s.getMem c (base + 0xF2000) (2 ^ 15), s.getMem c (base + 0xFA000) 4096 with
  | some b, some t, some e =>
    let k := s.core c
    let s1 := s.wrBytes false lo (patchHalves b (k.ringRecs.map (fun p => (k.labelAt c p, p.2.lab))))
    let s2 := (List.range (2 ^ 14)).foldl (fun s i => s.setTagH false (lo + 16 * i) (f (getHalf t (2 * i)))) s1
    (List.range (2 ^ 15)).foldl (fun s i => s.setFull false (lo + 8 * i) ((e.getD (i / 8) 0).getLsbD (i % 8))) s2
  | _, _, _ => s

/-- The activation in slot i of an image, if its slot holds one: with what the model keeps beside the image (log 24), else as
the image alone gives it, ready to run. -/
def State.restoreAct (s : State) (c : Nat) (base : Word) (body : Core) (i : Nat) : Option Act :=
  match s.getMem c (base + BitVec.ofNat 64 (0x1000 + 0x2000 * i)) 0xE00 with
  | none => body.inSlot i
  | some b =>
    if !(getWord b 0).getLsbD 0 then none
    else some (((body.inSlot i).getD { Act.blank with slot := i, aid := i }).ofImage b)

/-- The trap registers, from a slot whose handler is under way. -/
def State.restoreTrap (s : State) (c : Nat) (base : Word) (k : Core) : Core :=
  match k.residents.find? (fun a => a.trap.isSome) with
  | none => k
  | some a => match s.getMem c (base + BitVec.ofNat 64 (0x1938 + 0x2000 * a.slot)) 32 with
    | some b => { k with xcause := getWord b 0, xval := getWord b 8, xpc := getWord b 16, xrpc := getWord b 24 }
    | none => k

/-- An accumulator as its slot of the image holds it. -/
def State.restoreAcc (s : State) (c : Nat) (base : Word) (old : FMap Accum) (i : Nat) : Nat × Accum :=
  let a := (fget old i).getD {}
  match s.getMem c (base + BitVec.ofNat 64 (0x11000 + 0x2000 * i)) 4112 with
  | some b =>
    let w := getWord b 4096
    (i, { a with vals := (List.range 1024).map (fun j => BitVec.ofNat 32 (ofBytes ((b.drop (4 * j)).take 4)))
                 kdone := w.toNat % 2 ^ 24, v := w.getLsbD 24, pfl := BitVec.ofNat 9 (w.toNat / 2 ^ 32), lab := getHalf b 4104 })
  | none => (i, a)

/-- The commands of a matrix queue as the slots of their accumulators hold them (R368). -/
def State.restoreMx (s : State) (c : Nat) (base : Word) (off : Nat) (m : Option MxCmd) : Option MxCmd :=
  m.bind (fun m => match s.getMem c (base + BitVec.ofNat 64 (off + 0x2000 * m.acc.toNat)) 256 with
    | some b => if b.getD 0 0 &&& 1 = 1 then some (m.ofImage b) else none
    | none => some m)

/-- A channel entry as CHBASE holds it (R296); its records are kept beside it, with their labels as their descriptors give them. -/
def Chan.ofImage (ch : Chan) (b : List Byte) : Chan :=
  let n := ofBytes b
  let bit (i : Nat) : Bool := n / 2 ^ i % 2 == 1
  let head := n / 2 ^ 144 % 2 ^ 14
  let tail := n / 2 ^ 160 % 2 ^ 14
  let size := n / 2 ^ 128 % 2 ^ 14
  let pend := n / 2 ^ 80 % 2 ^ 14
  { ch with
    entry := BitVec.ofNat 64 (n % 2 ^ 64), prio := BitVec.ofNat 3 (n / 2 ^ 64), bound := bit 67, en := bit 68, hold := bit 69, ready := bit 70
    auto := bit 71, contig := bit 72, rep := bit 73, act := bit 75, pend := BitVec.ofNat 14 pend, rbase := BitVec.ofNat 21 (n / 2 ^ 96)
    rsize := BitVec.ofNat 14 size, rhead := BitVec.ofNat 14 head, rtail := BitVec.ofNat 14 tail, region := BitVec.ofNat 21 (n / 2 ^ 176)
    level := BitVec.ofNat 16 (n / 2 ^ 208), lve := bit 224, rgsize := BitVec.ofNat 14 (n / 2 ^ 225)
    used := if head = tail then (if pend = 0 && !bit 75 then 0 else size) else (head + size - tail) % Nat.max size 1 }

def State.restoreChan (s : State) (c : Nat) (old : Core) (b : List Byte) (i : Nat) : Chan :=
  let ch := old.chans.toList.getD i {}
  match s.getMem c (old.chAddr + BitVec.ofNat 64 (32 * i)) 32 with
  | none => ch
  | some e =>
    let new := ch.ofImage e
    { new with recs := new.recs.map (fun r => { r with lab := getHalf b (old.labelAt c (BitVec.ofNat 6 i, r)) }) }

/-- The unbound buffer as CHBASE holds it, with the messages' targets kept beside it (R301). -/
def State.restoreUnbound (s : State) (c : Nat) (old : Core) : FMap (Msg × Handle) :=
  old.unbound.map (fun p => match s.getMem c (old.chAddr + BitVec.ofNat 64 (0x800 + 0x200 * p.1)) 512 with
    | none => p
    | some b => (p.1, ({ p.2.1 with payload := (b.drop 32).take p.2.1.payload.length, score := BitVec.ofNat 14 (ofBytes ((b.drop 4).take 2)) },
        getHalf b 2)))

/-- The queued activations in the order of the image, and the watches that it names. -/
def Core.ofQueue (k : Core) (b : List Byte) : Core :=
  let es := ((List.range 64).map (fun i => getHalf b (2 * i))).takeWhile (fun h => h.getLsbD 15)
  { k with queue := es.filterMap (fun h => (k.queue.find? (fun q => q.chan.toNat == h.toNat % 64)).map (fun q =>
      { q with level := BitVec.ofNat 3 (h.toNat / 2 ^ 8) })) }
def State.restoreWatches (s : State) (c : Nat) (k : Core) (b : List Byte) : Core :=
  { k with watches := (List.range 16).filterMap (fun i =>
      let x := getWord b (16 * i)
      let w := getWord b (16 * i + 8)
      if !w.getLsbD 8 then none
      else match (match k.watches.find? (fun p => p.2.1 == x) with
          | some p => some p.2.2.2
          | none => (match s.resolve c true .rd x with | .ok key => some key | .error _ => none)) with
        | some key => some (i, (x, w.setWidth 6, key))
        | none => none) }

/-- A transfer channel as its 64 bytes of the image hold it (R431). -/
def Bte.ofImage (b : Bte) (l : List Byte) : Bte :=
  let n := ofBytes l
  { b with state := BitVec.ofNat 2 n, cause := BitVec.ofNat 8 (n / 2 ^ 8), stage := BitVec.ofNat 3 (n / 2 ^ 16), raddr := getWord l 8
           faddr := getWord l 16, queued := getWord l 24, bytes := BitVec.ofNat 32 (n / 2 ^ 256) }

/-- A core's part of a RESTORE: what R367 to R369 lay out is read from CHBASE and CTXBASE, the rest from what the model keeps
beside the image of this slot and core (log 24). -/
def State.restoreCore (s : State) (t c : Nat) : Option State :=
  let now := s.core c
  let base := now.ctxAddr
  let cl := c / 8
  let img : CtxImage := (s.ctx.find? (fun x => x.core == c && x.slot == t)).getD { core := c, slot := t, body := Core.reset c }
  match s.internDict cl t (s.readDict c base), s.getMem c base 0x1000, s.getMem c (base + 0xB2000) (2 ^ 18) with
  | some (s1, m), some hd, some scr =>
    let f := dictHandle m
    let b0 := (({ img.body with chbase := now.chbase }).ofHeader hd).ofQueue (hd.drop 0x200)
    let acts := (List.range 8).filterMap (s.restoreAct c base b0)
    let was (a : Act) : Bool := b0.parked.any (fun b => b.slot == a.slot)
    let b1 := s.restoreWatches c { b0 with
      parked := acts.filter was, ready := (b0.ready.filterMap (fun a => acts.find? (fun b => b.slot == a.slot)))
        ++ acts.filter (fun a => !was a && !b0.ready.any (fun b => b.slot == a.slot))
      chans := Vector.ofFn (fun i => s.restoreChan c b0 scr i.val), unbound := s.restoreUnbound c b0 } (hd.drop 0x100)
    let k := { (s.restoreTrap c base b1).mapL f with
      tslot := now.tslot, ptroot := now.ptroot, ctxbase := now.ctxbase, chbase := now.chbase, dmapbase := now.dmapbase
      msquota := now.msquota, xvec := now.xvec, mustSave := now.mustSave, halted := now.halted, stopReq := now.stopReq }
    let x := s1.cluster cl
    let accs := (((List.range 16).filter (fun i => k.accmap.getLsbD i)).map (s.restoreAcc c base img.accs)).foldl
      (fun v p => v.setIfInBounds p.1 (p.2.mapL f)) x.accs
    let btes := ((List.range 16).map (fun i => ((img.bte.getD i {}).ofImage (hd.drop (0xC00 + 64 * i))).mapL f)).foldl
      (fun (v : Vector Bte 16 × Nat) b => (v.1.setIfInBounds v.2 b, v.2 + 1)) (x.bte, 0)
    let y := { x with
      accs := accs, mxq := x.mxq.setIfInBounds (c % 8) (MxQueue.mapL f { img.mxq with
        active := s.restoreMx c base 0x12100 img.mxq.active, shadow := s.restoreMx c base 0x12300 img.mxq.shadow })
      bte := if c % 8 = 0 then btes.1 else x.bte
      mxwt := if c % 8 = 0 then getWord hd 0x68 else x.mxwt }
    let s2 := (s1.setCluster cl y).setCore c k
    let s3 := (s2.refAll cl (s2.coreHandles c)).restoreScratch c base f
    some (s3.unrefAll cl (m.map (·.2)))
  | _, _, _ => none

def State.restoreCores (s : State) (t : Nat) : List Nat → Option State
  | [] => some s
  | c :: l => match s.restoreCore t c with
    | none => none
    | some u => u.restoreCores t l

/-- RESTORE of slot n. One that cannot intern sets ERR and leaves the cores cleared. -/
def execRestore (s : State) : Host.Outcome State Fault Refusal :=
  let t := s.arg.n
  let s0 := s.cutCommand t 3
  let c := s0.cutOf t
  .next (if !c.busy || c.cmd != 3 then s0
    else match s0.restoreCores t (s0.subCores t) with
      | none => s0.cutFail t
      | some u => u.cutDone t)

/-! ### RESUME and completion (R360, R367) -/

/-- One core issues again, and what RE marks executes its instruction again. -/
def State.resumeCore (s : State) (c : Nat) : State :=
  let k := s.core c
  ((List.range 64).foldl (fun s i => s.yieldQ c (BitVec.ofNat 6 i))
    (s.setCore c { k with ready := k.ready.map (fun a => { a with re := false }), stopReq := false, color := k.color &&& ~~~ (2 : Word)
                          sentOld := k.sentNew, recvOld := k.recvNew, sentNew := 0, recvNew := 0 })).dispatch c

/-- RESUME of slot n: STOPPED is cleared, every core issues again, and STATE is RUNNING. -/
def State.cutResume (s : State) (t : Nat) : State :=
  let c := s.cutOf t
  if c.busy || c.state != 2 then s
  else (s.subCores t).foldl (fun s i => s.resumeCore i) (s.setCut t { c with state := 0, owed := c.owed ++ [(4, false)], color := s.me.color.getLsbD 0 })

def execResume (s : State) : Host.Outcome State Fault Refusal := .next (s.cutResume s.arg.n)

/-- The notice of a completed command to NOTIFY, in the colour of the store that gave the command (R360, R362, R430). -/
def State.cutNotice (s : State) (t : Nat) (c : Cut) (cmd : BitVec 3) (err : Bool) : State :=
  if c.notify = 0 || badTarget c.notify then s
  else
    let g := s.target t (8 * s.lowCluster t) c.notify
    let bytes := [cmd.setWidth 8, c.gen, if err then 1 else 0] ++ List.replicate 13 0
    s.post { s.hwMsg g.core g.chan bytes (s.cluster (s.lowCluster t)).ltime with
      dmod := g.dmod, smod := g.dmod, badAlias := g.badAlias, tslot := t, color := c.color, poster := some (8 * s.lowCluster t) }

/-- The oldest command of slot n that is done completes: a SAVE or RESTORE that failed leaves STATE as it was (R367). -/
def execCutCommandComplete (s : State) : Host.Outcome State Fault Refusal :=
  let t := s.arg.n
  let c := s.cutOf t
  .next (match c.owed with
    | [] => s
    | (cmd, bad) :: l =>
      let run := cmd = 2 || cmd = 3
      let st := if !run || bad then c.state else if cmd = 2 then 3 else 2
      (s.setCut t { c with owed := l, busy := c.busy && !run, state := st }).cutNotice t c cmd (if run then bad else c.err))

end Sys2Proof.Machine
end

