-- ==== Sys2Proof/Machine/Tenant.lean ====
section
/-! DEFINITION. Tenant records (R376 to R378) and arrivals from the fabric (R381). -/

namespace Sys2Proof.Machine

/-- The reserved bits of a tenant record (R376); APPLIED is not one. -/
def tenantRsv : Nat :=
  0xFC + 3 * 2 ^ 14 + 7 * 2 ^ 21 + 3 * 2 ^ 30 + (2 ^ 11 - 1) * 2 ^ 37 + (2 ^ 384 - 1) * 2 ^ 128

def tX0 (r : Line) : Nat := r.toNat / 2 ^ 8 % 64
def tY0 (r : Line) : Nat := r.toNat / 2 ^ 16 % 32
def tXN (r : Line) : Nat := r.toNat / 2 ^ 24 % 64
def tYN (r : Line) : Nat := r.toNat / 2 ^ 32 % 32
def tDtid (r : Line) : Nat := r.toNat / 2 ^ 48 % 2 ^ 16

/-- The rectangle lies in the mesh (R376). -/
def tenantInRange (r : Line) : Bool :=
  decide (tX0 r ≤ 47) && decide (tY0 r ≤ 23) && decide (1 ≤ tXN r) && decide (tX0 r + tXN r ≤ 48) && decide (1 ≤ tYN r) && decide (tY0 r + tYN r ≤ 24)

/-- Two rectangles share a cluster. -/
def tenantsMeet (a b : Line) : Bool :=
  decide (tX0 a < tX0 b + tXN b) && decide (tX0 b < tX0 a + tXN a) && decide (tY0 a < tY0 b + tYN b) && decide (tY0 b < tY0 a + tYN a)

/-- Whether a store that would leave this record is taken (R377): its fields are in range whatever V is. -/
def State.tenantTaken (s : State) (t : Nat) (r : Line) : Bool :=
  let old := s.tenant t
  let others := s.plant.tenants.filter (fun p => p.1 != t && p.2.getLsbD 0)
  t != 0 && decide (t < 64) && (r.toNat &&& tenantRsv) == 0
    && tenantInRange r && (!r.getLsbD 0 || (!others.any (fun p => tenantsMeet r p.2) && (tDtid r == 0 || !others.any (fun p => tDtid p.2 == tDtid r))))
    && (!old.getLsbD 0 || (s.cutOf t).state == 3)

/-- Entries of a table that a slot owns go, permanent and damaged ones too (R124). -/
def tpurge (t : LTable) (slot : Nat) : LTable := t.filter (fun p => p.2.tslot.toNat != slot)

/-- The teardown of a slot's job: every label entry of the slot is freed, its counters are freed, and its assumptions are FREE with no
nogood for the job that starts next (R117, R124, R304). The spec names
the supervisor's teardown and no operation for it: it is here the store that makes the record invalid (DESIGN CHOICE, log 43). -/
def State.teardown (s : State) (t : Nat) : State :=
  let j := s.job t
  { s with clusters := s.clusters.map (fun (p : Nat × Cluster) => (p.1, { p.2 with clt := tpurge p.2.clt t }))
           dlt := s.dlt.map (fun (p : Nat × LTable) => (p.1, tpurge p.2 t)) }.setJob t { j with counters := [], lab := {}, reps := [] }

/-- The slot whose valid record holds a DTID (R381). -/
def State.slotOf (s : State) (dtid : Nat) : Option Nat :=
  if dtid = 0 then none else (s.plant.tenants.find? (fun p => p.2.getLsbD 0 && tDtid p.2 == dtid)).map (·.1)

def State.portRefuse (s : State) : State := { s with portRefused := if s.portRefused = 0xFFFF then s.portRefused else s.portRefused + 1 }

/-- Messages held at the port whose record is no longer valid are refused (R381). -/
def State.portPurge (s : State) : State :=
  let gone := s.port.filter (fun m => (s.slotOf m.dtid.toNat).isNone)
  gone.foldl (fun s _ => s.portRefuse) { s with port := s.port.filter (fun m => (s.slotOf m.dtid.toNat).isSome) }

/-- A store that leaves a tenant record with a value: it is ignored as a whole, or taken, and clears APPLIED (R377). -/
def State.tenantStore (s : State) (t : Nat) (r : Line) : State :=
  let r := r &&& ~~~ (2 : Line)
  if s.tenantTaken t r then
    let s1 := { s with plant := { s.plant with tenants := fset s.plant.tenants t r, applied := s.plant.applied.filter (fun i => i != t) } }
    (if (s.tenant t).getLsbD 0 && !r.getLsbD 0 then s1.teardown t else s1).portPurge
  else s

/-- Record rcd is stored to tenant record n. -/
def execTenantRecordWrite (s : State) : Host.Outcome State Fault Refusal := .next (s.tenantStore s.arg.n s.arg.rcd)

/-- One core takes the record of a slot: it enters or leaves the rectangle (R377). -/
def State.applyTenant (s : State) (t : Nat) (r : Line) (c : Nat) : State :=
  let k := s.core c
  let inside := r.getLsbD 0 && inRect (tenantRect r) c
  if inside && k.tslot.toNat != t then
    s.setCore c { k with tslot := BitVec.ofNat 6 t, ptroot := (r >>> 64).setWidth 64 &&& 0x7FFFFFFFFF001 }
  else if !inside && k.tslot.toNat == t then s.setCore c { k with tslot := 0, ptroot := 0 }
  else s

/-- Every router and core has taken the record of slot n (R377). -/
def execApplied (s : State) : Host.Outcome State Fault Refusal :=
  let t := s.arg.n
  .next (if t = 0 || 63 < t || s.plant.applied.contains t then s
    else
      let s1 := (List.range Config.coreCount).foldl (fun s c => s.applyTenant t (s.tenant t) c) s
      { s1 with plant := { s1.plant with applied := t :: s1.plant.applied } })

/-- The lane of a message: the exclusive-or of the eight 4-bit groups of its destination core (R263). -/
def laneOf (core : Nat) : Nat := ((List.range 8).map (fun i => core / 16 ^ i % 16)).foldl (fun a b => a ^^^ b) 0

/-- Whether an earlier message of the same source and lane is among some held ones: a later one waits behind it (R263). -/
def portBehind (m : FabricMsg) (l : List FabricMsg) : Bool := l.any (fun x => x.smod == m.smod && laneOf x.core == laneOf m.core)

/-- A message of the fabric as the mesh carries it under a slot: counted by no cut; its counter is the other module's (R305, R362). A
successor message names its receiving core as sender (R27, R430). -/
def State.meshMsg (s : State) (t : Nat) (m : FabricMsg) : Msg :=
  { core := m.core, dmod := s.plant.modId, chan := BitVec.ofNat 6 m.chan, net := if m.start || m.succ then 2 else if m.rep then 1 else 0
    payload := m.payload, lab := m.label, score := if m.succ then BitVec.ofNat 14 m.core else m.score
    smod := if m.succ then s.plant.modId else m.smod, time := m.time, sup := m.sup, tslot := t, counted := true, via := some m.smod.toNat
    start := m.start, succ := m.succ, carve := m.carve, ctr := if m.start || m.succ then m.ctr else 0
    home := if m.start || m.succ then some m.smod.toNat else none, cores := m.cores
    launch := if m.start then 2 ^ 32 * (m.smod.toNat + 1) + m.launch else 0, seq := s.fabSeq }

/-- The gang of a start message from another module, formed at its first member (R282). -/
def State.formGang (s : State) (m : Msg) : State :=
  match m.gang with
  | none => s
  | some g =>
    let k := s.cluster (m.core / 8)
    if (fget k.gangs g).isSome then s else s.setCluster (m.core / 8) { k with gangs := fset k.gangs g { mask := m.cores } }

/-- A channel of core c whose LEVEL names a counter of another module that has been freed there goes back to 0 (R305). -/
def clearFar (slot : Nat) (m : FabricMsg) (k : Core) : Core :=
  { k with chans := k.chans.map (fun ch =>
      if ch.level = m.ctr && ch.lslot = slot && ch.lhome = some m.smod.toNat then { ch with level := 0 } else ch) }

/-- A change of a job's labels that another module broadcasts: this module's replicas take it and its tables sweep (R133). The label
operation has no activation here that waits for it. -/
def State.farLabelOp (s : State) (t : Nat) (m : FabricMsg) (kind : Nat) (envs : List Env) : State :=
  s.startOp {
    id := s.nextOp, kind := ([.assume, .retire, .commit, .lscrub, .nogood] : List LabKind).getD kind .nogood, tslot := t, envs := envs, status := 0
    dies := List.range 8, core := Config.coreCount, aid := noAct, time := m.time }

/-- A message from the fabric, under the slot of its DTID: refused, held while the slot is not RUNNING, or delivered to the
mesh; a lowering of a counter of this module, the freeing of one of the other's, and a change of the job's labels are performed (R133, R305,
R362, R381, R407). -/
def State.fabricIn (s : State) (m : FabricMsg) : State :=
  let peer := (fget s.plant.peers m.smod.toNat).getD {}
  match s.slotOf m.dtid.toNat with
  | none => s.portRefuse
  | some t =>
    if peer.dead || decide (Config.coreCount ≤ m.core) || decide (64 ≤ m.chan) || decide (256 < m.payload.length) then s.portRefuse
    else if (s.cutOf t).state != 0 || portBehind m s.port then { s with port := s.port ++ [m] }
    else
      let p := { peer with act := true, slots := peer.slots ||| ((1 : Word) <<< t) }
      let s1 := { s with plant := { s.plant with peers := fset s.plant.peers m.smod.toNat p, fabTime := some (tmaxO s.plant.fabTime m.time) } }
      if m.done then s1.lowerCounter t m.ctr.toNat m.time false 4
      else if m.freed then { s1 with cores := s1.cores.map (fun p => (p.1, clearFar t m p.2)) }
      else match m.lop with
      | some (kind, envs) => s1.farLabelOp t m kind envs
      | none =>
        ({ s1 with fabSeq := s.fabSeq + 1 }.formGang (s1.meshMsg t m)).toNet (s1.meshMsg t m)

/-- A message arrives at a fabric port; with no message given, the one held at place n is looked at again, after those of its
lane that came before it. -/
def execFabricArrival (s : State) : Host.Outcome State Fault Refusal :=
  .next (match s.arg.msg with
    | some m => s.fabricIn m
    | none => match s.port[s.arg.n]? with
      | none => s
      | some m =>
        if portBehind m (s.port.take s.arg.n) then s
        else match s.slotOf m.dtid.toNat with
          | some t =>
            if (s.cutOf t).state != 0 then s
            else
              -- what came after it stays behind it
              let u := { s with port := [] }.fabricIn m
              { u with port := s.port.eraseIdx s.arg.n ++ u.port }
          | none => { s with port := s.port.eraseIdx s.arg.n }.portRefuse)

end Sys2Proof.Machine
end

