-- ==== Sys2Proof/Machine/Debug.lean ====
section
/-! DEFINITION. The debug module of a cluster and the test access port (R416 to R419). -/

namespace Sys2Proof.Machine

/-! ### Halting and resuming (R416 to R418) -/

def State.haltIf (s : State) (k : Nat) (mask : Byte) (i : Nat) : State := if mask.getLsbD i then s.haltCore true (8 * k + i) else s

/-- HREQ of cluster k: each named core halts, and fires the cross-trigger (R417). -/
def State.hreq (s : State) (k : Nat) (mask : Byte) : State := (List.range 8).foldl (fun s i => s.haltIf k mask i) s

def execHreq (s : State) : Host.Outcome State Fault Refusal := .next (s.hreq s.arg.n (BitVec.ofNat 8 s.arg.m))

/-- A halted core goes on where it halted, for one instruction or on (R418). -/
def State.unhaltIf (s : State) (k : Nat) (mask : Byte) (stepping : Bool) (i : Nat) : State :=
  let x := s.core (8 * k + i)
  if mask.getLsbD i && x.halted then (s.setCore (8 * k + i) { x with halted := false, stepping := stepping }).dispatch (8 * k + i) else s

/-- The BTE and the MXE go on once every core of XTEN has resumed, also where a store leaves XTEN no halted core (R417); they never do
once the cluster has been scanned (R419). -/
def State.thaw (s : State) (k : Nat) : State :=
  let x := s.cluster k
  if x.dbg.frozen && !x.dbg.scanned && (List.range 8).all (fun i => !x.dbg.xten.getLsbD i || !(s.core (8 * k + i)).halted) then
    s.setCluster k { x with dbg := { x.dbg with frozen := false } }
  else s

/-- RREQ and STEP of cluster k: ignored once its state has been scanned (R418, R419). -/
def State.unhalt (s : State) (k : Nat) (mask : Byte) (stepping : Bool) : State :=
  if (s.cluster k).dbg.scanned then s else ((List.range 8).foldl (fun s i => s.unhaltIf k mask stepping i) s).thaw k

def execRreq (s : State) : Host.Outcome State Fault Refusal := .next (s.unhalt s.arg.n (BitVec.ofNat 8 s.arg.m) false)
def execStep (s : State) : Host.Outcome State Fault Refusal := .next (s.unhalt s.arg.n (BitVec.ofNat 8 s.arg.m) true)

/-- A store to word 0 of the debug module: XTEN and BFRZ, then the requests. A bit of HREQ wins over RREQ and STEP (R416). -/
def State.debugRequest (s : State) (k : Nat) (old v mask : Word) : State :=
  let w := v &&& mask
  let n := ((old &&& ~~~mask) ||| w).toNat
  let d := (s.cluster k).dbg
  let s1 := (s.setCluster k { s.cluster k with dbg := { d with xten := BitVec.ofNat 8 (n / 2 ^ 24), bfrz := n / 2 ^ 32 % 2 = 1 } }).thaw k
  let h : Byte := w.setWidth 8
  let r : Byte := (w >>> 8).setWidth 8 &&& ~~~h
  let t : Byte := (w >>> 16).setWidth 8 &&& ~~~h
  let s2 := if h = 0 then s1 else s1.hreq k h
  let s3 := if t = 0 then s2 else s2.unhalt k t true
  if r &&& ~~~t = 0 then s3 else s3.unhalt k (r &&& ~~~t) false

/-! ### The test access port (R419) -/

def State.setTap (s : State) (t : Tap) : State := { s with plant := { s.plant with tap := t } }
def execBypass (s : State) : Host.Outcome State Fault Refusal := .next (s.setTap .bypass)
def execIdcode (s : State) : Host.Outcome State Fault Refusal := .next (s.setTap .idcode)
def execSamplePreload (s : State) : Host.Outcome State Fault Refusal := .next (s.setTap .samplePreload)
def execExtest (s : State) : Host.Outcome State Fault Refusal := .next (s.setTap .extest)

/-- The private instruction: it acts as BYPASS while the configuration leaves debug closed. -/
def execIeee1687Select (s : State) : Host.Outcome State Fault Refusal :=
  .next (s.setTap (if s.plant.boot.debugOpen then .ieee1687 else .bypass))

/-- The segment of cluster n is included, when every core of it is halted and its BTE is frozen: SCANNED is set. The segments of the Sill
dies and of the dies' telemetry follow those of the clusters; scan changes no array, so including one has no effect. -/
def execSegmentInclude (s : State) : Host.Outcome State Fault Refusal :=
  let k := s.arg.n
  let x := s.cluster k
  .next (if s.plant.tap = .ieee1687 && decide (k < Config.clusterCount) && x.dbg.frozen && s.haltedMask k == 255 then
      s.setCluster k { x with dbg := { x.dbg with scanned := true } }
    else s)

end Sys2Proof.Machine
end

