-- ==== Sys2Proof/Machine/Ctl.lean ====
section
/-! DEFINITION. Stores to the supervisor control space 0xA (R14, R22). Its registers as they read stand in Regs. -/

namespace Sys2Proof.Machine

/-- A dead module is readmitted (R407). -/
def State.peerReadmit (s : State) (m : Nat) : State :=
  let p := (fget s.plant.peers m).getD {}
  if p.dead then { s with plant := { s.plant with peers := fset s.plant.peers m { p with dead := false, missed := 0 } } } else s

def execPeerReadmit (s : State) : Host.Outcome State Fault Refusal := .next (s.peerReadmit s.arg.n)

/-- Bits of a register that a store leaves. -/
def merge (old v mask : Word) : Word := (old &&& ~~~mask) ||| (v &&& mask)

/-- A store to word i of a cut record: LIMIT, ERR and NOTIFY, then the command (R360). -/
def State.cutStore (s : State) (t i : Nat) (v mask : Word) : State :=
  let c := s.cutOf t
  let w := v &&& mask
  match i with
  | 0 =>
    let m := merge (wordAt c.bits 0) v mask
    let s1 := s.setCut t { c with limit := BitVec.ofNat 16 (m.toNat / 2 ^ 32), err := c.err && !w.getLsbD 7 }
    match w.toNat % 8 with
    | 1 => s1.cutCommand t 1
    | 2 => s1.cutCommand t 2
    | 3 => s1.cutCommand t 3
    | 4 => s1.cutResume t
    | _ => s1
  | 3 => s.setCut t { c with notify := merge c.notify v mask }
  | _ => s

/-- The bytes from offset lo on, n of them, that a store of some bytes at offset a writes: their value and their mask. -/
def storeField (a : Nat) (bytes : List Byte) (lo n : Nat) : Nat × Nat :=
  let at_ (j : Nat) : Option Byte := if lo + j < a then none else bytes[lo + j - a]?
  (((List.range n).map (fun j => ((at_ j).getD 0).toNat * 2 ^ (8 * j))).sum,
    ((List.range n).map (fun j => if (at_ j).isSome then 255 * 2 ^ (8 * j) else 0)).sum)

/-- A store to the tenant records: each record that it touches takes it, or ignores it, as a whole (R377). -/
def State.tenantPut (s : State) (a : Nat) (bytes : List Byte) : State :=
  (List.range ((a % 64 + bytes.length + 63) / 64)).foldl (fun s i =>
    let t := a / 64 + i
    let f := storeField a bytes (64 * t) 64
    s.tenantStore t ((s.tenant t &&& ~~~ (BitVec.ofNat 512 f.2)) ||| BitVec.ofNat 512 f.1)) s

/-- A store to word i of a host window (R387). -/
def State.windowStore (s : State) (w i : Nat) (v mask : Word) : State :=
  let x := (fget s.plant.hostwin w).getD (0, 0)
  let y := if i = 0 then (merge x.1 v mask &&& 0x3FFFFF0003, x.2) else (x.1, merge x.2 v mask &&& 0xFFFFFFFF)
  { s with plant := { s.plant with hostwin := fset s.plant.hostwin w y } }

/-- A store to word i of a debug module (R416, R420). -/
def State.debugStore (s : State) (k i : Nat) (v mask : Word) : State :=
  let x := s.cluster k
  match i with
  | 0 => s.debugRequest k (s.debugWord k 0) v mask
  | 2 => s.setCluster k { x with dbg := { x.dbg with tcfg := merge x.dbg.tcfg v mask &&& 0x1FFF } }
  | 3 => s.setCluster k { x with dbg := { x.dbg with trring := merge x.dbg.trring v mask } }
  | 4 => s.setCluster k { x with dbg := { x.dbg with trdrop := x.dbg.trdrop &&& ~~~(v &&& mask) } }
  | _ => s

/-- A store to the Louvre, telemetry and lane registers (R424, R426, R428). A PERIOD of 0 is not taken. -/
def State.telStore (s : State) (o : Nat) (v mask : Word) : State :=
  let p := s.plant
  let m := merge (s.telWord o) v mask
  if o = 0 then
    let period := BitVec.ofNat 16 (m.toNat / 2 ^ 16)
    { s with plant := { p with louvre := { p.louvre with en := m.getLsbD 0, period := if period = 0 then p.louvre.period else period } } }
  else if o = 8 then { s with plant := { p with louvre := { p.louvre with lbase := m } } }
  else if 0x1000 ≤ o && o < 0x1000 + 10 * 0x40 then
    let d := (o - 0x1000) / 0x40
    if o % 0x40 = 8 then
      { s with plant := { p with dies := fset p.dies d { s.dieTel d with cap := m.setWidth 16, guard := BitVec.ofNat 16 (m.toNat / 2 ^ 32) } } }
    else s
  else if 0x2000 ≤ o && o < 0x2000 + 72 * 16 then
    let l := (o - 0x2000) / 16
    let x := s.lane l
    let y := if o % 16 = 0 then { x with warn := x.warn && !(v &&& mask).getLsbD 16 }
      else { x with hwarn := m.setWidth 8, vwarn := BitVec.ofNat 8 (m.toNat / 2 ^ 8) }
    { s with plant := { p with lanes := fset p.lanes l y } }
  else s

/-- A store to the word at offset a of space 0xA, a multiple of 8, in the bits of a mask. Read-only registers and addresses
that no rule gives take nothing; the tenant records take whole stores. -/
def State.ctlPut (s : State) (a : Nat) (v mask : Word) : State :=
  let o := a % 2 ^ 56
  match a / 2 ^ 56 with
  | 5 =>
    if o / 0x8000 < 64 then
      let j := s.job (o / 0x8000)
      s.setJob (o / 0x8000) { j with alias_ := fset j.alias_ (o % 0x8000 / 8) (merge (s.ctlWord a) v mask &&& 0xFFFFFFFFFF) }
    else s
  | 6 => if o / 0x40 < 64 then s.cutStore (o / 0x40) (o % 0x40 / 8) v mask else s
  | 9 => if o / 16 < 16 then s.windowStore (o / 16) (o % 16 / 8) v mask else s
  | 11 => if o / 0x1000 < Config.clusterCount then s.debugStore (o / 0x1000) (o % 0x1000 / 8) v mask else s
  | 12 => if o / 8 < Config.moduleCount && (v &&& mask).getLsbD 1 then s.peerReadmit (o / 8) else s
  | 13 => s.telStore o v mask
  | _ => s

/-- Bytes stored from offset a of space 0xA: one access for each word they touch, or for each tenant record. -/
def State.ctlStore (s : State) (a : Nat) (bytes : List Byte) : State :=
  if a / 2 ^ 56 = 7 then s.tenantPut (a % 2 ^ 56) bytes
  else (List.range ((a % 8 + bytes.length + 7) / 8)).foldl (fun s i =>
    let w := a / 8 + i
    let f := storeField a bytes (8 * w) 8
    s.ctlPut (8 * w) (BitVec.ofNat 64 f.1) (BitVec.ofNat 64 f.2)) s

/-- A supervisor store to a register of space 0xA: the address and the bytes (R14, R22). -/
def execRegisterWrite (s : State) : Host.Outcome State Fault Refusal :=
  .next (if s.arg.word.toNat / 2 ^ 60 = 10 then s.ctlStore (s.arg.word.toNat % 2 ^ 60) s.arg.bytes else s)

/-- A store to space 0xA takes effect on its registers beside its place in the memory order (R310, R360). -/
def State.ctlAfter (s : State) (key : Nat) (bytes : List Byte) : State := if isCtl key then s.ctlStore (key - 2 ^ 60) bytes else s

end Sys2Proof.Machine
end

