-- ==== Sys2Proof/Machine/LoadStore.lean ====
section
/-! DEFINITION. Loads, stores, full and empty operations, atomics and fences (R266 to R273). -/

namespace Sys2Proof.Machine

/-! ### Long-latency issue (R78, R79, R354) -/

/-- Whether a stop is a fault that is recorded (R354). -/
def Stop.late : Stop → Bool
  | .trap c _ => c.late
  | .access _ c _ => c.late
  | _ => false

/-- A long-latency access is issued: performed now, it lands later; its fault is recorded (R79, R354). Its pieces are performed
in one step (log 35). -/
def State.issueLong (s : State) (op : LOp) (r : Res (State × List RegWrite × Word)) : Res State :=
  match r with
  | .ok (t, ws, f) => .ok (t.leave ⟨op, s.issue, ws, f⟩)
  | .error e => if e.late then s.faulted e (fun t c v => .ok (t.defer op s.issue c v none)) else .error e

/-- A short access: its result is written at once (R78). -/
def issueShort (r : Res (State × List RegWrite × Word)) : Res State :=
  match r with
  | .ok (t, ws, f) => .ok ((t.applyNow ws).orFlags f)
  | .error e => .error e

/-! ### Loads (R267, R269) -/

/-- A load with focus writes zero with EMPTY where the label does not hold (R267). -/
def State.focused (s : State) (iss : Issue) (l : Handle) : Bool := iss.focld && !holds s.lab (s.labOf l) iss.focus

/-- The value of the bytes of a scalar load (R268). -/
def extend (sext : Bool) (n : Nat) (b : List Byte) : Word :=
  if sext then (BitVec.ofNat (8 * n) (ofBytes b)).signExtend 64 else wordOf b

/-- A scalar load: the value and label for each destination; home as for loadAt. A load with focus whose label is POISON writes
zero with EMPTY, and PS is set for the label that was formed (DESIGN CHOICE, log 36). -/
def State.loadTo (s : State) (home : Bool) (iss : Issue) (x : Word) (n : Nat) (la : Handle)
    (mkWrites : List Byte → Handle → List RegWrite) (zero : List RegWrite) : Res (State × List RegWrite × Word) :=
  onPage x (match s.loadAt home .rd x n with
  | .error e => .error e
  | .ok (t, bytes, srcs) =>
    match t.productL (.h la :: srcs ++ [.h iss.clab]) with
    | .error e => .error e
    | .ok (u, l, f) => if u.focused iss l then .ok (u.dropTmp l, zero, f) else .ok (u, mkWrites bytes l, f))

def State.doLoad (s : State) (iss : Issue) (x : Word) (n : Nat) (sext : Bool) (d : BitVec 6) (la : Handle) :
    Res (State × List RegWrite × Word) :=
  s.loadTo false iss x n la (fun b l => [.s d (extend sext n b) l]) [.s d 0 hEMPTY]

/-- The load of an LDFE, which acts as a load of the full bit that it has observed at the home (R261, R270). -/
def State.doLdfe (s : State) (iss : Issue) (x : Word) (d : BitVec 6) (la : Handle) : Res (State × List RegWrite × Word) :=
  s.loadTo true iss x 8 la (fun b l => [.s d (wordOf b) l]) [.s d 0 hEMPTY]

/-- LD.Q: bytes [7:0] into d, bytes [15:8] into d + 1 (R268). -/
def State.doLoadQ (s : State) (iss : Issue) (x : Word) (d : BitVec 6) (la : Handle) : Res (State × List RegWrite × Word) :=
  s.loadTo false iss x 16 la (fun b l => [.s d (wordOf (b.take 8)) l, .s (d + 1) (wordOf (b.drop 8)) l])
    [.s d 0 hEMPTY, .s (d + 1) 0 hEMPTY]

/-- Access size in bytes and sign extension of SZ (R268). -/
def szBytes (sz : Nat) : Nat := match sz with | 0 => 1 | 1 => 2 | 2 => 4 | 3 => 8 | 4 => 16 | 5 => 1 | 6 => 2 | _ => 4
def szSext (sz : Nat) : Bool := sz ≤ 3

/-- The address of a format-M access (R67, R269). -/
def State.memAddr (s : State) (size : Nat) : Word := (s.act.rd s.ir.a).val + s.ir.off7 size

def State.pairFree (s : State) (q : Bool) (d : BitVec 6) : Res Unit :=
  match s.freeS d with
  | .error e => .error e
  | .ok _ => if q then s.freeS (d + 1) else .ok ()

def State.ldRes (s : State) : Res State :=
  let sz := s.ir.md.toNat
  let n := szBytes sz
  let q := sz == 4
  let d := s.ir.d
  let a := s.act.rd s.ir.a
  let x := s.memAddr n
  match s.regs (.s d.toNat :: (if q then [.s (d.toNat + 1)] else []) ++ [.s s.ir.a.toNat]) with
  | .error e => .error e
  | .ok _ =>
    match s.notPoison a with
    | .error e => .error e
    | .ok _ =>
      let short := ownShort s.cur x n
      match (if short then .ok () else s.room) with
      | .error e => .error e
      | .ok _ =>
        match s.pairFree q d with
        | .error e => .error e
        | .ok _ =>
          let r := if q then s.doLoadQ s.issue x d a.lab else s.doLoad s.issue x n (szSext sz) d a.lab
          if short then issueShort r
          else s.issueLong (if q then .loadQ x d a.lab else .load x n (szSext sz) d a.lab) r

def execLd (s : State) : Host.Outcome State Fault Refusal := s.run s.ldRes

/-! ### Stores (R269, R354) -/

/-- The full or empty bit that governs an address is set or cleared where the store is performed (R270). -/
def State.markFe (s : State) (fe : Option Bool) (ps : List Piece) : Res State :=
  match fe, ps with
  | none, _ => .ok s
  | some _, [] => .ok s
  | some b, p :: _ =>
    match s.viewFor s.cl s.act.floor true p.key p.addr with
    | .error e => .error e
    | .ok v => .ok (s.setFull v p.key b)

/-- A store of bytes under a label, with its effect on the full and empty bit; a store of no bytes only has that. -/
def State.doStore (s : State) (x : Word) (bytes : List Byte) (l : Handle) (fe : Option Bool) : Res (State × List RegWrite × Word) :=
  let n := if bytes = [] then 1 else bytes.length
  onPage x (match s.pieces s.cur s.act.sup .wr x n with
  | .error (c, v) => .error (.trap c v)
  | .ok ps =>
    match hostLabelFault l ps with
    | some a => trapped .prot a
    | none =>
      if fe.isSome && ps.any (fun p => isHost p.key) then trapped .prot x
      else match s.walks none ps with
        | .error e => .error e
        | .ok s1 =>
          if bytes = [] then
            match s1.markFe fe ps with
            | .error e => .error e
            | .ok t => .ok (ps.foldl (fun t p => t.touchStore (s.writes s.cl (p.key / 64)) p) t, [], 0)
          else
            match s1.writePieces bytes l none ps with
            | .error e => .error e
            | .ok (t, f) =>
              match t.markFe fe ps with
              | .error e => .error e
              | .ok u => .ok (ps.foldl (fun u p => u.ctlAfter p.key ((bytes.drop p.off).take p.len)) u, [], f))

/-- Whether an address is answered by its target: the remote window, another module (R354), or a scratchpad of the cluster that a
closed Shutter holds (R396). -/
def State.farTo (s : State) (x : Word) : Bool :=
  x.toNat / 2 ^ 60 == 9 || s.tgtOf s.cur x == 3 || (x.toNat / 2 ^ 60 == 8 && s.shuttered (s.cl * 8 + x.toNat % 2 ^ 60 / 2 ^ 18))

/-- Whether a store of n bytes, at most two pages of them, awaits the answer of a target (R269, R354). -/
def State.farStore (s : State) (x : Word) (n : Nat) : Bool := s.farTo x || s.farTo (x + BitVec.ofNat 64 (n - 1))

/-- The faults that only the target of such a store finds, by the address that meets them: the hole check, the slot check and NAKFENCED
(R354). A module outside the domain is a broken layout, which is found at issue (R22). -/
def targetFault (x : Word) (c : Cause) : Bool :=
  let lo := x.toNat % 2 ^ 60
  match c with
  | .nakfenced => true
  | .prot => x.toNat / 2 ^ 60 == 9
  | .xlate => x.toNat / 2 ^ 60 == 9 && decide (lo < 2 ^ 45) && decide (lo / 2 ^ 21 % 2 ^ 11 < 1152) && decide (lo / 2 ^ 32 < Config.moduleCount)
      && Config.inDomain (lo / 2 ^ 32)
  | _ => false

/-- A store of that kind has stopped: a fault that its target found is recorded, any other stands (R354). -/
def State.deferTarget (s : State) (op : LOp) (e : Stop) : Res State :=
  match e with
  | .trap c v => if targetFault v c then .ok (s.defer op s.issue c v none) else trapped c v
  | .access _ c v => if targetFault v c then s.faulted e (fun t c v => .ok (t.defer op s.issue c v none)) else .error e
  | e => .error e

/-- A store issues: a near one is performed; a far one holds an entry until its target answers (R354). -/
def State.issueStore (s : State) (x : Word) (bytes : List Byte) (l : Handle) (fe : Option Bool) : Res State :=
  if s.farStore x bytes.length then
    match s.room with
    | .error e => .error e
    | .ok _ =>
      match s.doStore x bytes l fe with
      | .ok (t, ws, f) => .ok (t.leave ⟨.store x bytes l fe, s.issue, ws, f⟩)
      | .error e => s.deferTarget (.store x bytes l fe) e
  else issueShort (s.doStore x bytes l fe)

/-- The label of stored data: the data's labels, the address's, CLAB (R129, R269); a label that only memory took is
given back to the table of registers. -/
def State.storeWith (s : State) (hs : List Handle) (x : Word) (bytes : List Byte) (fe : Option Bool) : Res State :=
  match s.product (hs ++ [s.act.clab]) with
  | .error e => .error e
  | .ok (t, l, f) =>
    match t.issueStore x bytes l fe with
    | .error e => .error e
    | .ok u => .ok ((u.orFlags (f &&& flagLW)).dropTmp l)

def State.stRes (s : State) : Res State :=
  let sz := s.ir.md.toNat
  let n := szBytes sz
  let q := sz == 4
  let d := s.ir.d
  let a := s.act.rd s.ir.a
  let r0 := s.act.rd d
  let r1 := s.act.rd (d + 1)
  match s.regs (.s d.toNat :: (if q then [.s (d.toNat + 1)] else []) ++ [.s s.ir.a.toNat]) with
  | .error e => .error e
  | .ok _ =>
    match s.notPoison a with
    | .error e => .error e
    | .ok _ =>
      s.storeWith (r0.lab :: (if q then [r1.lab] else []) ++ [a.lab]) (s.memAddr n)
        (if q then toBytes 8 r0.val.toNat ++ toBytes 8 r1.val.toNat else toBytes n r0.val.toNat) none

def execSt (s : State) : Host.Outcome State Fault Refusal := s.run s.stRes

/-! ### Full and empty operations (R270) -/

/-- The alignment that an access needs (R270, R271). -/
def aligned (x : Word) (n : Nat) : Res Unit := if x.toNat % n = 0 then .ok () else trapped .alignatom x

def State.stfeRes (s : State) : Res State :=
  let a := s.act.rd s.ir.a
  let r := s.act.rd s.ir.d
  let x := s.memAddr 8
  match s.regs [.s s.ir.d.toNat, .s s.ir.a.toNat] with
  | .error e => .error e
  | .ok _ =>
    match s.notPoison a with
    | .error e => .error e
    | .ok _ =>
      match aligned x 8 with
      | .error e => .error e
      | .ok _ => s.storeWith [r.lab, a.lab] x (toBytes 8 r.val.toNat) (some true)

def execStfe (s : State) : Host.Outcome State Fault Refusal := s.run s.stfeRes

/-- FESET and FECLR set and clear the bit at one point of the memory order. The ALIGNATOM of R42 covers them as full and empty
accesses. -/
def State.feRes (s : State) (b : Bool) : Res State :=
  let a := s.act.rd s.ir.a
  match s.regs [.s s.ir.a.toNat] with
  | .error e => .error e
  | .ok _ =>
    match s.notPoison a with
    | .error e => .error e
    | .ok _ =>
      match aligned a.val 8 with
      | .error e => .error e
      | .ok _ => s.issueStore a.val [] hTRUE (some b)

def execFeset (s : State) : Host.Outcome State Fault Refusal := s.run (s.feRes true)
def execFeclr (s : State) : Host.Outcome State Fault Refusal := s.run (s.feRes false)

/-- Whether the bit that governs an address is full, for core c (R235, R255); a fault of the translation, or host memory,
which keeps no bits (R266). -/
def State.feState (s : State) (c : Nat) (sup : Bool) (x : Word) : Except (Cause × Word) Bool :=
  match s.resolve c sup .rd x with
  | .error e => .error e
  | .ok key =>
    if isHost key then .error (.prot, x) else .ok (s.full (s.writes (c / 8) (key / 64)) key)

def State.ldfeRes (s : State) : Res State :=
  let a := s.act.rd s.ir.a
  let x := s.memAddr 8
  let d := s.ir.d
  match s.regs [.s d.toNat, .s s.ir.a.toNat] with
  | .error e => .error e
  | .ok _ =>
    match s.asMarker with
    | .error e => .error e
    | .ok _ =>
      match s.notPoison a with
      | .error e => .error e
      | .ok _ =>
        match aligned x 8 with
        | .error e => .error e
        | .ok _ =>
          let short := ownShort s.cur x 8
          match s.feState s.cur s.act.sup x with
          | .error (c, v) => if short then .error (.access x c v) else s.issueLong (.ldfe x d a.lab) (.error (.access x c v))
          | .ok false => .error (.final (s.park (.ldfe x d a.lab s.ir.sw s.issue) s.npc))
          | .ok true =>
            let r := s.doLdfe s.issue x d a.lab
            if short then issueShort r else s.issueLong (.ldfe x d a.lab) r

def execLdfe (s : State) : Host.Outcome State Fault Refusal := s.run s.ldfeRes

/-! ### Atomics (R271, R272) -/

def AtomOp.width : AtomOp → Nat
  | .fadds => 4 | .cas2 => 16 | _ => 8

/-- The new 64-bit value of an ATOM, and the flags of the floating-point adds (R271). -/
def AtomOp.apply (op : AtomOp) (rm : Nat) (old b : Word) : Word × Word :=
  match op with
  | .add => (old + b, 0)
  | .and => (old &&& b, 0)
  | .or => (old ||| b, 0)
  | .xor => (old ^^^ b, 0)
  | .min => (if old.slt b then old else b, 0)
  | .max => (if old.slt b then b else old, 0)
  | .minu => (if old.ult b then old else b, 0)
  | .maxu => (if old.ult b then b else old, 0)
  | .swap => (b, 0)
  | .faddd => let r := (fmtOf .d).add rm old.toNat b.toNat; (BitVec.ofNat 64 r.1, r.2)
  | .fadds => let r := (fmtOf .s).add rm (old.toNat % 2 ^ 32) (b.toNat % 2 ^ 32); (BitVec.ofNat 64 r.1, r.2)
  | .cas => (b, 0)
  | .cas2 => (b, 0)

/-- The atomics that the root port completes over plain PCIe (R266). -/
def AtomOp.pcie : AtomOp → Bool
  | .add => true | .swap => true | .cas => true | .cas2 => true | _ => false

/-- Watches on the words of a range of keys: core, channel, address as given (R324). -/
def State.watchesOn (s : State) (key n : Nat) : List (Nat × BitVec 6 × Word × Nat) :=
  s.cores.flatMap (fun p => p.2.watches.filterMap (fun w =>
    if key / 8 ≤ w.2.2.2 / 8 && w.2.2.2 / 8 ≤ (key + n - 1) / 8 then some (p.1, w.2.2.1, w.2.1, w.2.2.2) else none))

/-- Posts to the watches whose word an atomic that wrote has left zero (R324, R325). -/
def State.postWatches (before after : State) (v : View) (key n : Nat) (time : Time) : State :=
  (after.watchesOn key n).foldl (fun s w =>
    let wk := w.2.2.2 / 8 * 8
    if ofBytes (s.rdBytes v wk 8) = 0 then
      s.post { s.hwMsg w.1 w.2.1 (toBytes 8 w.2.2.1.toNat ++ before.rdBytes v wk 8) time with
        lab := s.tagLab v wk, watch := true, color := s.me.color.getLsbD 0 }
    else s) after

/-- An atomic at its home, at one point of the memory order (R272). -/
def State.doAtom (s : State) (iss : Issue) (op : AtomOp) (x : Word) (d : BitVec 6) (b b1 e e1 : Word) (la ls : Handle) :
    Res (State × List RegWrite × Word) :=
  let n := op.width
  onPage x (match s.pieces s.cur s.act.sup .atom x n with
  | .error (c, v) => .error (.trap c v)
  | .ok [] => .error .stall
  | .ok (p :: _) =>
    match hostLabelFault ls [p] with
    | some a => trapped .prot a
    | none =>
      if p.plain && !(op.pcie && s.plant.hostcap.getLsbD 11 && (op != .cas2 || s.plant.hostcap.getLsbD 12)) then trapped .hostatom x
      else match s.walks none [p] with
      | .error e => .error e
      | .ok s => match s.viewFor s.cl s.act.floor true p.key x with
        | .error e => .error e
        | .ok v =>
          if s.foreignTag v p.key s.slot then trapped .prot p.addr
          else
            let old := s.rdBytes v p.key n
            let told := s.tagSrc v p.key
            let o0 := wordOf (old.take 8)
            let o1 := wordOf (old.drop 8)
            let rm := if iss.rm = 6 then 0 else iss.rm.toNat
            let r := op.apply rm o0 b
            let match_ : Bool := match op with | .cas => o0 == e | .cas2 => o0 == e && o1 == e1 | _ => true
            let new := if op = .cas2 then toBytes 8 b.toNat ++ toBytes 8 b1.toNat else toBytes n r.1.toNat
            match s.productL [.h la, told, .h iss.clab] with
            | .error er => .error er
            | .ok (t, l, f) =>
              let t1 := t.touchStore v p
              let writes := if op = .cas2 then [RegWrite.s d o0 l, .s (d + 1) o1 l] else [.s d o0 l]
              if match_ then
                match t1.storeTag v { p with len := 8 } ls with
                | .error er => .error er
                | .ok (t2, g) =>
                  .ok (State.postWatches s (t2.wrBytes v p.key new) v p.key n t2.act.floor, writes, f ||| g ||| r.2)
              else .ok (t1, writes, f))

/-- An atomic instruction: the checks, the label of what it stores, and its issue (R272). -/
def State.atomRes (s : State) (op : AtomOp) : Res State :=
  let a := s.act.rd s.ir.a
  let b := s.opB
  let d := s.act.rd s.ir.d
  let b1 := s.act.rd (s.ir.b + 1)
  let d1 := s.act.rd (s.ir.d + 1)
  let two := op == .cas2
  let cas := op == .cas || op == .cas2
  match s.regs (.s s.ir.d.toNat :: (if two then [.s (s.ir.d.toNat + 1)] else []) ++ [.s s.ir.a.toNat] ++ s.ir.bRU
      ++ (if two then [.s (s.ir.b.toNat + 1)] else [])) with
  | .error e => .error e
  | .ok _ =>
    match s.notPoison a with
    | .error e => .error e
    | .ok _ =>
      match aligned a.val op.width with
      | .error e => .error e
      | .ok _ =>
        match s.room with
        | .error e => .error e
        | .ok _ =>
          match s.pairFree two s.ir.d with
          | .error e => .error e
          | .ok _ =>
            match s.product (b.lab :: (if two then [b1.lab] else []) ++ (if cas then d.lab :: (if two then [d1.lab] else []) else [])
                ++ [a.lab, s.act.clab]) with
            | .error e => .error e
            | .ok (t, ls, f) =>
              match t.issueLong (.atom op a.val s.ir.d b.val b1.val d.val d1.val a.lab ls)
                  (t.doAtom t.issue op a.val s.ir.d b.val b1.val d.val d1.val a.lab ls) with
              | .error e => .error e
              | .ok u => .ok ((u.orFlags (f &&& flagLW)).dropTmp ls)

def execAadd (s : State) : Host.Outcome State Fault Refusal := s.run (s.atomRes .add)
def execAand (s : State) : Host.Outcome State Fault Refusal := s.run (s.atomRes .and)
def execAor (s : State) : Host.Outcome State Fault Refusal := s.run (s.atomRes .or)
def execAxor (s : State) : Host.Outcome State Fault Refusal := s.run (s.atomRes .xor)
def execAmin (s : State) : Host.Outcome State Fault Refusal := s.run (s.atomRes .min)
def execAmax (s : State) : Host.Outcome State Fault Refusal := s.run (s.atomRes .max)
def execAminu (s : State) : Host.Outcome State Fault Refusal := s.run (s.atomRes .minu)
def execAmaxu (s : State) : Host.Outcome State Fault Refusal := s.run (s.atomRes .maxu)
def execAswap (s : State) : Host.Outcome State Fault Refusal := s.run (s.atomRes .swap)
def execAfaddd (s : State) : Host.Outcome State Fault Refusal := s.run (s.atomRes .faddd)
def execAfadds (s : State) : Host.Outcome State Fault Refusal := s.run (s.atomRes .fadds)
def execAcas (s : State) : Host.Outcome State Fault Refusal := s.run (s.atomRes .cas)
def execAcas2 (s : State) : Host.Outcome State Fault Refusal := s.run (s.atomRes .cas2)

/-! ### Fences (R262, R273) -/

/-- A fence parks until its condition holds (R273): results to land; for FENCE.SYS, the flushing read of posted writes to plain
PCIe memory (R264, R266). A stopping core stops the activation after it (R361). FENCE.EW raises the floor to the greatest stamp
of the engine writes seen complete: those of MSTOREs, for a signal's load has raised the floor past the writes it covers
(R261, R262). -/
def State.fenceRes (s : State) (sel : BitVec 2) : Res State :=
  let a := s.act
  if a.cancelled then .error (.final s.marker)
  else if a.outs != [] then .error (.final (s.park (.fence sel) s.npc))
  else if a.deferred != [] then .error (.final s.marker)
  else if sel = 2 && a.posted then .error (.final (s.park (.fence 2) s.npc))
  else
    let t := if sel = 1 then s.atTime (tmaxO a.engStamp a.floor) else s
    if s.me.stopReq && !a.inStop then
      .error (.final (let u := t.finish s.npc; if u.me.running then u.marker else u))
    else .ok t

def execFenceE (s : State) : Host.Outcome State Fault Refusal := s.run (s.fenceRes 0)
def execFenceEw (s : State) : Host.Outcome State Fault Refusal := s.run (s.fenceRes 1)
def execFenceSys (s : State) : Host.Outcome State Fault Refusal := s.run (s.fenceRes 2)
/-- FENCE.I: nothing fetched or decoded is kept from one instruction to the next; copies of code lines are dropped (R273). -/
def execFenceI (s : State) : Host.Outcome State Fault Refusal := s.run (s.fenceRes 3)

end Sys2Proof.Machine
end

