-- ==== Sys2Proof/Machine/Msg.lean ====
section
/-! DEFINITION. Messages: sending (R308, R315 to R317), the host queue (R318 to R320), steering and binding channels (R321 to
R323), watch words (R324, R325), and what happens to a message on its way: it leaves its queue, arrives, is placed, held,
refused, dropped or answered (R298 to R301, R379). -/

namespace Sys2Proof.Machine

/-! ### Results of instructions that wait -/

/-- A parked activation goes on after its instruction, with a register written where the instruction has a result; a
gang's result is given (R313, R330). The result's PS goes into FLAGS, but where it is another member's (own is false). -/
def State.resumeWith (s : State) (own : Bool) (c slot : Nat) (w : Option (BitVec 6 × Word × Handle)) (floor : Option Time) : State :=
  match (s.core c).parked.find? (fun a => a.slot == slot) with
  | none => s
  | some a =>
    let fl := tmaxO floor a.floor
    let b := { a with pc := a.npc, elect := none, floor := fl,
                      electGen := match a.elect with | some (some _) => a.electGen + 1 | _ => a.electGen }
    match w with
    | none => s.wake c slot (fun _ => b)
    | some (d, v, l) =>
      let s1 := if d = 0 then s else (s.refC (c / 8) l).unrefC (c / 8) (a.rd d).lab
      let b1 := { b.wr d ⟨v, l⟩ with flags := b.flags ||| (if own && s.poisonAt (c / 8) l then flagPS else 0) }
      let s2 := match a.elect with | some (some g) => s1.electGive c g v (if d = 0 then hTRUE else l) fl | _ => s1
      s2.wake c slot (fun _ => b1)

def State.resumeL (s : State) (c slot : Nat) (w : Option (BitVec 6 × Word × Handle)) (floor : Option Time) : State :=
  s.resumeWith true c slot w floor

/-- As resumeL, the result under CLAB (R313). -/
def State.resume (s : State) (c slot : Nat) (w : Option (BitVec 6 × Word)) (floor : Option Time) : State :=
  s.resumeL c slot (w.map (fun p => (p.1, p.2, match (s.core c).parked.find? (fun a => a.slot == slot) with
    | some a => a.clab | none => hTRUE))) floor

/-- The parked activation of a slot. -/
def State.parkedAt (s : State) (c slot : Nat) : Option Act := (s.core c).parked.find? (fun a => a.slot == slot)

/-- A status instruction ends at once: sd takes the value under CLAB (R313). -/
def State.status (s : State) (v : Word) : State :=
  (s.writeS s.ir.d v s.act.clab).orFlags (s.psOf s.act.clab)

/-! ### Sending (R315 to R317) -/

/-- The label of a message, formed as a register's is and read in full form (R119, R127, R315); its LW flag. PS is for registers
alone (R142). -/
def State.msgLabel (s : State) (gs : List (List LSrc)) : Res (State × Lab × Word) :=
  match s.productGL gs with
  | .error e => .error e
  | .ok (t, h, f) => .ok (t.dropTmp h, t.labOf h, f &&& flagLW)

/-- The target check of R315: PROT outside the sub-mesh. A supervisor message to a privileged channel sees the module. -/
def State.reach (s : State) (t : Word) (g : Target) : Res Unit :=
  if g.badAlias || g.dmod != s.plant.modId || (s.act.sup && decide (56 ≤ g.chan.toNat)) || s.inSub s.slot g.core then .ok ()
  else trapped .prot t

/-- The queue check of R308: a REP-class activation stalls, a REQ-class one traps. -/
def State.queueRoom (s : State) (net : BitVec 2) : Res Unit :=
  if (if net = 0 then s.me.sendReq else s.me.sendRep).length < 8 then .ok ()
  else if (s.me.chans[s.act.chan.toNat]'s.act.chan.isLt).rep then .error .stall
  else trapped .sendfull (net.setWidth 64)

/-- A message enters its send queue, with the sender's floor and colour (R249, R315, R362); after a cancellation it is
discarded (R306). -/
def State.enqueue (s : State) (g : Target) (payload : List Byte) (l : Lab) : State :=
  if s.act.cancelled then s
  else
    let k := s.me
    let m : Msg := {
      core := g.core, dmod := g.dmod, chan := g.chan, net := g.net, payload := payload, lab := l,
      score := BitVec.ofNat 14 s.cur, smod := s.plant.modId, time := s.act.floor, sup := s.act.sup && decide (56 ≤ g.chan.toNat),
      badAlias := g.badAlias, from_ := some (s.cur, s.act.aid), color := k.color.getLsbD 0, tslot := s.slot, seq := k.sendSeq }
    s.setMe { k with
      sendSeq := k.sendSeq + 1, sentOld := (k.countSent m.color).sentOld, sentNew := (k.countSent m.color).sentNew
      sendReq := if g.net = 0 then k.sendReq ++ [m] else k.sendReq
      sendRep := if g.net = 0 then k.sendRep else k.sendRep ++ [m]
      act := { k.act with unanswered := k.act.unanswered + 1 } }

/-- The effect that the sending forms share, after the checks of the form (R315). -/
def State.sendTo (s : State) (t : Reg) (g : Target) (pre : List (List Handle)) (read : Res (State × List Byte × List LSrc)) : Res State :=
  match s.reach t.val g with
  | .error e => .error e
  | .ok _ =>
    match s.queueRoom g.net with
    | .error e => .error e
    | .ok _ =>
      match read with
      | .error e => .error e
      | .ok (u, bytes, tags) =>
        match u.msgLabel ([LSrc.h t.lab] :: pre.map (fun p => p.map LSrc.h) ++ (tags ++ [LSrc.h u.act.clab]).map (fun x => [x])) with
        | .error e => .error e
        | .ok (v, l, f) => .ok (((v.trace v.cur 4 t.val).enqueue g bytes l).orFlags f)

/-- The payload of a memory form: ordinary loads, none when the length is 0 (R315). -/
def State.payload (s : State) (x n : Word) : Res (State × List Byte × List LSrc) :=
  if n = 0 then .ok (s, [], []) else s.load .rd x n.toNat

def State.sendRes (s : State) (reply : Bool) : Res State :=
  let t := s.act.rd s.ir.d
  let a := s.act.rd s.ir.a
  let n := s.opB
  match s.regs (.s s.ir.d.toNat :: .s s.ir.a.toNat :: s.ir.bRU) with
  | .error e => .error e
  | .ok _ =>
    match s.noPoison (t :: if n.val = 0 then [] else [a]) with
    | .error e => .error e
    | .ok _ =>
      if (if reply then (t.val &&& ~~~0x3F00000000) != 0 else badTarget t.val) then trapped .bounds t.val
      else if 256 < n.val.toNat then trapped .bounds n.val
      else
        let g : Target :=
          if reply then { core := s.act.rcd.score.toNat, dmod := s.act.rcd.smod, chan := BitVec.ofNat 6 (t.val.toNat / 2 ^ 32), net := 1 }
          else s.target s.slot s.cur t.val
        s.sendTo t g [[a.lab], [n.lab]] (s.payload a.val n.val)

def execSend (s : State) : Host.Outcome State Fault Refusal := s.run (s.sendRes false)
def execReply (s : State) : Host.Outcome State Fault Refusal := s.run (s.sendRes true)

/-- SENDV: one to four whole vector registers, Lreg of each a factor of the label (R316). -/
def execSendv (s : State) : Host.Outcome State Fault Refusal :=
  let t := s.act.rd s.ir.d
  let n := s.opB
  let k := n.val.toNat
  s.run (match s.regs (.s s.ir.d.toNat :: .v s.ir.a.toNat :: s.ir.bRU) with
    | .error e => .error e
    | .ok _ =>
      match s.notPoison t with
      | .error e => .error e
      | .ok _ =>
        if badTarget t.val then trapped .bounds t.val
        else if k = 0 || 4 < k then trapped .bounds n.val
        else match s.regs ((List.range k).map (fun i => RU.v (s.ir.a.toNat + i))) with
          | .error e => .error e
          | .ok _ =>
            let vs := (List.range k).map (fun i => s.act.rdV (s.ir.va + BitVec.ofNat 4 i))
            s.sendTo t (s.target s.slot s.cur t.val) (vs.map VReg.labs ++ [[n.lab]])
              (.ok (s, vs.flatMap (fun v => toBytes 64 v.val.toNat), [])))

/-- SENDX: the first m of A, B, C, E. The count m stands in MOD[2:0] (R317), though the row of SENDX in R77 lists no MOD: R317 is
followed (DESIGN CHOICE, log 47). -/
def execSendx (s : State) : Host.Outcome State Fault Refusal :=
  let t := s.act.rd s.ir.d
  let rs := [s.ir.a, s.ir.b, s.ir.c, s.ir.e].take s.ir.md.toNat
  s.run (match s.regs (.s s.ir.d.toNat :: rs.map (fun r => RU.s r.toNat)) with
    | .error e => .error e
    | .ok _ =>
      match s.notPoison t with
      | .error e => .error e
      | .ok _ =>
        if badTarget t.val then trapped .bounds t.val
        else s.sendTo t (s.target s.slot s.cur t.val) (rs.map (fun r => [(s.act.rd r).lab]))
          (.ok (s, rs.flatMap (fun r => toBytes 8 (s.act.rd r).val.toNat), [])))

/-! ### The host queue (R318 to R320) -/

/-- An entry of the host queue (R320). -/
def State.hostEntry (s : State) (bytes : List Byte) (l : Lab) : List Byte :=
  let envs := l.getD []
  let w0 := bytes.length + envs.length * 2 ^ 9 + (if l = none then 2 ^ 14 else 0) + (if l = some [] then 2 ^ 15 else 0)
    + s.cur * 2 ^ 16 + s.modId * 2 ^ 32 + s.dtid s.slot * 2 ^ 48
  toBytes 8 w0 ++ toBytes 6 s.act.floor.toNat ++ List.replicate 18 0 ++ bytes ++ List.replicate (256 - bytes.length) 0
    ++ envs.flatMap (fun e => toBytes 8 e.toNat) ++ List.replicate (8 * (16 - envs.length)) 0 ++ List.replicate 96 0

/-- A fault of an access that both reads and writes a range (R383). -/
def State.rwOk (s : State) (x : Word) (n : Nat) : Res (List Piece) :=
  match s.pieces s.cur s.act.sup .rd x n with
  | .error (c, v) => .error (.access x c v)
  | .ok _ =>
    match s.pieces s.cur s.act.sup .wr x n with
    | .error (c, v) => .error (.access x c v)
    | .ok ps => .ok ps

/-- HOSTQ reads the header at its home, writes the entry and then HEAD; over plain PCIe it parks until both are complete at the host (R266, R319). -/
def State.hostqRes (s : State) : Res State :=
  let a := s.act.rd s.ir.a
  let n := s.opB
  match s.regs (.s s.ir.d.toNat :: .s s.ir.a.toNat :: s.ir.bRU) with
  | .error e => .error e
  | .ok _ =>
    match s.asMarker with
    | .error e => .error e
    | .ok _ =>
      if 256 < n.val.toNat then trapped .bounds n.val
      else match s.notPoison a with
        | .error e => .error e
        | .ok _ =>
          if !s.me.hqbase.getLsbD 0 then .ok (s.status 2)
          else match s.payload a.val n.val with
            | .error e => .error e
            | .ok (t, bytes, tags) =>
              match t.msgLabel ((LSrc.h a.lab :: LSrc.h n.lab :: tags ++ [LSrc.h t.act.clab]).map (fun x => [x])) with
              | .error e => .error e
              | .ok (t, l, f) =>
                let h := s.me.hqbase &&& ~~~63
                match t.rwOk h 32 with
                | .error e => .error e
                | .ok hp =>
                  match t.loadAt true .rd h 32 with
                  | .error e => .error e
                  | .ok (u, hb, _) =>
                    let base := wordOf (hb.take 8)
                    let size : Nat := 2 ^ ((hb.getD 8 0).toNat % 16)
                    let head := wordOf ((hb.drop 16).take 8)
                    if size ≤ (head - wordOf (hb.drop 24)).toNat then .ok ((u.orFlags f).status 1)
                    else
                      let x := base + BitVec.ofNat 64 (head.toNat % size * 512)
                      match u.rwOk x 512 with
                      | .error e => .error e
                      | .ok ep =>
                        match u.store x (u.hostEntry bytes l) hTRUE with
                        | .error e => .error e
                        | .ok (v, _) =>
                          match v.store (h + 16) (toBytes 8 (head + 1).toNat) hTRUE with
                          | .error e => .error e
                          | .ok (w, _) =>
                            let w := w.orFlags f
                            if (hp ++ ep).any (·.plain) then .error (.final (w.park (.hostq 0 s.ir.d) s.npc)) else .ok (w.status 0)

def execHostq (s : State) : Host.Outcome State Fault Refusal := s.run s.hostqRes

/-- The entry and HEAD are complete at the host (R266, R319). -/
def execHostqComplete (s : State) : Host.Outcome State Fault Refusal :=
  .next (match s.parkedAt s.arg.n s.arg.m with
    | some a => match a.park with
      | some (.hostq v d) => s.resume s.arg.n s.arg.m (some (d, v)) none
      | _ => s
    | none => s)

/-! ### CHSET and CHBIND (R321 to R323) -/

def State.chsetRes (s : State) : Res State :=
  let t := s.act.rd s.ir.d
  let b := s.opB
  match s.regs (.s s.ir.d.toNat :: s.ir.bRU) with
  | .error e => .error e
  | .ok _ =>
    match s.notPoison t with
    | .error e => .error e
    | .ok _ =>
      if badTarget t.val || (t.val &&& 0xC000000000) != 0 then trapped .bounds t.val
      else if 63 < b.val.toNat || (b.val &&& (b.val >>> 1) &&& 0x15) != 0 then trapped .bounds b.val
      else
        let g := s.target s.slot s.cur t.val
        if !s.act.sup && 56 ≤ g.chan.toNat then trapped .priv s.rawVal
        else match s.reach t.val g with
          | .error e => .error e
          | .ok _ =>
            if 8 ≤ (s.me.residents.map (·.chsets)).sum then .error .stall
            else if s.act.cancelled then .ok s
            else
              let m : Msg := {
      core := g.core, dmod := g.dmod, chan := g.chan, net := 2, score := BitVec.ofNat 14 s.cur,
                smod := s.plant.modId, time := s.act.floor, sup := s.act.sup && decide (56 ≤ g.chan.toNat), from_ := some (s.cur, s.act.aid),
                chset := some (b.val.setWidth 6), color := s.me.color.getLsbD 0, tslot := s.slot }
              let t := s.post m
              .ok (t.setMe { t.me with
                act := { s.act with unanswered := s.act.unanswered + 1, chsets := s.act.chsets + 1 } })

def execChset (s : State) : Host.Outcome State Fault Refusal := s.run s.chsetRes

/-- Sources of a record read by CHBIND or LAUNCH: POISON traps (R323, R327). -/
def State.readRecord (s : State) (a : Reg) (n : Nat) : Res (State × List Byte × List LSrc) :=
  match s.load .rd a.val n with
  | .error e => .error e
  | .ok (t, bytes, tags) => if t.anyPoison tags then trapped .poison a.val else .ok (t, bytes, tags)

def State.chbindRes (s : State) : Res State :=
  let a := s.act.rd s.ir.a
  let b := s.opB
  match s.regs (.s s.ir.d.toNat :: .s s.ir.a.toNat :: s.ir.bRU) with
  | .error e => .error e
  | .ok _ =>
    match s.asMarker with
    | .error e => .error e
    | .ok _ =>
      match s.noPoison [a, b] with
      | .error e => .error e
      | .ok _ =>
        if (b.val &&& ~~~0x13FFF) != 0 || 9215 < b.val.toNat % 2 ^ 14 then trapped .bounds b.val
        else if a.val.toNat % 32 != 0 then trapped .alignatom a.val
        else
          match s.readRecord a 32 with
          | .error e => .error e
          | .ok (t, bytes, _) =>
            let r : Line := BitVec.ofNat 512 (ofBytes bytes)
            let chan := r.toNat / 2 ^ 64 % 64
            if !s.act.sup && 56 ≤ chan then trapped .priv s.rawVal
            else if !s.act.sup && !s.inSub s.slot (b.val.toNat % 2 ^ 14) then trapped .prot b.val
            else .error (.final (t.park (.chbind r b.val s.ir.d) s.npc))

def execChbind (s : State) : Host.Outcome State Fault Refusal := s.run s.chbindRes

/-- The fields of a binding record (R322). -/
structure BindRec where
  entry : Word
  chan : BitVec 6
  prio : BitVec 3
  auto : Bool
  contig : Bool
  hold : Bool
  rbase : Nat
  rsize : Nat
  region : Nat
  rgsize : Nat
  launch : Word
  rsv : Bool
  deriving DecidableEq, Repr

def bindRec (r : Line) : BindRec :=
  let n := r.toNat
  { entry := BitVec.ofNat 64 n, chan := BitVec.ofNat 6 (n / 2 ^ 64), prio := BitVec.ofNat 3 (n / 2 ^ 70), auto := r.getLsbD 73,
    contig := r.getLsbD 74, hold := r.getLsbD 75, rbase := n / 2 ^ 128 % 2 ^ 18, rsize := n / 2 ^ 146 % 2 ^ 14,
    region := n / 2 ^ 160 % 2 ^ 18, rgsize := n / 2 ^ 178 % 2 ^ 14, launch := BitVec.ofNat 64 (n / 2 ^ 192), rsv := n / 2 ^ 76 % 2 ^ 52 != 0 }

/-- FORMAT of R323; an unbinding record has every field but CHAN zero (R322). -/
def BindRec.malformed (b : BindRec) (r : Line) : Bool :=
  if b.entry = 0 then (r &&& ~~~ ((63 : Line) <<< 64)) != 0
  else b.rsv || (b.entry &&& 3) != 0 || (b.entry >>> 60) != 0 || b.rsize < 2 || 8192 < b.rsize || b.rbase % 32 != 0
    || 8192 < b.rgsize || ((b.rgsize == 0) != (b.region == 0))

/-- The status and the entry after a CHBIND (R323). -/
def bindChan (c : Nat) (size : Nat) (cls : Bool) (r : Line) (ch : Chan) : Word × Chan :=
  let b := bindRec r
  let rb := BitVec.ofNat 21 (c % 8 * 2 ^ 18 + b.rbase)
  if b.malformed r then (3, ch)
  else if b.entry = 0 then
    if ch.pend != 0 || ch.act then (1, ch) else (0, { ch with bound := false, en := false })
  else if ch.bound && (ch.act || !ch.hold) then (1, ch)
  else if size < b.rbase + b.rsize * 32 || (b.region != 0 && size < b.region + b.rgsize * 32)
      || (ch.pend != 0 && (ch.rbase != rb || ch.rsize.toNat != b.rsize)) then (2, ch)
  else
    let c1 := { ch with
      entry := b.entry, prio := b.prio, auto := b.auto, contig := b.contig, hold := b.hold, rep := cls, bound := true, en := true
      ready := false, level := 0, lve := b.launch != 0, rbase := rb, rsize := BitVec.ofNat 14 b.rsize
      region := if b.region = 0 then 0 else BitVec.ofNat 21 (c % 8 * 2 ^ 18 + b.region), rgsize := BitVec.ofNat 14 b.rgsize }
    if ch.pend = 0 && (ch.rbase != rb || ch.rsize.toNat != b.rsize || !ch.bound) then
      (0, { c1 with rhead := 0, rtail := 0, used := 0, recs := [] })
    else (0, c1)

/-- A CHBIND reaches its target core and returns its status (R323). -/
def execChbindApply (s : State) : Host.Outcome State Fault Refusal :=
  .next (match s.parkedAt s.arg.n s.arg.m with
    | some a => match a.park with
      | some (.chbind r b d) =>
        let c := b.toNat % 2 ^ 14
        let k := s.core c
        let i := (bindRec r).chan
        if (s.cluster (c / 8)).gated then s
        else
          let x := bindChan c k.scratchSize (b.getLsbD 16) r (k.chans[i.toNat]'i.isLt)
          (((s.setCore c { k with chans := k.chans.set i.toNat x.2 i.isLt }).yieldQ c i).resume s.arg.n s.arg.m (some (d, x.1)) none).dispatch c
      | _ => s
    | none => s)

/-! ### Watch words (R324, R325) -/

def State.watchRes (s : State) : Res State :=
  let a := s.act.rd s.ir.a
  let b := s.opB
  match s.regs (.s s.ir.d.toNat :: .s s.ir.a.toNat :: s.ir.bRU) with
  | .error e => .error e
  | .ok _ =>
    match s.asMarker with
    | .error e => .error e
    | .ok _ =>
      match s.notPoison a with
      | .error e => .error e
      | .ok _ =>
        if 63 < b.val.toNat then trapped .bounds b.val
        else match aligned a.val 8 with
          | .error e => .error e
          | .ok _ =>
            match s.resolve s.cur s.act.sup .rd a.val with
            | .error (c, v) => .error (.access a.val c v)
            | .ok key =>
              if isHost key || isCtl key then .error (.access a.val .prot a.val)
              else match s.walked a.val with
                | .error e => .error e
                | .ok t => .error (.final (t.park (.watch a.val (b.val.setWidth 6) key s.ir.d) s.npc))

def execWatch (s : State) : Host.Outcome State Fault Refusal := s.run s.watchRes

/-- The slot that a watch takes: that of the same address, else the lowest free one. -/
def watchSlot (w : FMap (Word × BitVec 6 × Nat)) (x : Word) : Option Nat :=
  match w.find? (fun p => p.2.1 == x) with
  | some p => some p.1
  | none => (List.range 16).find? (fun i => (fget w i).isNone)

/-- The home of the word has registered the watch (R324). -/
def execWatchRegistered (s : State) : Host.Outcome State Fault Refusal :=
  .next (match s.parkedAt s.arg.n s.arg.m with
    | some a => match a.park with
      | some (.watch x ch key d) =>
        let k := s.core s.arg.n
        match watchSlot k.watches x with
        | some i => (s.setCore s.arg.n { k with watches := fset k.watches i (x, ch, key) }).resume s.arg.n s.arg.m
            (some (d, BitVec.ofNat 64 i)) none
        | none => s.resume s.arg.n s.arg.m (some (d, BitVec.allOnes 64)) none
      | _ => s
    | none => s)

def execUnwatch (s : State) : Host.Outcome State Fault Refusal :=
  let a := s.act.rd s.ir.a
  s.run (match s.regs [.s s.ir.d.toNat, .s s.ir.a.toNat] with
    | .error e => .error e
    | .ok _ =>
      match s.asMarker with
      | .error e => .error e
      | .ok _ =>
        match s.notPoison a with
        | .error e => .error e
        | .ok _ =>
          match s.me.watches.find? (fun p => p.2.1 == a.val) with
          | none => .ok (s.status 1)
          | some p => .ok ((s.setMe { s.me with watches := ferase s.me.watches p.1 }).status 0))

/-! ### What happens to a message (R299 to R301, R305, R379) -/

/-- Hardware writes one unit of a ring with its two tags; they are interned already (R299). -/
def State.writeUnit (s : State) (key : Nat) (bytes : List Byte) (t0 t1 : Handle) : State :=
  ((s.wrBytes false key bytes).setTagH false key t0).setTagH false (key + 16) t1

def State.writeUnits (s : State) (c : Nat) (ch : Chan) (h : Handle) : Nat → Nat → List Byte → State
  | 0, _, _ => s
  | n + 1, u, bytes => (s.writeUnit (ringKey c ch u) (bytes.take 32) h h).writeUnits c ch h n (u + 1) (bytes.drop 32)

/-- A message counted to a cancelled counter is discarded (R306); one that reports an unbound message frees the entry (R301). -/
def State.discardMsg (s : State) (m : Msg) : State :=
  ((((s.countIn m).answer m 0).lost m).freeUnbound m.core m.ubuf)

/-- Activations that sleep until a message wake (R334). -/
def State.wakeSleepers (s : State) (c : Nat) : State :=
  ((s.core c).parked.filter (fun a => match a.park with | some (.sleepMsg _) => true | _ => false)).foldl
    (fun s a => s.resume c a.slot none none) s

/-- Where a record of some units goes in a ring: none while it must wait; the unit and the pad before it (R299). -/
def Chan.place (ch : Chan) (units : Nat) : Option (Nat × Nat) :=
  let size := ch.rsize.toNat
  let free := size - ch.used
  let toEnd := size - ch.rhead.toNat
  if free < units then none
  else if units ≤ toEnd || !ch.contig then some (ch.rhead.toNat, 0)
  else if toEnd + units ≤ free then some (0, toEnd) else none

/-- The counter that an accepted message counts to: its identity, whether it raises it, and its home. -/
structure Counted where
  ctr : BitVec 16 := 0
  raised : Bool := false
  slot : Nat := 0
  home : Option Nat := none
  deriving DecidableEq, Repr

/-- What an accepted message counts to (R305); none when it is discarded (R306). The state of a counter of another module is a free
value (0 OPEN, 1 ZERO, 2 CANCELLED), and the raise is that module's (log 34). -/
def State.countOf (s : State) (m : Msg) (ch : Chan) : Option Counted :=
  if m.start || m.succ then
    if m.ctr != 0 && m.home.isNone && (s.counterOr m.tslot m.ctr.toNat).state = .cancelled then none
    else some ⟨m.ctr, false, m.tslot, m.home⟩
  else if ch.level = 0 then some {}
  else match ch.lhome with
    | some h => match Config.remoteAnswer h ch.level.toNat s.tick % 3 with
      | 0 => some ⟨ch.level, false, ch.lslot, some h⟩
      | 1 => some {}
      | _ => none
    | none => match (s.counterOr ch.lslot ch.level.toNat).state with
      | .open_ => some ⟨ch.level, true, ch.lslot, none⟩
      | .cancelled => none
      | _ => some {}

/-- A pad record and the message's record are written, and the message is accepted (R298, R299, R305). -/
def State.accept (s : State) (m : Msg) (ch : Chan) (h : Handle) (q : Counted) (unit pad : Nat) : State :=
  let c := m.core
  let n := (m.payload.length + 31) / 32
  let s1 := if pad = 0 then s else s.writeUnit (ringKey c ch ch.rhead.toNat) (toBytes 32 (2 ^ 9)) hTRUE hTRUE
  let s2 := s1.writeUnit (ringKey c ch unit) (descriptor m.payload.length m.net.toNat h m q.ctr) h hTRUE
  let s3 := s2.writeUnits c ch h n (unit + 1) m.payload
  let s4 := if q.raised then s3.raiseCounter q.slot q.ctr.toNat 1 m.time else s3
  let k := s4.core c
  let r : Rec := { unit := unit, units := n + 1, pad := pad, len := BitVec.ofNat 9 m.payload.length, lab := h, score := m.score,
                   smod := m.smod, ctr := q.ctr, time := m.time, start := m.start, carve := m.carve, tslot := q.slot, home := q.home,
                   gang := m.gang, launch := if m.start then m.launch else if q.home.isNone then (s.counterOr q.slot q.ctr.toNat).launch else if m.succ then 0 else ch.llaunch
                   ubuf := m.ubuf }
  let lve := m.start && ch.lve
  let ch1 := { ch with
    pend := ch.pend + 1, used := ch.used + n + 1 + pad, rhead := BitVec.ofNat 14 ((unit + n + 1) % Nat.max ch.rsize.toNat 1)
    level := if lve then m.ctr else ch.level, lslot := if lve then m.tslot else ch.lslot, lhome := if lve then m.home else ch.lhome
    llaunch := if lve then m.launch else ch.llaunch
    recs := ch.recs ++ [r] }
  let s5 := s4.setCore c { k with chans := k.chans.set m.chan.toNat ch1 m.chan.isLt, accepted := k.accepted + 1 }
  ((((s5.countIn m).answer m 0).yieldQ c m.chan).wakeSleepers c).dispatch c

/-- A message meets a bound and enabled channel: it is placed, waits at the router input, or is dropped (R299). -/
def State.offer (s : State) (m : Msg) (ch : Chan) : State :=
  let units := 1 + (m.payload.length + 31) / 32
  if ch.rsize.toNat < units then s.turnBack m 2
  else match s.countOf m ch with
    | none => s.discardMsg m
    | some q =>
      match ch.place units with
      | none => { s with waiting := s.waiting ++ [m] }
      | some (unit, pad) =>
        let k := m.core / 8
        let slot := (s.core m.core).tslot.toNat
        match tintern cltSize (s.cluster k).clt slot (s.arrive slot (dieOf k) m.lab) with
        | none => s.turnBack m 1
        | some (t, h) => (if fixedHandle h then s else s.setCluster k { s.cluster k with clt := t }).accept m ch h q unit pad

/-- A router or core of another slot, a closed Shutter, an invalid alias, a job-mode sender (R301, R379, R396). -/
def State.turnedAway (s : State) (m : Msg) : Bool :=
  m.badAlias || s.shuttered m.core || (!m.sup && (decide (56 ≤ m.chan.toNat) || m.tslot != (s.core m.core).tslot.toNat))

/-- The report of an unbound message to channel 63 (R301), of the colour of its cause (R362). -/
def State.unboundReport (s : State) (m : Msg) (h : Handle) (e : Nat) : Msg :=
  { s.hwMsg m.core 63 (descriptor m.payload.length m.net.toNat h m m.ctr ++ [0x0B, BitVec.ofNat 8 e, m.chan.setWidth 8] ++ List.replicate 29 0)
      (tmax (s.cluster (m.core / 8)).ltime m.time) with ubuf := some e, color := m.color }

/-- A message reaches its core (R299, R301). A report to channel 63 that is refused frees the entry it reports. -/
def State.deliver (s : State) (m : Msg) : State :=
  let k := s.core m.core
  let ch := k.chans[m.chan.toNat]'m.chan.isLt
  let s1 := if m.watch then s.wakeSleepers m.core else s
  if s.turnedAway m then s1.turnBack m 1
  else if ch.bound then
    if !ch.en || (m.net != 2 && (m.net == 1) != ch.rep) then s1.turnBack m 1 else s1.offer m ch
  else if m.ubuf.isSome then s1.turnBack m 1
  else
    let slot := k.tslot.toNat
    match (List.range 4).find? (fun e => (fget k.unbound e).isNone) with
    | none => s1.refuse m 1
    | some e =>
      if !(k.chans[63]'(by decide)).bound then s1.refuse m 1
      else match tintern cltSize (s.cluster (m.core / 8)).clt slot (s.arrive slot (dieOf (m.core / 8)) m.lab) with
        | none => s1.refuse m 1
        | some (t, h) =>
          let s2 := if fixedHandle h then s1 else s1.setCluster (m.core / 8) { s1.cluster (m.core / 8) with clt := tref t h }
          let s3 := s2.countIn m
          (s3.setCore m.core { s3.core m.core with unbound := fset (s3.core m.core).unbound e ({ m with counted := true }, h) }).post
            (s3.unboundReport m h e)

/-- An earlier message of the same sender to the same channel of the same core (R250, R309). -/
def Msg.after (m x : Msg) : Bool :=
  x.via == m.via && x.poster == m.poster && x.smod == m.smod && x.score == m.score && x.core == m.core && x.dmod == m.dmod && x.chan == m.chan
    && decide (x.seq < m.seq)

/-- An earlier message of the same core and network to the same core, whose record waits there and holds the buffer (R371). -/
def Msg.behind (m x : Msg) : Bool :=
  x.via == m.via && x.poster == m.poster && x.smod == m.smod && x.score == m.score && x.core == m.core && x.dmod == m.dmod && x.net == m.net
    && decide (x.seq < m.seq)

/-- Whether a message would overtake: an earlier one of its sender to its channel, one that holds its buffer, or, from another module, an
earlier one of that module in its lane (R250, R263, R309, R371). -/
def State.overtakes (s : State) (m : Msg) : Bool :=
  let inLane (x : Msg) : Bool := m.via.isSome && x.via == m.via && laneOf x.core == laneOf m.core && decide (x.seq < m.seq)
  s.net.any (fun x => m.after x || inLane x) || s.waiting.any (fun x => m.after x || m.behind x)
    || (m.via.isNone && ((s.core m.score.toNat).sendReq.any m.after || (s.core m.score.toNat).sendRep.any m.after))

/-- Whether a message under way will wait at its core: the records of its sender on the way to its channel, it included, have more units
than are free (R299). -/
def State.willWait (s : State) (m : Msg) : Bool :=
  let ch := (s.core m.core).chans[m.chan.toNat]'m.chan.isLt
  let units (x : Msg) : Nat := 1 + (x.payload.length + 31) / 32
  m.dmod == s.plant.modId && ch.bound && ch.en && decide (units m ≤ ch.rsize.toNat)
    && ((ch.place (units m)).isNone
      || decide (ch.rsize.toNat - ch.used < (((s.net.filter m.after).map units).sum + units m)))

/-- Whether a message must stay in its queue: one of its core and network waits for its record's place, or is on its way to where it will
wait (R371; DEDUCED, log 60). -/
def State.heldBack (s : State) (m : Msg) : Bool :=
  let same (x : Msg) : Bool := x.net == m.net && x.via.isNone && x.poster.isNone && x.score == m.score
  s.waiting.any same || s.net.any (fun x => same x && s.willWait x)

/-! ### The way through the mesh (R307, R379, R424) -/

/-- The routers from cluster a to cluster b, both included: along x to the column of b, then along y (R307). -/
def xyPath (a b : Nat) : List Nat :=
  let line (f : Nat → Nat) (p q : Nat) : List Nat :=
    if p ≤ q then (List.range (q - p)).map (fun i => f (p + i)) else (List.range (p - q)).map (fun i => f (p - i))
  line (fun x => a / 48 * 48 + x) (a % 48) (b % 48) ++ line (fun y => y * 48 + b % 48) (a / 48) (b / 48) ++ [b]

/-- The routers that a message of this module passes; of one that a fabric port took in, the last alone (log 60). -/
def Msg.path (m : Msg) : List Nat :=
  if m.via.isSome then [m.core / 8] else xyPath (m.sentAt / 8) (m.core / 8)

/-- The first router of its way that does not pass a message (R379). -/
def State.dropsAt (s : State) (m : Msg) : Option Nat :=
  if m.sup || m.badAlias then none else m.path.find? (fun k => !s.inSub m.tslot (8 * k))

/-- The flits of a message: header, payload, label extension (R307). -/
def Msg.flits (m : Msg) : Nat :=
  1 + (m.payload.length + 31) / 32 + (match m.lab with | some l => if l = [0] then 0 else (l.length + 3) / 4 | none => 0)

/-- Flits leave a router by a port: 0 N, 1 E, 2 S, 3 W, 4 local, on virtual channel 0 of a network (R307, R424). -/
def State.countLink (s : State) (k port net n : Nat) : State :=
  if (s.cluster k).gated then s
  else
    let i := ((k * 5 + port) * 3 + net) * 2
    let w := (fget s.plant.links i).getD 0
    { s with plant := { s.plant with links := fset s.plant.links i (BitVec.ofNat 64 (w.toNat / 2 ^ 32 * 2 ^ 32 + (w.toNat + n) % 2 ^ 32)) } }
/-- The port from a router to its neighbour; rows rise to the south (log 60). -/
def hopPort (a b : Nat) : Nat := if b = a + 1 then 1 else if a = b + 1 then 3 else if a < b then 2 else 0
def State.countWay (s : State) (net n : Nat) : List Nat → State
  | [] => s
  | [k] => s.countLink k 4 net n
  | k :: j :: l => (s.countLink k (hopPort k j) net n).countWay net n (j :: l)

/-- A router drops a message: its flits are counted there, and the sender gets a refusal (R378, R379). -/
def State.routerDrop (s : State) (k : Nat) (m : Msg) : State :=
  let n := ((fget s.plant.drops k).getD 0).toNat
  ({ s with plant := { s.plant with drops := fset s.plant.drops k (BitVec.ofNat 16 (Nat.min 0xFFFF (n + m.flits))) } }.countIn m |>.answer m 1).lost m

/-- Message i of a list, with the rest. -/
def takeAt {α : Type} (l : List α) (i : Nat) : Option (α × List α) := (l[i]?).map (fun m => (m, l.eraseIdx i))

/-- A message for another module leaves through a fabric port, where a cut counts it as received; the answer comes as the event
says (R300, R362, R406). A tenant without a DTID sends nothing there (R376): its message is refused (log 40). -/
def State.abroad (s : State) (m : Msg) (kind : Nat) : State :=
  let s1 := s.setCore m.sentAt ((s.core m.sentAt).countRecv m.color)
  let barred := m.tslot != 0 && s.dtid m.tslot == 0
  let kind := if barred || s.deadModule m.dmod.toNat || !Config.inDomain m.dmod.toNat then 1 else kind
  let s2 := (if barred then s1 else s1.noteTraffic (keyRemote m.dmod.toNat 0) m.tslot).answer m kind
  if kind = 0 then s2
  else if (m.start || m.succ) && m.ctr != 0 then s2.lowerCounter m.tslot m.ctr.toNat m.time m.color 4 else s2

/-- Message n of the networks arrives (R299, R301). For another module, k is the kind of its answer: 0 accepted, 1 refused,
2 dropped as too large. -/
def execMessageArrival (s : State) : Host.Outcome State Fault Refusal :=
  .next (match takeAt s.net s.arg.n with
    | none => s
    | some (m, l) =>
      if m.chset.isSome || s.overtakes m then s
      else
        let s1 := { s with net := l }
        if m.dmod != s.plant.modId then s1.abroad m s.arg.k
        else match s.dropsAt m with
          | some k => s1.routerDrop k m
          | none => (s1.countWay m.net.toNat m.flits m.path).deliver m)

/-- Message n that waits at a router input is placed once its ring has room (R299). -/
def execRecordPlaced (s : State) : Host.Outcome State Fault Refusal :=
  .next (match takeAt s.waiting s.arg.n with
    | none => s
    | some (m, l) =>
      let ch := (s.core m.core).chans[m.chan.toNat]'m.chan.isLt
      if (s.waiting.take s.arg.n).any (fun x => x.core == m.core && x.chan == m.chan) then s
      else if ch.bound && (ch.place (1 + (m.payload.length + 31) / 32)).isNone && (s.countOf m ch).isSome then s
      else { s with waiting := l }.deliver m)

/-- The head of queue m (0 REQ, 1 REP) of core n enters the router (R308), unless a record of that core holds it back (R371). -/
def execMessageLeavesQueue (s : State) : Host.Outcome State Fault Refusal :=
  let k := s.core s.arg.n
  let rep := s.arg.m != 0
  .next (match (if rep then k.sendRep else k.sendReq) with
    | [] => s
    | m :: l =>
      if s.heldBack m then s
      else (s.setCore s.arg.n { k with stalled := false, sendReq := if rep then k.sendReq else l, sendRep := if rep then l else k.sendRep }).toNet m)

/-- Answer n reaches the sending core (R300, R305, R321). -/
def execMessageAnswer (s : State) : Host.Outcome State Fault Refusal :=
  .next (match takeAt s.answers s.arg.n with
    | none => s
    | some (w, l) =>
      let k := s.core w.core
      let cnt := if w.kind = 1 then bump k.msgcnt 0 else if w.kind = 2 then bump k.msgcnt 1 else k.msgcnt
      let s1 := { s with answers := l }.setCore w.core { k with msgcnt := cnt, stalled := false }
      match k.residents.find? (fun a => a.aid == w.aid) with
      | none => s1
      | some a =>
        let b := { a with unanswered := a.unanswered - 1, chsets := a.chsets - (if w.chset then 1 else 0) }
        let s2 := s1.setCore w.core ((s1.core w.core).putSlot a.slot b)
        if b.unanswered = 0 && b.park = some .answers then s2.endParked w.core b else s2)

/-- The armed wake of queue m of core n fires (R308, R430). -/
def execSqwakeWake (s : State) : Host.Outcome State Fault Refusal :=
  let k := s.core s.arg.n
  let sh := if s.arg.m = 0 then 0 else 16
  let w := k.sqwake >>> sh
  let len := (if s.arg.m = 0 then k.sendReq else k.sendRep).length
  .next (if w.getLsbD 6 && len ≤ w.toNat / 2 ^ 8 % 8 then
    (s.setCore s.arg.n { k with sqwake := k.sqwake &&& ~~~ ((0x40 : Word) <<< sh) }).post
      (s.hwMsg s.arg.n (w.setWidth 6) [] (s.cluster (s.arg.n / 8)).ltime)
  else s)

/-- Channel m of core n yields an activation, which is queued (R298, R302). A change of the entry that lets it yield makes it
yield at once; this is the same on an entry as it stands. -/
def execChannelYield (s : State) : Host.Outcome State Fault Refusal := .next (s.yieldAt s.arg.n (BitVec.ofNat 6 s.arg.m))

/-- A ready activation of core n that has waited AGEUS in its level rises one (R303): the resident in slot m, or, with the
flag, the queued one of channel m. -/
def execAgeing (s : State) : Host.Outcome State Fault Refusal :=
  let k := s.core s.arg.n
  let due (since : Word) (lv : BitVec 3) : Bool :=
    k.age != 0 && decide (k.age.toNat * Config.cyclesPerUs ≤ (s.clock - since).toNat) && lv != 7
  .next (if s.arg.flag then
      s.setCore s.arg.n { k with queue := k.queue.map (fun q =>
        if q.chan.toNat == s.arg.m && due q.since q.level then { q with level := q.level + 1, since := s.clock } else q) }
    else
      s.setCore s.arg.n { k with ready := k.ready.map (fun a =>
        if a.slot == s.arg.m && due a.readyAt a.level then { a with level := a.level + 1, readyAt := s.clock } else a) })

/-- The bits of a CHSET on an entry (R298, R321). -/
def Chan.chset (ch : Chan) (op : BitVec 6) : Chan :=
  if !ch.bound then ch
  else
    let f (old : Bool) (i : Nat) : Bool := (old || op.getLsbD i) && !op.getLsbD (i + 1)
    { ch with ready := f ch.ready 0, hold := f ch.hold 2, en := f ch.en 4 }

/-- CHSET n of the networks is applied at its channel and answered (R321). -/
def execChsetApply (s : State) : Host.Outcome State Fault Refusal :=
  .next (match takeAt s.net s.arg.n with
    | none => s
    | some (m, l) =>
      match m.chset with
      | none => s
      | some op =>
        if s.overtakes m then s
        else
          let s1 := { s with net := l }
          if m.dmod != s.plant.modId then s1.abroad m s.arg.k
          else if (s.dropsAt m).isSome then s1.routerDrop ((s.dropsAt m).getD 0) m
          else if s.turnedAway m then s1.refuse m 1
          else
            let k := s.core m.core
            (((s1.setCore m.core { k with chans := k.chans.set m.chan.toNat ((k.chans[m.chan.toNat]'m.chan.isLt).chset op) m.chan.isLt }).countIn m |>.answer m 0)).yieldAt
              m.core m.chan)

end Sys2Proof.Machine
end

