-- ==== Sys2Proof/Machine/Vector.lean ====
section
/-! DEFINITION. The vector unit (R160 to R169). -/

namespace Sys2Proof.Machine

/-- The governing mask (R68) and its label, which counts when MK is not 0. -/
def State.gmask (s : State) : Word := (s.act.rdM s.ir.k).val
def State.gmaskLab (s : State) : List Handle := if s.ir.k = 0 then [] else [(s.act.rdM s.ir.k).lab]

/-- Products for several places in turn: none keeps the old label. -/
def State.products (s : State) : List (Option (List (List Handle)) × Handle) → Res (State × List Handle × Word)
  | [] => .ok (s, [], 0)
  | (none, old) :: l =>
    match s.products l with
    | .error e => .error e
    | .ok (t, hs, f) => .ok (t, old :: hs, f)
  | (some hs, _) :: l =>
    match s.productG hs with
    | .error e => .error e
    | .ok (t, h, f) =>
      match t.products l with
      | .error e => .error e
      | .ok (u, hs', g) => .ok (u, h :: hs', f ||| g)

/-- A vector result of elements of w bits: which elements are written and with what, and for each quad the factors that the
sources give to its label, Lreg of a register being one factor (R161, R162): sources, then the old label of the quad when VD is read or an element of the quad stays, the mask, CLAB. -/
def State.vWrite (s : State) (ru : List RU) (w : Nat) (written : Nat → Bool) (vals : Nat → Nat)
    (pre : Nat → List (List Handle)) (readsOld : Bool) (mkl : List Handle) (flags : Word) : Res State :=
  let n := 512 / w
  let vd := s.ir.vd
  match s.regs (.v s.ir.d.toNat :: ru) with
  | .error e => .error e
  | .ok _ =>
    match s.freeV vd with
    | .error e => .error e
    | .ok _ =>
      let old := s.act.rdV vd
      let quad (q : Nat) : Option (List (List Handle)) × Handle :=
        let any := (List.range n).any (fun i => quadOf w i == q && written i)
        let all := (List.range n).all (fun i => quadOf w i != q || written i)
        (if any then some (pre q ++ singles ((if readsOld || !all then [old.quadLab q] else []) ++ mkl ++ [s.act.clab])) else none, old.quadLab q)
      match s.products [quad 0, quad 1, quad 2, quad 3] with
      | .error e => .error e
      | .ok (t, ls, lf) =>
        let v := vOf w ((List.range n).map (fun i => if written i then vals i else vElem old.val w i))
        .ok ((t.writeV vd (VReg.ofLabs v ls)).orFlags (flags ||| lf))

/-! ### Element-wise operations (R161, R163, R164) -/

/-- Flags of the active elements (R160). -/
def orActive (mask : Word) (n : Nat) (f : Nat → Word) : Word :=
  (List.range n).foldl (fun a i => if mask.getLsbD i then a ||| f i else a) 0

def State.vElt2 (s : State) (w : Nat) (f : Nat → Nat → Nat × Word) : Res State :=
  let a := s.act.rdV s.ir.va
  let b := s.act.rdV s.ir.vb
  let g := fun i => f (vElem a.val w i) (vElem b.val w i)
  s.vWrite [.v s.ir.a.toNat, .v s.ir.b.toNat] w (fun i => s.gmask.getLsbD i) (fun i => (g i).1)
    (fun q => [[a.quadLab q], [b.quadLab q]]) false s.gmaskLab (orActive s.gmask (512 / w) (fun i => (g i).2))

def State.vElt1 (s : State) (w : Nat) (f : Nat → Nat × Word) : Res State :=
  let a := s.act.rdV s.ir.va
  let g := fun i => f (vElem a.val w i)
  s.vWrite [.v s.ir.a.toNat] w (fun i => s.gmask.getLsbD i) (fun i => (g i).1)
    (fun q => [[a.quadLab q]]) false s.gmaskLab (orActive s.gmask (512 / w) (fun i => (g i).2))

/-- VD is read as the addend (R164). -/
def State.vElt3 (s : State) (w : Nat) (f : Nat → Nat → Nat → Nat × Word) : Res State :=
  let a := s.act.rdV s.ir.va
  let b := s.act.rdV s.ir.vb
  let d := s.act.rdV s.ir.vd
  let g := fun i => f (vElem a.val w i) (vElem b.val w i) (vElem d.val w i)
  s.vWrite [.v s.ir.a.toNat, .v s.ir.b.toNat] w (fun i => s.gmask.getLsbD i) (fun i => (g i).1)
    (fun q => [[a.quadLab q], [b.quadLab q]]) true s.gmaskLab (orActive s.gmask (512 / w) (fun i => (g i).2))

/-- An integer function of w-bit elements, without flags (R149, R163). -/
def vInt2 (w : Nat) (f : BitVec w → BitVec w → BitVec w) (x y : Nat) : Nat × Word := ((f (BitVec.ofNat w x) (BitVec.ofNat w y)).toNat, 0)
def vInt1 (w : Nat) (f : BitVec w → BitVec w) (x : Nat) : Nat × Word := ((f (BitVec.ofNat w x)).toNat, 0)

/-- A signed value held within w bits (R163). -/
def satInt (w : Nat) (v : Int) : BitVec w :=
  BitVec.ofInt w (if v < -(2 ^ (w - 1) : Int) then -(2 ^ (w - 1) : Int) else if (2 ^ (w - 1) : Int) - 1 < v then (2 ^ (w - 1) : Int) - 1 else v)

def State.ewI (s : State) : Nat := ewBits s.ir.ew
/-- The format of EW and its width (R68). -/
def State.ewF (s : State) : WFmt := fmtOf (fmtUp s.ir.ew)

def execVadd (s : State) : Host.Outcome State Fault Refusal := s.run (s.vElt2 s.ewI (vInt2 s.ewI (fun a b => a + b)))
def execVsub (s : State) : Host.Outcome State Fault Refusal := s.run (s.vElt2 s.ewI (vInt2 s.ewI (fun a b => a - b)))
def execVmul (s : State) : Host.Outcome State Fault Refusal := s.run (s.vElt2 s.ewI (vInt2 s.ewI (fun a b => a * b)))
def execVmulh (s : State) : Host.Outcome State Fault Refusal := s.run (s.vElt2 s.ewI (vInt2 s.ewI (fun a b => aluMulh a b)))
def execVmin (s : State) : Host.Outcome State Fault Refusal := s.run (s.vElt2 s.ewI (vInt2 s.ewI (fun a b => aluMin a b)))
def execVmax (s : State) : Host.Outcome State Fault Refusal := s.run (s.vElt2 s.ewI (vInt2 s.ewI (fun a b => aluMax a b)))
def execVminu (s : State) : Host.Outcome State Fault Refusal := s.run (s.vElt2 s.ewI (vInt2 s.ewI (fun a b => aluMinu a b)))
def execVmaxu (s : State) : Host.Outcome State Fault Refusal := s.run (s.vElt2 s.ewI (vInt2 s.ewI (fun a b => aluMaxu a b)))
def execVand (s : State) : Host.Outcome State Fault Refusal := s.run (s.vElt2 s.ewI (vInt2 s.ewI (fun a b => a &&& b)))
def execVor (s : State) : Host.Outcome State Fault Refusal := s.run (s.vElt2 s.ewI (vInt2 s.ewI (fun a b => a ||| b)))
def execVxor (s : State) : Host.Outcome State Fault Refusal := s.run (s.vElt2 s.ewI (vInt2 s.ewI (fun a b => a ^^^ b)))
def execVshl (s : State) : Host.Outcome State Fault Refusal := s.run (s.vElt2 s.ewI (vInt2 s.ewI (fun a b => aluShl a b)))
def execVshr (s : State) : Host.Outcome State Fault Refusal := s.run (s.vElt2 s.ewI (vInt2 s.ewI (fun a b => aluShr a b)))
def execVsra (s : State) : Host.Outcome State Fault Refusal := s.run (s.vElt2 s.ewI (vInt2 s.ewI (fun a b => aluSra a b)))
def execVadds (s : State) : Host.Outcome State Fault Refusal := s.run (s.vElt2 s.ewI (vInt2 s.ewI (fun a b => satInt _ (a.toInt + b.toInt))))
def execVsubs (s : State) : Host.Outcome State Fault Refusal := s.run (s.vElt2 s.ewI (vInt2 s.ewI (fun a b => satInt _ (a.toInt - b.toInt))))
def execVabs (s : State) : Host.Outcome State Fault Refusal := s.run (s.vElt1 s.ewI (vInt1 s.ewI (fun a => if a.msb then -a else a)))
def execVneg (s : State) : Host.Outcome State Fault Refusal := s.run (s.vElt1 s.ewI (vInt1 s.ewI (fun a => -a)))
def execVfadd (s : State) : Host.Outcome State Fault Refusal := s.run (s.vElt2 s.ewF.width (s.ewF.add s.rmArith))
def execVfsub (s : State) : Host.Outcome State Fault Refusal := s.run (s.vElt2 s.ewF.width (s.ewF.sub s.rmArith))
def execVfmul (s : State) : Host.Outcome State Fault Refusal := s.run (s.vElt2 s.ewF.width (s.ewF.mul s.rmArith))
def execVfdiv (s : State) : Host.Outcome State Fault Refusal := s.run (s.vElt2 s.ewF.width (s.ewF.div s.rmArith))
def execVfsqrt (s : State) : Host.Outcome State Fault Refusal := s.run (s.vElt1 s.ewF.width (s.ewF.sqrt s.rmArith))
def execVfmin (s : State) : Host.Outcome State Fault Refusal := s.run (s.vElt2 s.ewF.width (s.ewF.minmax false))
def execVfmax (s : State) : Host.Outcome State Fault Refusal := s.run (s.vElt2 s.ewF.width (s.ewF.minmax true))
def execVfma (s : State) : Host.Outcome State Fault Refusal := s.run (s.vElt3 s.ewF.width (s.ewF.fma s.rmArith false false))
def execVfms (s : State) : Host.Outcome State Fault Refusal := s.run (s.vElt3 s.ewF.width (s.ewF.fma s.rmArith false true))
def execVfnma (s : State) : Host.Outcome State Fault Refusal := s.run (s.vElt3 s.ewF.width (s.ewF.fma s.rmArith true true))
def execVfrece (s : State) : Host.Outcome State Fault Refusal := s.run (s.vElt1 s.ewF.width s.ewF.frece)
def execVfrsqe (s : State) : Host.Outcome State Fault Refusal := s.run (s.vElt1 s.ewF.width s.ewF.frsqe)
def execVfabs (s : State) : Host.Outcome State Fault Refusal := s.run (s.vElt1 s.ewF.width (fun x => (x % s.ewF.signBit, 0)))
def execVfneg (s : State) : Host.Outcome State Fault Refusal := s.run (s.vElt1 s.ewF.width (fun x => ((x + s.ewF.signBit) % 2 ^ s.ewF.width, 0)))

/-! ### Compares (R165) -/

/-- The condition of VCMP on element i, by FN (R165). -/
def State.vCond (s : State) (i : Nat) : Bool × Word :=
  let a := s.act.rdV s.ir.va
  let b := s.act.rdV s.ir.vb
  let w := s.ewI
  let x := BitVec.ofNat w (vElem a.val w i)
  let y := BitVec.ofNat w (vElem b.val w i)
  let f := s.ewF
  let fx := vElem a.val f.width i
  let fy := vElem b.val f.width i
  match s.ir.md.toNat with
  | 0 => (x == y, 0)
  | 1 => (x != y, 0)
  | 2 => (x.slt y, 0)
  | 3 => (!y.slt x, 0)
  | 4 => (x.ult y, 0)
  | 5 => (!y.ult x, 0)
  | 6 => f.compare 0 fx fy
  | 7 => f.compare 1 fx fy
  | 8 => f.compare 2 fx fy
  | _ => f.compare 3 fx fy

/-- Elements of a VCMP: those of the integer or of the floating-point width. -/
def State.vCmpN (s : State) : Nat := if s.ir.md.toNat < 6 then 512 / s.ewI else 512 / s.ewF.width

/-- The mask whose bit i is given for the elements below n. -/
def maskOf (n : Nat) (f : Nat → Bool) : Word :=
  BitVec.ofNat 64 ((List.range n).foldl (fun a i => if f i then a + 2 ^ i else a) 0)

def execVcmp (s : State) : Host.Outcome State Fault Refusal :=
  s.run (match s.regs [.v s.ir.a.toNat, .v s.ir.b.toNat] with
    | .error e => .error e
    | .ok _ =>
      match s.productG ([(s.act.rdV s.ir.va).labs, (s.act.rdV s.ir.vb).labs] ++ singles (s.gmaskLab ++ [s.act.clab])) with
      | .error e => .error e
      | .ok (t, l, lf) =>
        let v := maskOf s.vCmpN (fun i => s.gmask.getLsbD i && (s.vCond i).1)
        .ok ((t.writeM s.ir.kd v l).orFlags (lf ||| orActive s.gmask s.vCmpN (fun i => (s.vCond i).2))))

/-! ### Moves (R166) -/

/-- A cross-element result of the vector sources VA and VB (R162). -/
def State.vCross (s : State) (vals : Nat → Nat) : Res State :=
  let a := s.act.rdV s.ir.va
  let b := s.act.rdV s.ir.vb
  s.vWrite [.v s.ir.a.toNat, .v s.ir.b.toNat] s.ewI (fun i => s.gmask.getLsbD i) vals (fun _ => [a.labs, b.labs]) false s.gmaskLab 0

def execVsel (s : State) : Host.Outcome State Fault Refusal :=
  let a := s.act.rdV s.ir.va
  let b := s.act.rdV s.ir.vb
  s.run (s.vWrite [.v s.ir.a.toNat, .v s.ir.b.toNat] s.ewI (fun _ => true)
    (fun i => if s.gmask.getLsbD i then vElem a.val s.ewI i else vElem b.val s.ewI i)
    (fun q => [[a.quadLab q], [b.quadLab q]]) false s.gmaskLab 0)

def execVperm (s : State) : Host.Outcome State Fault Refusal :=
  let a := (s.act.rdV s.ir.va).val
  let b := (s.act.rdV s.ir.vb).val
  s.run (s.vCross (fun i => if vElem b s.ewI i < 512 / s.ewI then vElem a s.ewI (vElem b s.ewI i) else 0))

def execVslideup (s : State) : Host.Outcome State Fault Refusal :=
  let a := (s.act.rdV s.ir.va).val
  let k := vElem (s.act.rdV s.ir.vb).val s.ewI 0
  s.run (s.vCross (fun i => if k ≤ i then vElem a s.ewI (i - k) else 0))

def execVslidedn (s : State) : Host.Outcome State Fault Refusal :=
  let a := (s.act.rdV s.ir.va).val
  let k := vElem (s.act.rdV s.ir.vb).val s.ewI 0
  s.run (s.vCross (fun i => if i + k < 512 / s.ewI then vElem a s.ewI (i + k) else 0))

def execViota (s : State) : Host.Outcome State Fault Refusal :=
  s.run (s.vWrite [] s.ewI (fun _ => true)
    (fun i => ((List.range i).filter (fun j => s.gmask.getLsbD j)).length) (fun _ => []) false s.gmaskLab 0)

def execVcomp (s : State) : Host.Outcome State Fault Refusal :=
  let a := s.act.rdV s.ir.va
  let l := ((List.range (512 / s.ewI)).filter (fun i => s.gmask.getLsbD i)).map (vElem a.val s.ewI)
  s.run (s.vWrite [.v s.ir.a.toNat] s.ewI (fun _ => true) (fun i => l.getD i 0) (fun _ => [a.labs]) false s.gmaskLab 0)

def execVmov (s : State) : Host.Outcome State Fault Refusal := s.run (s.vElt1 s.ewI (fun x => (x, 0)))

/-! ### Reductions (R167) -/

/-- The fold of a reduction over the active elements in increasing order. -/
def redFold (mask : Word) (v : Line) (w : Nat) (f : Nat → Nat → Nat × Word) (x0 : Nat) : Nat × Word :=
  (List.range (512 / w)).foldl (fun r i => if mask.getLsbD i then ((f r.1 (vElem v w i)).1, r.2 ||| (f r.1 (vElem v w i)).2) else r) (x0, 0)

def State.vRed (s : State) (w : Nat) (f : Nat → Nat → Nat × Word) : Res State :=
  let a := s.act.rdV s.ir.va
  let b := s.act.rdV s.ir.vb
  let r := redFold s.gmask a.val w f (vElem b.val w 0)
  s.vWrite [.v s.ir.a.toNat, .v s.ir.b.toNat] w (fun _ => true) (fun i => if i = 0 then r.1 else 0) (fun _ => [a.labs, b.labs]) false s.gmaskLab r.2

def execVredadd (s : State) : Host.Outcome State Fault Refusal := s.run (s.vRed s.ewI (vInt2 s.ewI (fun a b => a + b)))
def execVredmin (s : State) : Host.Outcome State Fault Refusal := s.run (s.vRed s.ewI (vInt2 s.ewI (fun a b => aluMin a b)))
def execVredmax (s : State) : Host.Outcome State Fault Refusal := s.run (s.vRed s.ewI (vInt2 s.ewI (fun a b => aluMax a b)))
def execVredminu (s : State) : Host.Outcome State Fault Refusal := s.run (s.vRed s.ewI (vInt2 s.ewI (fun a b => aluMinu a b)))
def execVredmaxu (s : State) : Host.Outcome State Fault Refusal := s.run (s.vRed s.ewI (vInt2 s.ewI (fun a b => aluMaxu a b)))
def execVredand (s : State) : Host.Outcome State Fault Refusal := s.run (s.vRed s.ewI (vInt2 s.ewI (fun a b => a &&& b)))
def execVredor (s : State) : Host.Outcome State Fault Refusal := s.run (s.vRed s.ewI (vInt2 s.ewI (fun a b => a ||| b)))
def execVfredadd (s : State) : Host.Outcome State Fault Refusal := s.run (s.vRed s.ewF.width (s.ewF.add s.rmArith))
def execVfredmin (s : State) : Host.Outcome State Fault Refusal := s.run (s.vRed s.ewF.width (s.ewF.minmax false))
def execVfredmax (s : State) : Host.Outcome State Fault Refusal := s.run (s.vRed s.ewF.width (s.ewF.minmax true))

/-! ### Between a vector element and a scalar (R168): the V field is in d, the S field in a -/

def execVbcast (s : State) : Host.Outcome State Fault Refusal :=
  let a := s.act.rd s.ir.a
  s.run (s.vWrite [.s s.ir.a.toNat] s.ewI (fun _ => true) (fun _ => a.val.toNat % 2 ^ s.ewI) (fun _ => [[a.lab]]) false [] 0)

def execVext (s : State) : Host.Outcome State Fault Refusal :=
  let v := s.act.rdV s.ir.vd
  let i := s.ir.imm.toNat
  s.run (match s.regs [.v s.ir.d.toNat, .s s.ir.a.toNat] with
    | .error e => .error e
    | .ok _ =>
      match s.freeS s.ir.a with
      | .error e => .error e
      | .ok _ =>
        match s.product [v.quadLab (quadOf s.ewI i), s.act.clab] with
        | .error e => .error e
        | .ok (t, l, lf) => .ok ((t.writeS s.ir.a (BitVec.ofNat 64 (vElem v.val s.ewI i)) l).orFlags lf))

def execVins (s : State) : Host.Outcome State Fault Refusal :=
  let v := s.act.rdV s.ir.vd
  let a := s.act.rd s.ir.a
  let i := s.ir.imm.toNat
  let q := quadOf s.ewI i
  s.run (match s.regs [.v s.ir.d.toNat, .s s.ir.a.toNat] with
    | .error e => .error e
    | .ok _ =>
      match s.freeV s.ir.vd with
      | .error e => .error e
      | .ok _ =>
        match s.product [v.quadLab q, a.lab, s.act.clab] with
        | .error e => .error e
        | .ok (t, l, lf) =>
          let x := vOf s.ewI ((List.range (512 / s.ewI)).map (fun j => if j = i then a.val.toNat % 2 ^ s.ewI else vElem v.val s.ewI j))
          .ok ((t.writeV s.ir.vd (VReg.ofLabs x ((List.range 4).map (fun p => if p = q then l else v.quadLab p)))).orFlags lf))

/-! ### Conversions (R169) -/

/-- Elements, flags and generator after converting the active elements in increasing order, one draw each when stochastic
rounding takes effect (R97). -/
def cvtFold (mask : Word) (v : Line) (src dst mode : Nat) : Nat → Nat → Word → List Nat × Word × Word
  | 0, _, rng => ([], 0, rng)
  | fuel + 1, i, rng =>
    if mask.getLsbD i then
      let rng' := if mode = 6 then rngStep rng else rng
      let r := cvtTo dst mode (rng'.toNat % 65536) (cvtSource src (vElem v (cvtWidth src) i))
      let t := cvtFold mask v src dst mode fuel (i + 1) rng'
      (r.1 :: t.1, r.2 ||| t.2.1, t.2.2)
    else
      let t := cvtFold mask v src dst mode fuel (i + 1) rng
      (0 :: t.1, t.2.1, t.2.2)

def execVcvt (s : State) : Host.Outcome State Fault Refusal :=
  let src := s.ir.x.toNat
  let dst := s.ir.y.toNat
  let n := 512 / Nat.max (cvtWidth src) (cvtWidth dst)
  let mode := cvtMode s.rm dst
  let a := s.act.rdV s.ir.va
  let r := cvtFold s.gmask a.val src dst mode n 0 s.me.rngst
  s.run (match s.vWrite [.v s.ir.a.toNat] (cvtWidth dst) (fun i => n ≤ i || s.gmask.getLsbD i) (fun i => r.1.getD i 0)
      (fun _ => [a.labs]) false s.gmaskLab r.2.1 with
    | .error e => .error e
    | .ok t => .ok (t.setMe { t.me with rngst := r.2.2 }))

end Sys2Proof.Machine
end

