-- ==== Sys2Proof/Machine/VMem.lean ====
section
/-! DEFINITION. Vector memory (R170 to R175): contiguous, strided and indexed. -/

namespace Sys2Proof.Machine

/-- Element bytes of an EW code. -/
def ewBytes (e : BitVec 2) : Nat := 2 ^ e.toNat

/-- The addresses of the elements of a contiguous access (R170). -/
def contigAddrs (x : Word) (e : BitVec 2) : List Word := (List.range (ewCount e)).map (fun i => x + BitVec.ofNat 64 (i * ewBytes e))

/-- The pieces of the active elements, in increasing element order, each with its element; the first fault stops it. -/
def State.elemPieces (s : State) (k : Kind) (bytes : Nat) (mask : Word) : List (Nat × Word) → Except (Cause × Word) (List (Nat × Piece))
  | [] => .ok []
  | (i, x) :: l =>
    if mask.getLsbD i then
      match s.pieces s.cur s.act.sup k x bytes with
      | .error e => .error e
      | .ok ps =>
        match s.elemPieces k bytes mask l with
        | .error e => .error e
        | .ok qs => .ok (ps.map (fun p => (i, p)) ++ qs)
    else s.elemPieces k bytes mask l

/-- The index of each address. -/
def indexed {α : Type} (l : List α) : List (Nat × α) := (List.range l.length).zip l

/-- Reads pieces of elements in turn: bytes by element and sources by element. -/
def State.readElems (s : State) : List (Nat × Piece) → Res (State × List (Nat × List Byte) × List (Nat × LSrc))
  | [] => .ok (s, [], [])
  | (i, p) :: l =>
    match s.readPiece false p with
    | .error e => .error e
    | .ok (t, bs, src) =>
      match t.readElems l with
      | .error e => .error e
      | .ok (u, bs', srcs) => .ok (u, (i, bs) :: bs', (i, src) :: srcs)

def bytesOfElem (l : List (Nat × List Byte)) (i : Nat) : List Byte := (l.filter (fun p => p.1 == i)).flatMap (·.2)

/-- Products of groups of sources of both kinds for several places in turn: none keeps the old label. -/
def State.productsL (s : State) : List (Option (List (List LSrc)) × Handle) → Res (State × List Handle × Word)
  | [] => .ok (s, [], 0)
  | (none, old) :: l =>
    match s.productsL l with
    | .error e => .error e
    | .ok (t, hs, f) => .ok (t, old :: hs, f)
  | (some hs, _) :: l =>
    match s.productGL hs with
    | .error e => .error e
    | .ok (t, h, f) =>
      match t.productsL l with
      | .error e => .error e
      | .ok (u, hs', g) => .ok (u, h :: hs', f ||| g)

/-- The vector register after a load of the active elements, with the labels of R174 and the focus of R267. -/
def State.vLoaded (s : State) (iss : Issue) (e : BitVec 2) (mask : Word) (d : BitVec 4) (pre : List (List Handle)) (mkl : List Handle)
    (bytes : List (Nat × List Byte)) (srcs : List (Nat × LSrc)) : Res (State × List RegWrite × Word) :=
  let w := ewBits e
  let n := ewCount e
  let old := s.act.rdV d
  let rest (q : Nat) : List LSrc := (srcs.filter (fun p => quadOf w p.1 == q)).map (·.2)
    ++ (if quadAll mask w n q then [] else [.h (old.quadLab q)]) ++ mkl.map LSrc.h ++ [.h iss.clab]
  let quad (q : Nat) : Option (List (List LSrc)) × Handle :=
    (if quadAny mask w n q then some (pre.map (fun g => g.map LSrc.h) ++ (rest q).map (fun x => [x])) else none, old.quadLab q)
  match s.productsL [quad 0, quad 1, quad 2, quad 3] with
  | .error er => .error er
  | .ok (t, ls, f) =>
    let hid (q : Nat) : Bool := quadAny mask w n q && t.focused iss (ls.getD q 0)
    let v := vOf w ((List.range n).map (fun i =>
      if mask.getLsbD i then (if hid (quadOf w i) then 0 else ofBytes (bytesOfElem bytes i)) else vElem old.val w i))
    .ok (t, [.v d (VReg.ofLabs v ((List.range 4).map (fun q => if hid q then hEMPTY else ls.getD q 0)))], f)

/-- VLD: every active element is translated and checked before any is read (R170, R175). -/
def State.doVload (s : State) (iss : Issue) (x : Word) (e : BitVec 2) (mask : Word) (d : BitVec 4) (pre mkl : List Handle) :
    Res (State × List RegWrite × Word) :=
  onPage x (match s.elemPieces .rd (ewBytes e) mask (indexed (contigAddrs x e)) with
  | .error (c, v) => .error (.trap c v)
  | .ok ps =>
    match s.walks none (ps.map (·.2)) with
    | .error er => .error er
    | .ok s1 =>
      match s1.readElems ps with
      | .error er => .error er
      | .ok (t, bytes, srcs) => t.vLoaded iss e mask d (singles pre) mkl bytes srcs)

/-- VLD is short when its active elements lie in the core's own portion through the local window (R78, R170). -/
def vecShort (core : Nat) (e : BitVec 2) (mask : Word) (xs : List Word) : Bool :=
  (indexed xs).all (fun p => !mask.getLsbD p.1 || ownShort core p.2 (ewBytes e))

/-- The address of a format-VM access: the offset is in units of 64 bytes (R67, R170). -/
def State.vAddr (s : State) : Word := (s.act.rd s.ir.a).val + s.ir.off7 64

def State.vldRes (s : State) : Res State :=
  let a := s.act.rd s.ir.a
  let e := s.ir.ew
  let x := s.vAddr
  match s.regs [.v s.ir.d.toNat, .s s.ir.a.toNat] with
  | .error er => .error er
  | .ok _ =>
    match s.notPoison a with
    | .error er => .error er
    | .ok _ =>
      let short := vecShort s.cur e s.gmask (contigAddrs x e)
      match (if short then .ok () else s.room) with
      | .error er => .error er
      | .ok _ =>
        match s.freeV s.ir.vd with
        | .error er => .error er
        | .ok _ =>
          let r := s.doVload s.issue x e s.gmask s.ir.vd [a.lab] s.gmaskLab
          if short then issueShort r else s.issueLong (.vload x e s.gmask s.ir.vd [a.lab] s.gmaskLab) r

def execVld (s : State) : Host.Outcome State Fault Refusal := s.run s.vldRes

/-! ### Contiguous stores -/

/-- The bytes that a store gives to one granule: consecutive pieces of elements in one granule. -/
def groupGranules : List (Nat × Piece) → List (List (Nat × Piece))
  | [] => []
  | (i, p) :: l =>
    match groupGranules l with
    | ((j, q) :: g) :: gs => if p.key / 16 = q.key / 16 then ((i, p) :: (j, q) :: g) :: gs else [(i, p)] :: ((j, q) :: g) :: gs
    | gs => [(i, p)] :: gs

/-- One granule of a vector store: its label is that of the elements it takes (R174), its tag by R129. One access goes to each
flit payload of 32 bytes (R173): seen is the one that the granule before it has stamped. -/
def State.writeGranule (s : State) (seen : Option Nat) (e : BitVec 2) (data : VReg) (pre post : List Handle) (g : List (Nat × Piece)) :
    Res (State × Word) :=
  match g with
  | [] => .ok (s, 0)
  | (_, p) :: _ =>
    let w := ewBits e
    match s.product ((g.map (fun q => data.quadLab (quadOf w q.1))) ++ pre ++ post) with
    | .error er => .error er
    | .ok (t, l, f) =>
      match hostLabelFault l [p] with
      | some a => trapped .prot a
      | none =>
        match t.viewFor t.cl t.act.floor true p.key p.addr with
        | .error er => .error er
        | .ok v =>
          match (if seen = some (p.key / 32) then t else t.touchStore v p).storeTag v { p with len := (g.map (fun q => q.2.len)).sum } l with
          | .error er => .error er
          | .ok (u, h) =>
            let u := g.foldl (fun u q =>
              let b := ((toBytes (ewBytes e) (vElem data.val w q.1)).drop q.2.off).take q.2.len
              (u.wrBytes v q.2.key b).ctlAfter q.2.key b) u
            .ok (u.dropTmp l, (f &&& flagLW) ||| h)

def State.writeGranules (s : State) (e : BitVec 2) (data : VReg) (pre post : List Handle) :
    Option Nat → List (List (Nat × Piece)) → Res (State × Word)
  | _, [] => .ok (s, 0)
  | seen, g :: gs =>
    match s.writeGranule seen e data pre post g with
    | .error er => .error er
    | .ok (t, f) =>
      match t.writeGranules e data pre post (g.head?.map (fun q => q.2.key / 32)) gs with
      | .error er => .error er
      | .ok (u, h) => .ok (u, f ||| h)

/-- VST: every active element is translated and checked before any is written (R170, R175). -/
def State.doVstore (s : State) (iss : Issue) (x : Word) (e : BitVec 2) (mask : Word) (data : VReg) (pre mkl : List Handle) :
    Res (State × List RegWrite × Word) :=
  onPage x (match s.elemPieces .wr (ewBytes e) mask (indexed (contigAddrs x e)) with
  | .error (c, v) => .error (.trap c v)
  | .ok ps =>
    match s.walks none (ps.map (·.2)) with
    | .error er => .error er
    | .ok s1 =>
      match s1.writeGranules e data pre (mkl ++ [iss.clab]) none (groupGranules ps) with
      | .error er => .error er
      | .ok (t, f) => .ok (t, [], f))

def State.vstRes (s : State) : Res State :=
  let a := s.act.rd s.ir.a
  let e := s.ir.ew
  let x := s.vAddr
  let data := s.act.rdV s.ir.vd
  match s.regs [.v s.ir.d.toNat, .s s.ir.a.toNat] with
  | .error er => .error er
  | .ok _ =>
    match s.notPoison a with
    | .error er => .error er
    | .ok _ =>
      if s.farStore x 64 then
        match s.room with
        | .error er => .error er
        | .ok _ =>
          match s.doVstore s.issue x e s.gmask data [a.lab] s.gmaskLab with
          | .ok (t, ws, f) => .ok (t.leave ⟨.vstore x e s.gmask data [a.lab] s.gmaskLab, s.issue, ws, f⟩)
          | .error er => s.deferTarget (.vstore x e s.gmask data [a.lab] s.gmaskLab) er
      else issueShort (s.doVstore s.issue x e s.gmask data [a.lab] s.gmaskLab)

def execVst (s : State) : Host.Outcome State Fault Refusal := s.run s.vstRes

/-! ### Long vector instructions (R171, R172, R175, R359) -/

/-- First element to perform (R359). -/
def State.pixElem (s : State) : Nat := s.act.pix.toNat % 128

/-- The elements that a load performs, one access each in increasing order; a fault keeps what was read. Each source has its
element and the address. -/
def State.gatherFrom (s : State) (e : BitVec 2) (mask : Word) : List (Nat × Word) →
    Res (State × List (Nat × List Byte) × List (Nat × Word × LSrc) × Option (Cause × Word × Nat))
  | [] => .ok (s, [], [], none)
  | (i, x) :: l =>
    if mask.getLsbD i then
      match s.load .rd x (ewBytes e) with
      | .error er => s.faulted er (fun t c _ => .ok (t, [], [], some (c, x, i)))
      | .ok (t, bs, srcs) =>
        match t.gatherFrom e mask l with
        | .error er => .error er
        | .ok (u, bs', srcs', f) => .ok (u, (i, bs) :: bs', srcs.map (fun y => (i, x, y)) ++ srcs', f)
    else s.gatherFrom e mask l

/-- Sources in increasing address (R119, R174); those of one element stay in their order. -/
def byAddr : List (Nat × Word × LSrc) → List (Nat × Word × LSrc)
  | [] => []
  | a :: l =>
    let r := byAddr l
    r.takeWhile (fun b => decide (b.2.1.toNat < a.2.1.toNat)) ++ a :: r.dropWhile (fun b => decide (b.2.1.toNat < a.2.1.toNat))

/-- The mask of elements from a up to, not including, b. -/
def between (mask : Word) (a b : Nat) : Word := maskOf 64 (fun i => mask.getLsbD i && decide (a ≤ i) && decide (i < b))

/-- VLDS and VGATH from element j: what landed, and the fault with its element (R175). -/
def State.doGather (s : State) (iss : Issue) (xs : List Word) (e : BitVec 2) (mask : Word) (d : BitVec 4) (pre : List (List Handle))
    (mkl : List Handle) (j : Nat) : Res (State × List RegWrite × Word × Option (Cause × Word × Nat)) :=
  match s.gatherFrom e (between mask j 64) (indexed xs) with
  | .error er => .error er
  | .ok (t, bytes, srcs, fault) =>
    let done := between mask j (match fault with | some f => f.2.2 | none => 64)
    if done = 0 then .ok (t, [], 0, fault)
    else match t.vLoaded iss e done d pre mkl bytes ((byAddr srcs).map (fun p => (p.1, p.2.2))) with
      | .error er => .error er
      | .ok (u, ws, f) => .ok (u, ws, f, fault)

/-- The issue of a strided or indexed load; completion sets PIX to 0. Elements below a fault land when the fault is taken: with a
recorded fault at its delivery, with an immediate one at once. Every fault of an element is recorded, PRIV among them. A strided load of
the core's own portion through the local window is short, its fault immediate (R78, R82, R175, R354). -/
def State.issueGather (s : State) (xs : List Word) (d : BitVec 4) (pre : List (List Handle)) (short : Bool) : Res State :=
  let e := s.ir.ew
  let mask := s.gmask
  match (if short then .ok () else s.room) with
  | .error er => .error er
  | .ok _ =>
    match s.freeV d with
    | .error er => .error er
    | .ok _ =>
      match s.doGather s.issue xs e mask d pre s.gmaskLab s.pixElem with
      | .error er => .error er
      | .ok (t, ws, f, fault) =>
        let t1 := t.setAct { t.act with pix := 0 }
        let op (j : Nat) : LOp := .vgather xs e mask d pre s.gmaskLab j
        match fault with
        | none => .ok (if short then (t1.applyNow ws).orFlags f else t1.leave ⟨op s.pixElem, s.issue, ws, f⟩)
        | some (c, v, j) =>
          if (c.late || c = .priv) && !short then .ok (t1.defer (op j) s.issue c v ws.head? f)
          else
            let t2 := (t1.applyNow ws).orFlags f
            .error (.final ((t2.setAct { t2.act with pix := BitVec.ofNat 64 j }).raise c v))

/-- How the elements of a scatter ended: all performed, or stopped at an element (R175). -/
inductive Ended where
  | all
  | fault (c : Cause) (v : Word) (j : Nat)
  /-- an element waits for a release (R256) -/
  | wait (j : Nat)
  deriving DecidableEq, Repr

/-- Stores of the active elements, one access each in increasing order, under the labels of R174; their flags. LABELOVF or LTFULL
at an element ends it there as a fault of that element does (DESIGN CHOICE, log 45). -/
def State.scatterFrom (s : State) (e : BitVec 2) (mask : Word) (data : VReg) (post : List (List Handle)) :
    List (Nat × Word) → State × Word × Ended
  | [] => (s, 0, .all)
  | (i, x) :: l =>
    if mask.getLsbD i then
      match s.productG ([data.quadLab (quadOf (ewBits e) i)] :: post) with
      | .error (.trap c v) => (s, 0, .fault c v i)
      | .error _ => (s, 0, .wait i)
      | .ok (t, h, f) =>
        match t.doStore x (toBytes (ewBytes e) (vElem data.val (ewBits e) i)) h none with
        | .error er =>
          match s.faulted er (fun t c v => .ok (t, c, v)) with
          | .ok (t, c, v) => (t, 0, .fault c (if c = .labelovf || c = .ltfull then v else x) i)
          | .error _ => (s, 0, .wait i)
        | .ok (u, _, g) =>
          let r := (u.dropTmp h).scatterFrom e mask data post l
          (r.1, (f &&& flagLW) ||| g ||| r.2.1, r.2.2)
    else s.scatterFrom e mask data post l

/-- VSTS and VSCAT from element j, performed again after a recorded fault (R357). -/
def State.doScatter (s : State) (iss : Issue) (xs : List Word) (e : BitVec 2) (mask : Word) (data : VReg) (pre : List (List Handle))
    (mkl : List Handle) (j : Nat) : Res (State × List RegWrite × Word × Option (Cause × Word × Nat)) :=
  match s.scatterFrom e (between mask j 64) data (pre ++ singles (mkl ++ [iss.clab])) (indexed xs) with
  | (t, f, .all) => .ok (t, [], f, none)
  | (t, f, .fault c v i) => .ok (t, [], f, some (c, v, i))
  | (_, _, .wait _) => .error .stall

/-- The issue of a strided or indexed store from PIX on; completion sets PIX to 0 (R175). A store of which an element answers from
its target holds one entry until it does; a fault of such a target is recorded with the elements from it on (R354; that the
elements share an entry is DEDUCED, log 44). An element that waits for a release leaves PIX at itself, and the instruction issues
again from there. -/
def State.issueScatter (s : State) (xs : List Word) (pre : List (List Handle)) : Res State :=
  let e := s.ir.ew
  let mask := between s.gmask s.pixElem 64
  let data := s.act.rdV s.ir.vd
  let far := (indexed xs).any (fun p => mask.getLsbD p.1 && s.farStore p.2 (ewBytes e))
  match (if far then s.room else .ok ()) with
  | .error er => .error er
  | .ok _ =>
    let r := s.scatterFrom e mask data (pre ++ singles (s.gmaskLab ++ [s.act.clab])) (indexed xs)
    let op (j : Nat) : LOp := .vscatter xs e s.gmask data pre s.gmaskLab j
    let at_ (j : Nat) : State := r.1.setAct { r.1.act with pix := BitVec.ofNat 64 j }
    let held (t : State) : State := if far then t.leave ⟨op s.pixElem, s.issue, [], r.2.1⟩ else t.orFlags r.2.1
    match r.2.2 with
    | .all => .ok (held (at_ 0))
    | .fault c v j =>
      if far && targetFault v c then .ok ((at_ 0).defer (op j) s.issue c v none r.2.1)
      else .error (.final ((held (at_ j)).raise c v))
    | .wait j => .error (.final ((at_ j).orFlags r.2.1).stall)

/-- The addresses of a strided access (R171). -/
def State.strideAddrs (s : State) : List Word :=
  (List.range (ewCount s.ir.ew)).map (fun i => (s.act.rd s.ir.a).val + BitVec.ofNat 64 i * (s.act.rd s.ir.b).val)

def execVlds (s : State) : Host.Outcome State Fault Refusal :=
  let a := s.act.rd s.ir.a
  let b := s.act.rd s.ir.b
  s.run (match s.regs [.v s.ir.d.toNat, .s s.ir.a.toNat, .s s.ir.b.toNat] with
    | .error e => .error e
    | .ok _ =>
      match s.noPoison [a, b] with
      | .error e => .error e
      | .ok _ => s.issueGather s.strideAddrs s.ir.vd [[a.lab], [b.lab]] (vecShort s.cur s.ir.ew s.gmask s.strideAddrs))

def execVsts (s : State) : Host.Outcome State Fault Refusal :=
  let a := s.act.rd s.ir.a
  let b := s.act.rd s.ir.b
  s.run (match s.regs [.v s.ir.d.toNat, .s s.ir.a.toNat, .s s.ir.b.toNat] with
    | .error e => .error e
    | .ok _ =>
      match s.noPoison [a, b] with
      | .error e => .error e
      | .ok _ => s.issueScatter s.strideAddrs [[a.lab], [b.lab]])

/-- The addresses of an indexed access: base, displacement or literal, scaled index (R172). -/
def State.indexAddrs (s : State) : List Word :=
  let v := (s.act.rdV s.ir.vb).val
  let w := s.ewI
  let disp : Word := match s.ir.lit with | some x => x | none => s.ir.imm.signExtend 64
  (List.range (ewCount s.ir.ew)).map (fun i =>
    (s.act.rd s.ir.a).val + disp + ((BitVec.ofNat w (vElem v w i)).signExtend 64 <<< (s.ir.md.toNat % 4)))

/-- The labels of the base and, as one factor, of the index register (R174). -/
def State.indexLabs (s : State) : List (List Handle) := [[(s.act.rd s.ir.a).lab], (s.act.rdV s.ir.vb).labs]

/-- POISON on the base or on a quad of the index register (R174). XVAL is the value of the base in both cases: R341 asks for the
operand, and a vector register is no 64-bit value (DESIGN CHOICE, log 46). -/
def State.idxPoison (s : State) : Res Unit :=
  match s.notPoison (s.act.rd s.ir.a) with
  | .error e => .error e
  | .ok _ => if (s.act.rdV s.ir.vb).labs.any s.poison then trapped .poison (s.act.rd s.ir.a).val else .ok ()

def execVgath (s : State) : Host.Outcome State Fault Refusal :=
  s.run (match s.regs [.v s.ir.d.toNat, .s s.ir.a.toNat, .v s.ir.b.toNat] with
    | .error e => .error e
    | .ok _ =>
      match s.idxPoison with
      | .error e => .error e
      | .ok _ => s.issueGather s.indexAddrs s.ir.vd s.indexLabs false)

def execVscat (s : State) : Host.Outcome State Fault Refusal :=
  s.run (match s.regs [.v s.ir.d.toNat, .s s.ir.a.toNat, .v s.ir.b.toNat] with
    | .error e => .error e
    | .ok _ =>
      match s.idxPoison with
      | .error e => .error e
      | .ok _ => s.issueScatter s.indexAddrs s.indexLabs)

end Sys2Proof.Machine
end

