-- ==== Sys2Proof/Machine/Tensor.lean ====
section
/-! DEFINITION. Tensor identifier records (R98 to R107), the placing of elements (R274), boxes (R275), the MX formats
(R104 to R106), TIDW and TIDR (R197) and VFCVTN (R199 to R202). -/

namespace Sys2Proof.Machine

/-! ### The fields of a record (R98) -/

/-- Bits [lo+w-1:lo] of a record. -/
def lf (r : Line) (lo w : Nat) : Nat := r.toNat / 2 ^ lo % 2 ^ w
/-- A field that is an address. -/
def lw (r : Line) (lo : Nat) : Word := BitVec.ofNat 64 (r.toNat / 2 ^ lo)
def Line.ofBytes (l : List Byte) : Line := BitVec.ofNat 512 (Machine.ofBytes l)

def tExt (r : Line) (i : Nat) : Nat := lf r (64 + 64 * i) 24
def tStr (r : Line) (i : Nat) : Int := (BitVec.ofNat 40 (lf r (88 + 64 * i) 40)).toInt
def tFmt (r : Line) : Nat := lf r 320 4
def tPack (r : Line) : Bool := r.getLsbD 341
def tPermit (r : Line) : Bool := r.getLsbD 342
def tCirc (r : Line) (i : Nat) : Bool := r.getLsbD (343 + i)
def tSdim (r : Line) : Nat := lf r 349 2
def tSpdim (r : Line) : Nat := lf r 354 2
def tBlk (r : Line) (i : Nat) : Nat := lf r (356 + 4 * i) 4
def tIsMx (r : Line) : Bool := decide (7 ≤ tFmt r) && decide (tFmt r ≤ 12)
def tIsNarrow (r : Line) : Bool := tFmt r == 6
/-- Kept elements of a group of 12; 0 for a dense tensor. -/
def tKeep (r : Line) : Nat := match lf r 351 3 with | 1 => 2 | 2 => 3 | 3 => 4 | 4 => 6 | _ => 0
/-- Elements of a scale block; 0 without scales (R102, R104). -/
def tBlockLen (r : Line) : Nat :=
  if tIsMx r then 32 else match lf r 347 2 with | 1 => 12 | 2 => 24 | 3 => 48 | _ => 0
/-- The present dimensions. -/
def tDims (r : Line) : List Nat := (List.range 4).filter (fun i => tExt r i != 0)
/-- The narrow format of a record (R90, R94). -/
def tNarrow (r : Line) : NFmt :=
  { s := r.getLsbD 324, e := lf r 325 4, m := lf r 329 3, bias := lf r 332 8, nar := r.getLsbD 340 }

/-- The checks of R99. -/
def tMalformed (r : Line) : Bool :=
  let absent (i : Nat) : Bool := tExt r i == 0
  let fmt := tFmt r
  let width := lf r 324 1 + lf r 325 4 + lf r 329 3
  let spn := lf r 351 3
  let sparse := spn != 0
  let scaled := lf r 347 2 != 0 || tIsMx r
  absent 0 || (absent 1 && (!absent 2 || !absent 3)) || (absent 2 && !absent 3)
    || decide (12 < fmt) || decide (4 < spn)
    || (fmt == 6 && (lf r 325 4 == 0 || decide (8 < width) || (r.getLsbD 340 && !r.getLsbD 324)))
    || (fmt != 6 && lf r 324 18 != 0)
    || (tPack r && decide (4 < width))
    || (lf r 347 2 != 0 && fmt != 6)
    || (sparse && ((fmt != 6 && fmt != 4) || tExt r (tSpdim r) % 12 != 0 || tCirc r (tSpdim r) || absent (tSpdim r)))
    || (scaled && absent (tSdim r))
    || (!scaled && (tSdim r != 0 || lf r 384 64 != 0)) || (!sparse && (tSpdim r != 0 || lf r 448 64 != 0))
    || (List.range 4).any (fun i => absent i && (tCirc r i || tBlk r i != 0))
    || (List.range 4).any (fun i => !absent i && tBlk r i != 0 && decide (tExt r i ≤ 2 ^ (tBlk r i - 1)))
    || lf r 372 12 != 0

/-! ### Where an element lies (R100, R274) -/

/-- A code in memory: its first byte, how many bytes hold it, its lowest bit in them and its width. -/
structure Loc where
  addr : Word
  bytes : Nat
  shift : Nat := 0
  width : Nat
  deriving DecidableEq, Repr

/-- Bytes of an element of a format that takes whole bytes (R100). -/
def tBytes (r : Line) : Nat :=
  match tFmt r with | 0 => 8 | 1 => 4 | 2 => 2 | 3 => 2 | 5 => 4 | _ => 1

/-- The place of the element at an offset in elements (R91, R100). The shift of the offset is arithmetic. -/
def tLoc (r : Line) (o : Int) : Loc :=
  let base := lw r 0
  let fmt := tFmt r
  if (fmt = 6 && tPack r) || fmt = 11 then { addr := base + BitVec.ofInt 64 (o.fdiv 2), bytes := 1, shift := 4 * (o.emod 2).toNat, width := 4 }
  else if fmt = 9 || fmt = 10 then { addr := base + BitVec.ofInt 64 (o.fdiv 4 * 3), bytes := 3, shift := 6 * (o.emod 4).toNat, width := 6 }
  else { addr := base + BitVec.ofInt 64 (o * tBytes r), bytes := tBytes r, width := 8 * tBytes r }

/-- A coordinate after the wrap of its dimension (R100). -/
def tWrap (r : Line) (i : Nat) (c : Int) : Int := if tCirc r i then c.emod (tExt r i) else c

/-- Coordinates after wrapping, when they lie inside the tensor (R274). -/
def tInside (r : Line) (cs : List Int) : Option (List Nat) :=
  let ws := (List.range 4).map (fun i => if tExt r i = 0 then 0 else tWrap r i (cs.getD i 0))
  if (List.range 4).all (fun i => tExt r i == 0 || (decide (0 ≤ ws.getD i 0) && decide (ws.getD i 0 < tExt r i)))
  then some (ws.map Int.toNat) else none

/-- The offset in elements of coordinates, in 64-bit two's complement; those of a sparse tensor are compressed along SPDIM (R100). -/
def tOffset (r : Line) (cs : List Nat) : Int :=
  (BitVec.ofInt 64 ((List.range 4).map (fun i => (cs.getD i 0 : Int) * tStr r i)).sum).toInt

/-- The place in a grid of scales or metadata: dimension 0 fastest, the extent along one dimension divided (R103, R107). -/
def tGrid (r : Line) (dim len : Nat) (cs : List Nat) : Nat :=
  let g (i : Nat) : Nat := if i = dim then (tExt r i + len - 1) / len else tExt r i
  let q (i : Nat) : Nat := if i = dim then cs.getD i 0 / len else cs.getD i 0
  ((tDims r).foldl (fun (a : Nat × Nat) i => (a.1 + q i * a.2, a.2 * g i)) (0, 1)).1

/-- The address of the scale of an element (R103). -/
def tScaleAddr (r : Line) (cs : List Nat) : Word := lw r 384 + BitVec.ofNat 64 (tGrid r (tSdim r) (tBlockLen r) cs)
/-- The address of the metadata word of an element's group (R107). -/
def tMetaAddr (base : Word) (r : Line) (cs : List Nat) : Word := base + BitVec.ofNat 64 (4 * tGrid r (tSpdim r) 12 cs)

/-- Which kept element of its group a position is, by the group's metadata (R107). -/
def keptIndex (n w pos : Nat) : Option Nat := (List.range n).find? (fun j => w / 16 ^ j % 16 == pos)
/-- The words that an MMAS refuses (R107). -/
def badMeta (n w : Nat) : Bool :=
  decide (16 ^ n ≤ w) || (List.range n).any (fun j => decide (11 < w / 16 ^ j % 16)) ||
    (List.range (n - 1)).any (fun j => decide (w / 16 ^ (j + 1) % 16 ≤ w / 16 ^ j % 16))

/-- The coordinates with the one along SPDIM compressed: kept element j of its group (R100). -/
def tCompress (r : Line) (cs : List Nat) (j : Nat) : List Nat :=
  (List.range 4).map (fun i => if i = tSpdim r then cs.getD i 0 / 12 * tKeep r + j else cs.getD i 0)

/-! ### Boxes (R275) -/

def bOrg (b : BitVec 256) (i : Nat) : Int := (BitVec.ofNat 32 (b.toNat / 2 ^ (64 * i))).toInt
def bExt (b : BitVec 256) (i : Nat) : Nat := b.toNat / 2 ^ (64 * i + 32) % 2 ^ 24
def boxMalformed (r : Line) (b : BitVec 256) : Bool :=
  (List.range 4).any (fun i =>
    let f := b.toNat / 2 ^ (64 * i) % 2 ^ 64
    if tExt r i = 0 then f != 0 else bExt b i == 0 || f / 2 ^ 56 != 0)

/-- Coordinates of the tensor for offsets into a box. -/
def boxAt (b : BitVec 256) (os : List Int) : List Int := (List.range 4).map (fun i => bOrg b i + os.getD i 0)

/-- The offsets as four 16-bit fields: XVAL of BOUNDS (R274). -/
def packOffsets (os : List Int) : Word :=
  BitVec.ofNat 64 (((List.range 4).map (fun i => ((os.getD i 0).emod (2 ^ 16)).toNat * 2 ^ (16 * i))).sum)

/-! ### The MX formats (R104 to R106) -/

/-- Exponent and mantissa bits, bias, largest finite code, emax of an element type. -/
structure MxFmt where
  eb : Nat
  m : Nat
  bias : Nat
  top : Nat
  emax : Int
  deriving DecidableEq, Repr

def mxFmt (fmt : Nat) : MxFmt :=
  match fmt with
  | 7 => ⟨4, 3, 7, 0x7E, 8⟩
  | 8 => ⟨5, 2, 15, 0x7B, 15⟩
  | 9 => ⟨3, 2, 3, 0x1F, 4⟩
  | 10 => ⟨2, 3, 1, 0x1F, 2⟩
  | 11 => ⟨2, 1, 1, 7, 2⟩
  | _ => ⟨0, 6, 0, 127, 0⟩

/-- The value of an element code (R104). MXINT8 is a two's complement multiple of 2^-6. -/
def mxDecode (fmt c : Nat) : FVal :=
  let f := mxFmt fmt
  if fmt = 12 then (let v := (BitVec.ofNat 8 c).toInt; .num (decide (v < 0)) v.natAbs (-6))
  else
    let half := 2 ^ (f.eb + f.m)
    let neg := c / half % 2 == 1
    let x := c % half
    if fmt = 7 && x = 0x7F then .nan false
    else if fmt = 8 && 0x7C < x then .nan false
    else if fmt = 8 && x = 0x7C then .inf neg
    else if x < 2 ^ f.m then .num neg x (1 - (f.bias : Int) - (f.m : Int))
    else .num neg (2 ^ f.m + x % 2 ^ f.m) ((x / 2 ^ f.m : Nat) - (f.bias : Int) - (f.m : Int))

/-- Round into an element type; a result beyond the largest finite magnitude is held there with OF and NX (R106). A tie between the
largest code and the next stays with the largest where that code is even, with NX alone: R95 calls both even (DESIGN CHOICE, log 56). -/
def mxRound (fmt mode : Nat) (x : FVal) : Nat × Word :=
  let f := mxFmt fmt
  match x with
  | .num neg m e =>
    let half := 2 ^ (f.eb + f.m)
    let sgn (c : Nat) : Nat := if neg then half + c else c
    if fmt = 12 then
      let (lo, rem, den) := scaleTo m e (-6)
      let n := if goesUp mode 0 neg (lo % 2 == 0) rem den then lo + 1 else lo
      let cap := if neg then 128 else 127
      let v : Int := if cap < n then cap else n
      ((BitVec.ofInt 8 (if neg then -v else v)).toNat, if cap < n then flagOF ||| flagNX else if rem = 0 then 0 else flagNX)
    else if m = 0 then (sgn 0, 0)
    else
      let low : Int := 1 - (f.bias : Int) - (f.m : Int)
      let top := (nlog2 m : Int) + e
      let q := if low ≤ top - f.m then top - f.m else low
      let (lo, rem, den) := scaleTo m e q
      let code := lo + (q - low).toNat * 2 ^ f.m
      let c := if goesUp mode 0 neg (code % 2 == 0) rem den then code + 1 else code
      if f.top < c then (sgn f.top, flagOF ||| flagNX) else (sgn c, if rem = 0 then 0 else flagNX)
  | _ => (0, 0)

/-- The exponent that AUTO derives from the values of a block (R106). -/
def mxScale (fmt : Nat) (vs : List FVal) : Nat :=
  if vs.any (fun v => match v with | .num _ _ _ => false | _ => true) then 0xFF
  else
    let tops := vs.filterMap (fun v => match v with | .num _ m e => if m = 0 then none else some ((nlog2 m : Int) + e) | _ => none)
    match tops with
    | [] => 0
    | t :: ts =>
      let x := ts.foldl (fun a b => if a < b then b else a) t - (mxFmt fmt).emax + 127
      if x < 0 then 0 else if 254 < x then 254 else x.toNat

/-- A value times a power of two. -/
def FVal.scale (x : FVal) (k : Int) : FVal := match x with | .num n m e => .num n m (e + k) | v => v

/-! ### TIDW and TIDR (R197) -/

def State.tidOf (s : State) (slot t : Nat) : Line := (fget (s.job slot).tids t).getD 0

/-- The checks that both forms share: registers, marker, the TID (R197). -/
def State.tidChecks (s : State) : Res Unit :=
  let a := s.act.rd s.ir.a
  match s.regs [.s s.ir.a.toNat, .s s.ir.b.toNat] with
  | .error e => .error e
  | .ok _ => match s.asMarker with
    | .error e => .error e
    | .ok _ => if 1023 < a.val.toNat then trapped .bounds a.val else .ok ()

def State.tidwRes (s : State) : Res State :=
  let a := s.act.rd s.ir.a
  let b := s.act.rd s.ir.b
  match s.tidChecks with
  | .error e => .error e
  | .ok _ => match s.noPoison [a, b] with
    | .error e => .error e
    | .ok _ => match s.load .rd b.val 64 with
      | .error e => .error e
      | .ok (t, bytes, srcs) =>
        if t.anyPoison srcs then trapped .poison b.val
        else if tMalformed (Line.ofBytes bytes) then s.illegal
        else
          let j := t.job t.slot
          .error (.final ((t.setJob t.slot { j with tids := fset j.tids a.val.toNat (Line.ofBytes bytes) }).park (.tidw a.val.toNat) s.npc))

def execTidw (s : State) : Host.Outcome State Fault Refusal := s.run s.tidwRes

def State.tidrRes (s : State) : Res State :=
  let a := s.act.rd s.ir.a
  let b := s.act.rd s.ir.b
  match s.tidChecks with
  | .error e => .error e
  | .ok _ => match s.noPoison [b] with
    | .error e => .error e
    | .ok _ => match s.product [a.lab, b.lab, s.act.clab] with
      | .error e => .error e
      | .ok (t, l, f) =>
        match t.doStore b.val (toBytes 64 (s.tidOf s.slot a.val.toNat).toNat) l none with
        | .error e => .error e
        | .ok (u, _, g) => .error (.final (((u.dropTmp l).orFlags ((f &&& flagLW) ||| g)).park (.tidw a.val.toNat) s.npc))

def execTidr (s : State) : Host.Outcome State Fault Refusal := s.run s.tidrRes

/-- Every cluster has dropped its copy of the record, and the parked instruction retires (R197). -/
def execTidwRetire (s : State) : Host.Outcome State Fault Refusal :=
  .next (match s.parkedAt s.arg.n s.arg.m with
    | some a => match a.park with
      | some (.tidw _) => s.resume s.arg.n s.arg.m none none
      | _ => s
    | none => s)

/-! ### VFCVTN (R199 to R202) -/

/-- Lowest bit and width of code i on the narrow side (R200). -/
def codeAt (r : Line) (i : Nat) : Nat × Nat :=
  let l := tLoc (r &&& ~~~ (BitVec.ofNat 512 (2 ^ 64 - 1))) i
  (8 * l.addr.toNat + l.shift, l.width)

/-- Products for places in order, each over the sources' factors, the old label when something of the place is kept, the mask, CLAB. -/
def State.vcvtnLabs (s : State) (pre : List (List Handle)) (places : List (Bool × Bool × Handle)) : Res (State × List Handle × Word) :=
  s.products (places.map (fun p =>
    (if p.1 then some (pre ++ singles ((if p.2.1 then [p.2.2] else []) ++ s.gmaskLab ++ [s.act.clab])) else none, p.2.2)))

/-- The converted elements, flags and generator; one draw for each active element when stochastic rounding takes effect. -/
def narrowFold (mask : Word) (draws : Bool) (f : Nat → Nat → Nat × Word) : Nat → Nat → Word → List Nat × Word × Word
  | 0, _, rng => ([], 0, rng)
  | fuel + 1, i, rng =>
    if mask.getLsbD i then
      let rng' := if draws then rngStep rng else rng
      let r := f i (rng'.toNat % 65536)
      let t := narrowFold mask draws f fuel (i + 1) rng'
      (r.1 :: t.1, r.2 ||| t.2.1, t.2.2)
    else
      let t := narrowFold mask draws f fuel (i + 1) rng
      (0 :: t.1, t.2.1, t.2.2)

/-- The record and the scales of a VFCVTN, or ILLEGAL (R198, R199, R201). -/
def State.vcvtnRec (s : State) (toNarrow : Bool) : Res Line :=
  let r := s.tidOf s.slot (s.ir.imm.toNat % 1024)
  let b := (s.act.rd s.ir.b).val
  let ph := b.toNat / 2 ^ 32 % 64
  let len := tBlockLen r
  if r = 0 || !(tIsNarrow r || tIsMx r) then s.illegal
  else if (b &&& 0x7FFFFFC000000000) != 0 || (b.getLsbD 63 && !(toNarrow && tIsMx r)) then s.illegal
  else if (tIsMx r && ph != 0) || (!tIsMx r && len != 0 && decide (len ≤ ph)) then s.illegal
  else .ok r

/-- The scale code of element i (R201). -/
def vcvtnScale (r : Line) (b : Word) (i : Nat) : Nat :=
  if tIsMx r then b.toNat % 256
  else if tBlockLen r = 0 then 0x7F
  else b.toNat / 2 ^ (8 * ((b.toNat / 2 ^ 32 % 64 + i) / tBlockLen r)) % 256

/-- VFCVTN.N. A block with a NaN or an infinite element exports codes of 0, and so does a given scale of 0xFF, the MX NaN scale, for
which R106 gives no element codes (DESIGN CHOICE, log 48); a signalling NaN sets NV in every case (R114). -/
def State.vcvtnN (s : State) : Res State :=
  let va := s.ir.va
  let b := s.act.rd s.ir.b
  match s.regs [.v s.ir.d.toNat, .v s.ir.a.toNat, .v (s.ir.a.toNat + 1), .s s.ir.b.toNat] with
  | .error e => .error e
  | .ok _ => match s.vcvtnRec true with
    | .error e => .error e
    | .ok r => match s.freeV s.ir.vd with
      | .error e => .error e
      | .ok _ =>
        let a0 := s.act.rdV va
        let a1 := s.act.rdV (va + 1)
        let old := s.act.rdV s.ir.vd
        let elem (i : Nat) : FVal := (fmtOf .s).decode (if i < 16 then vElem a0.val 32 i else vElem a1.val 32 (i - 16))
        let mode := s.cvtRm
        let active := (List.range 32).filter (fun i => s.gmask.getLsbD i)
        let auto := mxScale (tFmt r) (active.map elem)
        let isAuto := b.val.getLsbD 63
        let blank := tIsMx r && active.any (fun i => match elem i with | .num _ _ _ => false | _ => true)
        let conv (i draw : Nat) : Nat × Word :=
          let x := if isAuto then auto else vcvtnScale r b.val i
          let v := (elem i).scale (127 - (x : Int))
          let nv : Word := if elem i = .nan true then flagNV else 0
          if tIsMx r then (if blank || x = 0xFF then (0, nv) else mxRound (tFmt r) (if mode = 6 then 0 else mode) v)
          else if x = 0xFF then (if (tNarrow r).s then ((tNarrow r).narCode, flagNR ||| nv) else (0, flagNV))
          else (tNarrow r).round mode draw v
        let res := narrowFold s.gmask (decide (mode = 6) && tIsNarrow r) conv 32 0 s.me.rngst
        let top := (codeAt r 31).1 + (codeAt r 31).2
        let hit (q : Nat) (on : Bool) : Bool := (List.range 32).any (fun i =>
          s.gmask.getLsbD i == on && decide ((codeAt r i).1 < 128 * q + 128) && decide (128 * q < (codeAt r i).1 + (codeAt r i).2))
        let place (q : Nat) : Bool × Bool × Handle := (hit q true || decide (top < 128 * q + 128), hit q false, old.quadLab q)
        match s.vcvtnLabs [a0.labs, a1.labs, [b.lab]] [place 0, place 1, place 2, place 3] with
        | .error e => .error e
        | .ok (t, ls, lf) =>
          let code (i : Nat) : Nat := if s.gmask.getLsbD i then res.1.getD i 0 else old.val.toNat / 2 ^ (codeAt r i).1 % 2 ^ (codeAt r i).2
          let v := ((List.range 32).map (fun i => code i * 2 ^ (codeAt r i).1)).sum + (if isAuto then auto * 2 ^ 504 else 0)
          let u := (t.writeV s.ir.vd (VReg.ofLabs (BitVec.ofNat 512 v) ls)).orFlags (res.2.1 ||| lf)
          .ok (u.setMe { u.me with rngst := res.2.2 })

def execVfcvtnN (s : State) : Host.Outcome State Fault Refusal := s.run s.vcvtnN

def State.vcvtnF (s : State) : Res State :=
  let vd := s.ir.vd
  let b := s.act.rd s.ir.b
  match s.regs [.v s.ir.d.toNat, .v (s.ir.d.toNat + 1), .v s.ir.a.toNat, .s s.ir.b.toNat] with
  | .error e => .error e
  | .ok _ => match s.vcvtnRec false with
    | .error e => .error e
    | .ok r => match s.freeV vd with
      | .error e => .error e
      | .ok _ => match s.freeV (vd + 1) with
        | .error e => .error e
        | .ok _ =>
          let a := s.act.rdV s.ir.va
          let d0 := s.act.rdV vd
          let d1 := s.act.rdV (vd + 1)
          let mode := cvtMode s.cvtRm 1
          let conv (i _draw : Nat) : Nat × Word :=
            let x := vcvtnScale r b.val i
            let c := a.val.toNat / 2 ^ (codeAt r i).1 % 2 ^ (codeAt r i).2
            let v := if x = 0xFF then .nan false else if tIsMx r then mxDecode (tFmt r) c else (tNarrow r).decode c
            (fmtOf .s).round mode 0 (v.scale ((x : Int) - 127))
          let res := narrowFold s.gmask false conv 32 0 s.me.rngst
          let any (q : Nat) (on : Bool) : Bool := (List.range 4).any (fun i => s.gmask.getLsbD (4 * q + i) == on)
          let place (q : Nat) : Bool × Bool × Handle := (any q true, any q false, if q < 4 then d0.quadLab q else d1.quadLab (q - 4))
          match s.vcvtnLabs [a.labs, [b.lab]] ((List.range 8).map place) with
          | .error e => .error e
          | .ok (t, ls, lf) =>
            let val (i : Nat) : Nat :=
              if s.gmask.getLsbD i then res.1.getD i 0 else if i < 16 then vElem d0.val 32 i else vElem d1.val 32 (i - 16)
            let u := t.writeV vd (VReg.ofLabs (vOf 32 ((List.range 16).map val)) (ls.take 4))
            .ok ((u.writeV (vd + 1) (VReg.ofLabs (vOf 32 ((List.range 16).map (fun i => val (i + 16)))) (ls.drop 4))).orFlags (res.2.1 ||| lf))

def execVfcvtnF (s : State) : Host.Outcome State Fault Refusal := s.run s.vcvtnF

end Sys2Proof.Machine
end

