-- ==== Sys2Proof/Machine/Tile.lean ====
section
/-! DEFINITION. Tile handles and tenure (R251 to R259, R275 to R281): opening, acquiring by blocks in key order, releasing,
splitting, giving, renewing, and vector accesses under a handle. -/

namespace Sys2Proof.Machine

/-! ### Handles (R251) -/

def handleVal (i : Nat) (e : THandle) : Word := BitVec.ofNat 64 (i + e.gen.toNat * 2 ^ 16)

/-- The open entry that a value names for a slot; any other value is stale (R251, R382). -/
def State.handleOf (s : State) (slot : Nat) (h : Word) : Option (Nat × THandle) :=
  let i := h.toNat % 2 ^ 16
  let e := s.thandle i
  if e.open_ && h == handleVal i e && e.tslot == slot then some (i, e) else none

def State.useHandle (s : State) (h : Word) : Res (Nat × THandle) :=
  match s.handleOf s.slot h with
  | some p => .ok p
  | none => trapped .stalehandle h

/-- The lowest index that is not open, from i on (R277). -/
def firstClosed (m : FMap THandle) : Nat → Nat → Option Nat
  | 0, _ => none
  | fuel + 1, i =>
    if 65536 ≤ i then none
    else match fget m i with
      | some e => if e.open_ then firstClosed m fuel (i + 1) else some i
      | none => some i

def State.freeHandle (s : State) : Option Nat := firstClosed s.handles (s.handles.length + 1) 0

/-! ### Blocks (R252) -/

def product4 (l : List (List Nat)) : List (List Nat) := l.foldr (fun xs acc => xs.flatMap (fun x => acc.map (fun t => x :: t))) [[]]

def dedupNat : List Nat → List Nat
  | [] => []
  | x :: l => if l.contains x then dedupNat l else x :: dedupNat l

/-- The cells along a dimension that a box touches after wrapping; an absent dimension has one (R252). -/
def cellsAlong (r : Line) (b : BitVec 256) (i : Nat) : List Nat :=
  if tExt r i = 0 then [0]
  else dedupNat ((List.range (bExt b i)).filterMap (fun (o : Nat) =>
    let c := tWrap r i (bOrg b i + o)
    if 0 ≤ c && c < tExt r i then some (c.toNat / 2 ^ tBlk r i) else none))

/-- The coordinates along a dimension of the stored elements of a cell; of a sparse dimension all kept elements of the groups
that the cell touches, in compressed coordinates (R100, R252). -/
def coordsOf (r : Line) (i cell : Nat) : List Nat :=
  if tExt r i = 0 then [0]
  else
    let cs := (List.range (2 ^ tBlk r i)).filterMap (fun o => let c := cell * 2 ^ tBlk r i + o; if c < tExt r i then some c else none)
    if tKeep r != 0 && i == tSpdim r then
      (dedupNat (cs.map (fun c => c / 12))).flatMap (fun g => (List.range (tKeep r)).map (fun j => g * tKeep r + j))
    else cs

/-- The addresses of the lines of a cell, each once. -/
def cellLines (r : Line) (cell : List Nat) : List Nat :=
  dedupNat ((product4 ((List.range 4).map (fun i => coordsOf r i (cell.getD i 0)))).flatMap (fun cs =>
    let l := tLoc r (tOffset r cs)
    [l.addr.toNat / 64, (l.addr + BitVec.ofNat 64 (l.bytes - 1)).toNat / 64]))

/-- The spaces that a tensor's addresses may name (R98). -/
def tensorSpace (x : Word) : Bool := x.toNat / 2 ^ 60 == 0 || x.toNat / 2 ^ 60 == 8 || x.toNat / 2 ^ 60 == 9

/-- The translation that a line's address uses, kept with the grant (R239). -/
def State.pageOf (s : State) (core : Nat) (x : Word) : List TEntry :=
  if x.toNat / 2 ^ 60 = 0 then
    match s.leaf core (x.toNat % 2 ^ 60) with
    | some (e, sh) => [{ tslot := (s.core core).tslot.toNat, size := sizeCode sh, page := BitVec.ofNat 64 (x.toNat % 2 ^ 60 / 2 ^ sh), leaf := e }]
    | none => []
  else []

/-- The lines of a block resolved for a core, with the translations (R239, R383). -/
def State.blockLines (s : State) (core : Nat) (sup : Bool) (k : Kind) : List Nat → Except (Cause × Word) (List Nat × List TEntry)
  | [] => .ok ([], [])
  | v :: l =>
    let x := BitVec.ofNat 64 (64 * v)
    if !tensorSpace x then .error (.xlate, x)
    else match s.resolve core sup k x with
      | .error e => .error e
      | .ok key =>
        match s.blockLines core sup k l with
        | .error e => .error e
        | .ok (ls, ps) =>
          .ok (if ls.contains (key / 64) then ls else key / 64 :: ls, s.pageOf core x ++ ps.filter (fun p => !(s.pageOf core x).contains p))

/-- A block's key: home module, then the address of the lowest line (R253). -/
def State.blockKey (s : State) (lines : List Nat) : Nat :=
  let low := lines.foldl Nat.min (lines.headD 0)
  let m := if isRemote (low * 64) then remoteModule (low * 64) else s.modId
  m * 2 ^ 64 + low

def insertBlock (b : Block) : List Block → List Block
  | [] => [b]
  | c :: l => if b.key ≤ c.key then b :: c :: l else c :: insertBlock b l

/-- The blocks of a box in key order, for tenure of a kind (R252, R253, R383). -/
def State.blocksOf (s : State) (core : Nat) (sup : Bool) (k : Kind) (r : Line) : List (List Nat) → Except (Cause × Word) (List Block)
  | [] => .ok []
  | c :: l =>
    match s.blockLines core sup k (cellLines r c) with
    | .error e => .error e
    | .ok (ls, ps) =>
      match s.blocksOf core sup k r l with
      | .error e => .error e
      | .ok bs => .ok (insertBlock ⟨s.blockKey ls, c, ls, ps⟩ bs)

def boxCells (r : Line) (b : BitVec 256) : List (List Nat) := product4 ((List.range 4).map (cellsAlong r b))

/-- Write tenure needs RD and WR, read tenure RD (R383). -/
def tenureKind (want : Nat) : Kind := if want = 2 then .both else .rd

def State.tblocks (s : State) (core : Nat) (sup : Bool) (want : Nat) (e : THandle) : Except (Cause × Word) (List Block) :=
  s.blocksOf core sup (tenureKind want) e.rcd (boxCells e.rcd e.box)

/-- The walks of a grant for core c take their times: one for each 64 KiB that consecutive lines of its blocks lie in (R238, R243). -/
def State.blockWalks (s : State) (c : Nat) (e : THandle) : State :=
  s.unitWalks c none ((boxCells e.rcd e.box).flatMap (fun cell => (cellLines e.rcd cell).map (fun v =>
    ({ addr := BitVec.ofNat 64 (64 * v), off := 0, len := 0, key := 0 } : Piece))))

/-- The key of an address through the translations of a grant (R239). -/
def State.grantKey (s : State) (e : THandle) (core : Nat) (sup : Bool) (k : Kind) (x : Word) : Except (Cause × Word) Nat :=
  let va := x.toNat % 2 ^ 60
  if x.toNat / 2 ^ 60 = 0 then
    match (e.blocks.flatMap (·.pages)).find? (fun p => va / 2 ^ sizeShift p.size == p.page.toNat) with
    | some p => .ok (leafKey s p.leaf (sizeShift p.size) va)
    | none => s.resolve core sup k x
  else s.resolve core sup k x

/-! ### Acquisition (R253 to R255, R277, R278) -/

/-- An acquisition begins: the activation parks until the last block is granted. -/
def State.startAcq (s : State) (i want : Nat) (d : BitVec 6) (l : Handle) (mode : BitVec 2) : Res State :=
  let e := s.thandle i
  match (if e.kind = 0 then s.tblocks s.cur s.act.sup want e else .ok e.blocks) with
  | .error (c, v) => .error (.access v c v)
  | .ok bs =>
    let e1 := { e with
      wait := true, want := want, holder := if e.kind = 0 then s.cl else e.holder, since := s.clock, blocks := bs,
      taken := if e.kind = 0 then 0 else e.taken, core := s.cur, sup := s.act.sup, reqFloor := s.act.floor }
    let t := if e.kind = 0 then s.blockWalks s.cur e else s
    .error (.final (((t.setThandle i e1).refC s.cl l).park (.tacq i d l mode s.clock) s.npc))

/-- A result in sd under a label made before. -/
def State.giveD (s : State) (v : Word) (l : Handle) (f : Word) : State := (s.writeS s.ir.d v l).orFlags f

/-- The checks of the forms with a destination: registers, marker, POISON (R276). -/
def State.tileChecks (s : State) (d : Bool) (srcs : List (BitVec 6)) : Res Unit :=
  match s.regs ((if d then [.s s.ir.d.toNat] else []) ++ srcs.map (fun r => .s r.toNat)) with
  | .error e => .error e
  | .ok _ => match s.asMarker with
    | .error e => .error e
    | .ok _ => s.noPoison (srcs.map s.act.rd)

def State.topenRes (s : State) : Res State :=
  let a := s.act.rd s.ir.a
  let b := s.act.rd s.ir.b
  let c := s.act.rd s.ir.c
  match s.tileChecks true [s.ir.a, s.ir.b, s.ir.c] with
  | .error e => .error e
  | .ok _ => match s.product [a.lab, b.lab, c.lab, s.act.clab] with
    | .error e => .error e
    | .ok (t, l, f) =>
      let r := t.tidOf t.slot a.val.toNat
      if 1023 < a.val.toNat || r = 0 || tIsMx r then .ok (t.giveD 4 l f)
      else match t.load .rd b.val 32 with
        | .error e => .error e
        | .ok (u, bytes, _) =>
          let box : BitVec 256 := BitVec.ofNat 256 (ofBytes bytes)
          let acq := c.val.toNat
          if 2 < acq || boxMalformed r box then .ok (u.giveD 3 l f)
          else match u.freeHandle with
            | none => .ok (u.giveD 1 l f)
            | some i =>
              let e : THandle := { open_ := true, gen := (u.thandle i).gen, tslot := u.slot, tid := BitVec.ofNat 10 a.val.toNat, box := box, rcd := r }
              let w := u.setThandle i e
              if acq = 0 then .ok (w.giveD (handleVal i e) l f) else (w.orFlags f).startAcq i acq s.ir.d l 1

def execTopen (s : State) : Host.Outcome State Fault Refusal := s.run s.topenRes

def State.tacqRes (s : State) (want : Nat) : Res State :=
  let a := s.act.rd s.ir.a
  match s.tileChecks true [s.ir.a] with
  | .error e => .error e
  | .ok _ => match s.useHandle a.val with
    | .error e => .error e
    | .ok (i, e) => match s.product [a.lab, s.act.clab] with
      | .error e => .error e
      | .ok (t, l, f) =>
        if e.wait then .ok (t.giveD 2 l f)
        else if e.kind != 0 && e.holder != s.cl then .ok (t.giveD 2 l f)
        else if e.kind != 0 && !e.stale then .ok (t.giveD 1 l f)
        else (t.orFlags f).startAcq i want s.ir.d l 0

def execTacqRd (s : State) : Host.Outcome State Fault Refusal := s.run (s.tacqRes 1)
def execTacqWr (s : State) : Host.Outcome State Fault Refusal := s.run (s.tacqRes 2)

/-! ### Release (R257) -/

/-- Whether an MXE or BTE command still names a handle. -/
def Cluster.namesHandle (k : Cluster) (i : Nat) : Bool :=
  let of_ (m : MxCmd) : Bool := m.a.handle == some i || m.b.handle == some i
  k.mxq.toList.any (fun q => (match q.active with | some m => of_ m | none => false) || (match q.shadow with | some m => of_ m | none => false))
    || k.bte.toList.any (fun b => match b.cur with
      | some r => b.state == 1 && lf r 64 3 == 1 && lw r 320 != 0 && (lw r 320).toNat % 2 ^ 16 == i
      | none => false)
def State.commandsName (s : State) (i : Nat) : Bool := s.clusters.any (fun p => p.2.namesHandle i)

/-- Every stalled core tries again. -/
def State.unstall (s : State) : State := { s with cores := s.cores.map (fun p => (p.1, { p.2 with stalled := false })) }

/-- A release: stalled cores try again, and so do the successor records that wait (R256, R328). -/
def State.released (s : State) : State := s.unstall.retrySuccs

def THandle.lines (e : THandle) : List Nat := dedupNat ((e.blocks.take e.taken).flatMap (·.lines))

/-- Whether a line is held for write by a handle other than i: a part of a split handle that shares it (R258). -/
def State.sharedLine (s : State) (i l : Nat) : Bool := s.handles.any (fun p => p.1 != i && p.2.kind == 2 && p.2.holds l)

/-- The lines of a handle that no other handle holds for write: those whose working version ends with its release. -/
def State.ownLines (s : State) (i : Nat) : List Nat := (s.thandle i).lines.filter (fun l => !s.sharedLine i l)

/-- The keys of the bytes of a handle's elements, in the lines that it shares. -/
def State.sharedKeys (s : State) (i : Nat) : List Nat :=
  let e := s.thandle i
  if !e.lines.any (s.sharedLine i) then []
  else (e.blocks.take e.taken).flatMap (fun b =>
    (product4 ((List.range 4).map (fun d => coordsOf e.rcd d (b.cell.getD d 0)))).flatMap (fun cs =>
      let l := tLoc e.rcd (tOffset e.rcd cs)
      (List.range l.bytes).filterMap (fun j => match s.grantKey e e.core e.sup .rd (l.addr + BitVec.ofNat 64 j) with
        | .ok k => if s.sharedLine i (k / 64) then some k else none
        | .error _ => none)))

/-- The part of a shared line that is a released handle's becomes released: its elements' bytes, their granules' tags and the line's full
bit; the working version stays with the rest (R257, R258, R292; DEDUCED, log 44). -/
def State.shareKeys (s : State) (keys : List Nat) (t : Time) : State :=
  let gs := dedupNat (keys.map (· / 16))
  let s1 := { s with mem := keys.foldl (fun m k => match fget s.wmem k with | some b => Memory.write m k b | none => m) s.mem }
  let s2 := gs.foldl (fun s g => match fget s.wtags g with | some h => s.setTagH false (g * 16) h | none => s) s1
  (dedupNat (keys.map (· / 64))).foldl (fun s l => (s.setFull false (l * 64) (s.full true (l * 64))).setStamp l ⟨t, t⟩) s2

/-- The working version of lines becomes the released version, every line stamped (R257). -/
def State.mergeLines (s : State) (lines : List Nat) (t : Time) : State :=
  let mine (key : Nat) : Bool := lines.contains (key / 64)
  let bytes := s.wmem.filter (fun p => mine p.1)
  let tags := s.wtags.filter (fun p => mine (p.1 * 16))
  let bits := s.wfe.filter (fun p => mine (p.1 * 8))
  let s1 := { s with
    mem := bytes.foldl (fun m p => Memory.write m p.1 p.2) s.mem
    fe := bits.foldl (fun m p => if p.2 then ferase m p.1 else fset m p.1 false) s.fe
    wstamps := s.wstamps.filter (fun p => !lines.contains p.1)
    wmem := s.wmem.filter (fun p => !mine p.1), wtags := s.wtags.filter (fun p => !mine (p.1 * 16)), wfe := s.wfe.filter (fun p => !mine (p.1 * 8)) }
  let s2 := tags.foldl (fun s p => (s.setTagH false (p.1 * 16) p.2).setTab (tabOf (p.1 * 16)) (tunref ((s.setTagH false (p.1 * 16) p.2).tab (tabOf (p.1 * 16))) p.2)) s1
  lines.foldl (fun s l => s.setStamp l ⟨t, t⟩) s2

/-- A handle's tenure ends; a write release merges the working version. Its stamp is the greatest of G, the times of the holder's
accesses under the tenure, and the floor of a releasing activation of the holder (R257). An acquisition that waits for a grant afresh goes
on: its blocks are still to be translated (R239, R278). -/
def State.releaseHandle (s : State) (i c : Nat) (floor : Time) : State :=
  let e := s.thandle i
  let lines := s.ownLines i
  let g := e.lines.foldl (fun t l => tmax t (s.wstamp l).rts) e.stamp
  let t := if c / 8 = e.holder then tmax floor g else g
  let s1 := if e.kind = 2 then (s.shareKeys (s.sharedKeys i) t).mergeLines lines t else s
  (s1.setThandle i { e with kind := 0, blocks := [], taken := 0, stale := e.wait, holder := if e.wait then e.holder else 0 }).released

/-- The entry is freed and its generation advances, from 0xFF_FFFF back to 1 (R251). -/
def State.closeHandle (s : State) (i : Nat) : State :=
  let g := (s.thandle i).gen
  s.setThandle i { gen := if g = 0xFFFFFF then 1 else g + 1 }

/-- The parked activation that acquires a handle: core, slot, destination, label, mode. -/
def State.acquirer (s : State) (i : Nat) : Option (Nat × Act × BitVec 6 × Handle × BitVec 2) :=
  s.cores.findSome? (fun p => p.2.parked.findSome? (fun a => match a.park with
    | some (.tacq h d l m _) => if h = i then some (p.1, a, d, l, m) else none
    | _ => none))

/-- A parked acquisition ends with a value, under its label. -/
def State.acqResult (s : State) (c : Nat) (a : Act) (d : BitVec 6) (l : Handle) (v : Word) (floor : Option Time) : State :=
  (s.resumeL c a.slot (some (d, v, l)) floor).unrefC (c / 8) l

/-- A parked activation takes a trap at the instruction it waits at. -/
def State.trapParked (s : State) (c : Nat) (a : Act) (cause : Cause) (v : Word) : State :=
  s.wake c a.slot (fun b => { b with pend := some { cause := cause, xval := v, xpc := b.xpcOf } })

def State.trelRes (s : State) : Res State :=
  let a := s.act.rd s.ir.a
  match s.tileChecks false [s.ir.a] with
  | .error e => .error e
  | .ok _ => match s.useHandle a.val with
    | .error e => .error e
    | .ok (i, e) =>
      if e.kind = 0 || e.holder != s.cl then trapped .prot a.val
      else .error (.final (s.park (.trel i e.gen 0) s.npc))

def execTrel (s : State) : Host.Outcome State Fault Refusal := s.run s.trelRes

/-- An acquisition in progress on a handle ends with code 3 (R278). -/
def State.endAcq (s : State) (i : Nat) : State :=
  match (if (s.thandle i).wait then s.acquirer i else none) with
  | some (c, b, d, l, _) => (s.letGoAcq i 0).acqResult c b d l 3 none
  | none => s

def State.tcloseRes (s : State) : Res State :=
  let a := s.act.rd s.ir.a
  match s.tileChecks false [s.ir.a] with
  | .error e => .error e
  | .ok _ => match s.useHandle a.val with
    | .error e => .error e
    | .ok (i, e) =>
      let s1 := s.endAcq i
      if (s1.thandle i).kind = 0 then .ok (s1.closeHandle i).unstall else .error (.final (s1.park (.trel i e.gen 1) s1.npc))

def execTclose (s : State) : Host.Outcome State Fault Refusal := s.run s.tcloseRes

/-- A parked release takes effect on its handle, which is open under the generation that it named: a TREL, a TCLOSE, which first
ends an acquisition begun meanwhile, or a TGIVE. A tenure that has gone by then needs no release. The copies that a receiving
cluster holds of the lines are dropped: from now on it meets the working version (R226, R258). -/
def State.releaseNow (s : State) (c : Nat) (floor : Time) (i op : Nat) : State :=
  let e := s.thandle i
  if op = 1 then
    let s1 := s.endAcq i
    (if (s1.thandle i).kind = 0 then s1.unstall else s1.releaseHandle i c floor).closeHandle i
  else if e.kind = 0 || e.holder != c / 8 then s
  else if op = 0 then s.releaseHandle i c floor
  else
    let k := op - 2
    let x := s.cluster k
    let s1 := (s.setThandle i { e with holder := k }).setCluster k { x with ltime := tmax x.ltime floor }
    ((dedupNat ((e.blocks.take e.taken).flatMap (·.lines))).foldl (fun s l => s.dropLine k l) s1).unstall

/-- Commands and earlier accesses have settled, and the parked release of core n, slot m takes effect (R257, R258). -/
def execTenureRelease (s : State) : Host.Outcome State Fault Refusal :=
  .next (match s.parkedAt s.arg.n s.arg.m with
    | some a => match a.park with
      | some (.trel i gen op) =>
        let e := s.thandle i
        if !e.open_ || e.gen != gen then s.resume s.arg.n s.arg.m none none
        else if s.commandsName i then s
        else (s.releaseNow s.arg.n a.floor i op).resume s.arg.n s.arg.m none none
      | _ => s
    | none => s)

/-! ### Grants (R253 to R255, R259) -/

/-- Whether two tenures of these kinds conflict (R252). -/
def kindsConflict (a b : Nat) : Bool := a == 2 || b == 2
def shareLine (a b : List Nat) : Bool := a.any (fun l => b.contains l)

/-- The block that an acquisition waits for. -/
def THandle.next (e : THandle) : Option Block := if e.wait && e.kind == 0 then e.blocks[e.taken]? else none

/-- Whether one request came to a block's queue before another: first come, then by floor at issue, then by core (R253). -/
def THandle.ahead (x e : THandle) : Bool :=
  decide (x.since.toNat < e.since.toNat) || (x.since == e.since &&
    ((x.reqFloor != e.reqFloor && tle x.reqFloor e.reqFloor) || (x.reqFloor == e.reqFloor && decide (x.core < e.core))))

/-- Whether another handle's blocks, or an earlier request in a block's queue, keep handle i from a block (R252, R253). -/
def State.blocked (s : State) (i : Nat) (e : THandle) (b : Block) : Bool :=
  s.handles.any (fun p => p.1 != i &&
    ((let k := if p.2.kind = 0 then p.2.want else p.2.kind
      kindsConflict k e.want && (p.2.blocks.take p.2.taken).any (fun x => shareLine x.lines b.lines)) ||
     (match p.2.next with
      | some x => kindsConflict p.2.want e.want && shareLine x.lines b.lines && p.2.ahead e
      | none => false)))

/-- Page tenure of this module for a block, where its pages allow it: a page of this module through its own home, a page of another
module once the home there has granted it (R259). -/
def State.takePages (s : State) (write : Bool) : List Nat → Option State
  | [] => some s
  | l :: ls =>
    let g := l / 1024
    let p := (fget s.pages g).getD {}
    let others := p.holders.filter (fun m => m != s.modId)
    if p.recalled || (others != [] && (write || p.write)) then none
    else if isRemote (l * 64) then
      (if p.holders.contains s.modId && (p.write || !write) then s.takePages write ls else none)
    else
      let p1 := { p with holders := s.modId :: others, write := p.write || write }
      ({ s with pages := fset s.pages g p1 }).takePages write ls

/-- The last block is granted: stamps, the holder's floor, and the result (R254, R255). -/
def State.granted (s : State) (i c : Nat) (a : Act) (d : BitVec 6) (l : Handle) (mode : BitVec 2) : State :=
  let e := s.thandle i
  let lines := dedupNat (e.blocks.flatMap (·.lines))
  let skip := (s.cluster (c / 8)).skip
  let value (e : THandle) : Word := if mode = 0 then 0 else if mode = 1 then handleVal i e else e.stamp.setWidth 64
  if e.want = 2 then
    let g := lines.foldl (fun t x => tmax t (s.stamp x).rts) a.floor + skip
    let e1 := { e with kind := 2, wait := false, want := 0, stamp := g, holder := c / 8 }
    let k := s.cluster (c / 8)
    let s1 := (s.setThandle i e1).setCluster (c / 8) { k with ltime := tmax k.ltime g }
    (lines.foldl (fun s x => s.dropLine (c / 8) x) s1).acqResult c a d l (value e1) (some g)
  else
    let t := if mode = 2 then tmax e.stamp (a.floor + e.ask) else a.floor + skip
    let e1 := { e with kind := 1, wait := false, want := 0, stamp := t, holder := c / 8 }
    let s1 := lines.foldl (fun s x => s.setStamp x { s.stamp x with rts := tmax (s.stamp x).rts t }) (s.setThandle i e1)
    s1.acqResult c a d l (value e1) none

/-- The walker translates the blocks of a waiting acquisition anew, which takes them from the first again (R239). -/
def State.rewalk (s : State) (i c : Nat) (a : Act) (mode : BitVec 2) : State :=
  let e := s.thandle i
  match s.tblocks e.core e.sup e.want e with
  | .error (x, v) => ((s.unitWalks c none [{ addr := v, off := 0, len := 0, key := 0 }]).letGoAcq i mode).trapParked c a x v
  | .ok bs => (s.blockWalks c e).setThandle i { e with blocks := bs, taken := 0, stale := false, holder := c / 8, since := s.clock }

/-- A handle marked stale is granted afresh: the old tenure is released and the walker translates anew (R239). -/
def State.afresh (s : State) (i c : Nat) (a : Act) (mode : BitVec 2) : State :=
  (s.releaseHandle i c a.floor).rewalk i c a mode

/-- The waiting acquisition of handle n is granted its next block (R253). -/
def execTenureBlockGrant (s : State) : Host.Outcome State Fault Refusal :=
  let i := s.arg.n
  let e := s.thandle i
  .next (match (if e.wait then s.acquirer i else none) with
    | none => s
    | some (c, a, d, l, mode) =>
      if e.kind != 0 then (if s.commandsName i then s else s.afresh i c a mode)
      else if e.stale then s.rewalk i c a mode
      else match e.blocks[e.taken]? with
        | none => s.granted i c a d l mode
        | some b =>
          if s.blocked i e b then s
          else match s.takePages (e.want == 2) b.lines with
            | none => s
            | some s1 =>
              let s2 := s1.setThandle i { e with taken := e.taken + 1, since := s.clock }
              if e.taken + 1 = e.blocks.length then s2.granted i c a d l mode else s2)

/-- Whether a wait that began at a clock has passed TWAIT of a cluster (R256). -/
def State.waitOver (s : State) (k : Nat) (since : Word) : Bool := decide ((s.cluster k).twait * Config.cyclesPerUs < (s.clock - since).toNat)

/-! ### Pages between modules (R259) -/

/-- Module m asks for page n, for write with the flag: a conflict makes the home recall the page; else the request is granted. The
stamp of the grant is formed as R255 forms G, of the floor and the TSKIP that the request brings from its cluster. For a page of
another module and this module as m, the home there has granted the page. A dead module gets no grant; heartbeats go to a holder
(R406, R407). -/
def execPageRecall (s : State) : Host.Outcome State Fault Refusal :=
  let p := (fget s.pages s.arg.n).getD {}
  let conflict := p.holders.any (fun m => m != s.arg.m) && (p.write || s.arg.flag)
  let away := isRemote (s.arg.n * 65536)
  .next (if conflict && !s.deadModule s.arg.m then { s with pages := fset s.pages s.arg.n { p with recalled := true } }
    else if p.recalled || (s.arg.m = s.modId && !away) || s.deadModule s.arg.m || (away && s.deadModule (remoteModule (s.arg.n * 65536))) then s
    else if s.arg.m = s.modId then { s with pages := fset s.pages s.arg.n { p with holders := [s.modId], write := s.arg.flag } }.unstall.linkPeer (remoteModule (s.arg.n * 65536))
    else
      let skip : Time := BitVec.ofNat 48 (2 ^ (8 + s.arg.k % 23))
      let lines := (List.range 1024).map (fun i => s.arg.n * 1024 + i)
      let g := tmax (match s.stamps.filter (fun q => lines.contains q.1) with
        | [] => s.stampBase
        | q :: l => l.foldl (fun t q => tmax t q.2.rts) q.2.rts) (BitVec.ofNat 48 s.arg.data.toNat) + skip
      { s with pages := fset s.pages s.arg.n { p with
        holders := s.arg.m :: p.holders.filter (fun m => m != s.arg.m), write := s.arg.flag, stamp := g } }.linkPeer s.arg.m)

/-- One granule of a page that another module held for write comes back: its bytes, its tag, which its label's table takes in, the
full bit and the stamps of its line (R127, R259). -/
def State.granuleBack (s : State) : State :=
  let key := s.arg.n * 65536 + s.arg.k % 4096 * 16
  let slot := match s.arg.msg with | some m => (s.slotOf m.dtid.toNat).getD 0 | none => 0
  let lab : Lab := match s.arg.msg with | some m => m.label | none => some [0]
  let s1 := ((s.wrBytes false key (s.arg.bytes.take 16)).setFull false key (!s.arg.flag)).setStamp (key / 64)
    ⟨BitVec.ofNat 48 s.arg.data.toNat, BitVec.ofNat 48 s.arg.word.toNat⟩
  match s1.setTag false key slot lab with
  | none => s
  | some t => t

/-- Once the block tenures inside page n have ended, module m returns it. Before that, a module that held it for write brings its
released version with the stamps, granule by granule: an event with bytes. -/
def execPageReturn (s : State) : Host.Outcome State Fault Refusal :=
  let p := (fget s.pages s.arg.n).getD {}
  let inside := s.handles.any (fun h => (h.2.blocks.take h.2.taken).any (fun b => b.lines.any (fun l => l / 1024 == s.arg.n)))
  .next (if !p.recalled || !p.holders.contains s.arg.m || (s.arg.m == s.modId && inside) then s
    else if s.arg.bytes != [] then (if p.write && s.arg.m != s.modId then s.granuleBack else s)
    else
      let left := p.holders.filter (fun m => m != s.arg.m)
      { s with pages := if left = [] then ferase s.pages s.arg.n else fset s.pages s.arg.n { p with holders := left } }.released)

/-! ### TSPLIT, TGIVE, TRENEW, TSTAT (R279, R280) -/

def putBox (b : BitVec 256) (i : Nat) (org : Int) (ext : Nat) : BitVec 256 :=
  let m : BitVec 256 := BitVec.ofNat 256 (2 ^ 64 - 1) <<< (64 * i)
  (b &&& ~~~ m) ||| (BitVec.ofNat 256 ((org.emod (2 ^ 32)).toNat + ext * 2 ^ 32) <<< (64 * i))

def State.tsplitRes (s : State) : Res State :=
  let a := s.act.rd s.ir.a
  let b := s.act.rd s.ir.b
  let dim := s.ir.md.toNat % 4
  match s.tileChecks true [s.ir.a, s.ir.b] with
  | .error e => .error e
  | .ok _ => match s.useHandle a.val with
    | .error e => .error e
    | .ok (i, e) =>
      if e.kind != 2 || e.holder != s.cl then trapped .prot a.val
      else match s.product [a.lab, b.lab, s.act.clab] with
        | .error e => .error e
        | .ok (t, l, f) =>
          let off := b.val.toNat
          let cut := bOrg e.box dim + off
          if tExt e.rcd dim = 0 || off = 0 || bExt e.box dim ≤ off then .ok (t.giveD 3 l f)
          else if cut.emod (2 ^ tBlk e.rcd dim) != 0 || tCirc e.rcd dim then .ok (t.giveD 2 l f)
          else match t.freeHandle with
            | none => .ok (t.giveD 1 l f)
            | some j =>
              let cell := cut.fdiv (2 ^ tBlk e.rcd dim)
              let up (x : Block) : Bool := decide (cell ≤ (x.cell.getD dim 0 : Int))
              let lo := e.blocks.filter (fun x => !up x)
              let hi := e.blocks.filter up
              let e1 := { e with box := putBox e.box dim (bOrg e.box dim) off, blocks := lo, taken := lo.length }
              let e2 := { e with
                box := putBox e.box dim cut (bExt e.box dim - off), blocks := hi, taken := hi.length, gen := (t.thandle j).gen, wait := false, want := 0 }
              .ok (((t.setThandle i e1).setThandle j e2).giveD (handleVal j e2) l f)

def execTsplit (s : State) : Host.Outcome State Fault Refusal := s.run s.tsplitRes

def State.tgiveRes (s : State) : Res State :=
  let a := s.act.rd s.ir.a
  let b := s.act.rd s.ir.b
  match s.tileChecks false [s.ir.a, s.ir.b] with
  | .error e => .error e
  | .ok _ => match s.useHandle a.val with
    | .error e => .error e
    | .ok (i, e) =>
      if e.kind = 0 || e.holder != s.cl || e.wait || 1151 < b.val.toNat || !s.inSub s.slot (8 * b.val.toNat) then trapped .prot a.val
      else if b.val.toNat = s.cl then .ok s
      else .error (.final (s.park (.trel i e.gen (2 + b.val.toNat)) s.npc))

def execTgive (s : State) : Host.Outcome State Fault Refusal := s.run s.tgiveRes

def State.trenewRes (s : State) : Res State :=
  let a := s.act.rd s.ir.a
  let b := s.act.rd s.ir.b
  match s.tileChecks true [s.ir.a, s.ir.b] with
  | .error e => .error e
  | .ok _ => match s.useHandle a.val with
    | .error e => .error e
    | .ok (i, e) =>
      if e.kind = 0 || e.holder != s.cl then trapped .prot a.val
      else match s.product [a.lab, b.lab, s.act.clab] with
        | .error e => .error e
        | .ok (t, l, f) =>
          if e.kind = 2 then .ok (t.giveD (e.stamp.setWidth 64) l f)
          else
            let n : Time := if b.val = 0 then t.myCluster.skip else if 2 ^ 30 < b.val.toNat then 2 ^ 30 else BitVec.ofNat 48 b.val.toNat
            if e.stale && !e.wait then ((t.setThandle i { e with ask := n }).orFlags f).startAcq i 1 s.ir.d l 2
            else
            let x := tmax e.stamp (t.act.floor + n)
            let lines := dedupNat (e.blocks.flatMap (·.lines))
            let u := lines.foldl (fun s y => s.setStamp y { s.stamp y with rts := tmax (s.stamp y).rts x }) (t.setThandle i { e with stamp := x })
            .ok (u.giveD (x.setWidth 64) l f)

def execTrenew (s : State) : Host.Outcome State Fault Refusal := s.run s.trenewRes

def State.tstatWord (s : State) (h : Word) : Word :=
  match s.handleOf s.slot h with
  | none => 0x10
  | some (_, e) =>
    BitVec.ofNat 64 (e.kind + (if e.kind != 0 && e.holder == s.cl then 4 else 0) + (if e.stale then 8 else 0) + (if e.wait then 32 else 0)
      + e.tid.toNat * 2 ^ 6 + (if e.kind != 0 || e.wait then e.holder else 0) * 2 ^ 16)

def execTstat (s : State) : Host.Outcome State Fault Refusal :=
  let a := s.act.rd s.ir.a
  s.run (match s.tileChecks true [s.ir.a] with
    | .error e => .error e
    | .ok _ => match s.product [a.lab, s.act.clab] with
      | .error e => .error e
      | .ok (t, l, f) => .ok (t.giveD (s.tstatWord a.val) l f))

/-! ### VLDT and VSTT (R281) -/

/-- Whether EW fits the format of the handle's record (R281). -/
def ewFits (r : Line) (ew : BitVec 2) : Bool :=
  match ew.toNat with
  | 3 => tFmt r == 0
  | 2 => tFmt r == 1 || tFmt r == 5
  | 1 => tFmt r == 2 || tFmt r == 3
  | _ => tFmt r == 4 || (tFmt r == 6 && !tPack r)

/-- The offsets of sb, dimension by dimension. -/
def offs16 (w : Word) : List Int := (List.range 4).map (fun i => (BitVec.ofNat 16 (w.toNat / 2 ^ (16 * i))).toInt)

/-- The codes of an element are those below this: a narrow code of less than eight bits leaves the rest of its byte zero, and the rest is
ignored on reading (R91). -/
def codeSpan (r : Line) (bits : Nat) : Nat :=
  if tIsNarrow r then 2 ^ Nat.min bits (lf r 324 1 + lf r 325 4 + lf r 329 3) else 2 ^ bits
def codeBytes (r : Line) (b : List Byte) : List Byte := if tIsNarrow r then toBytes b.length (ofBytes b % codeSpan r (8 * b.length)) else b

/-- An element inside the tensor; for a sparse tensor its group's metadata says whether and where it is kept. The metadata lie in a space
that a tensor may name, and another slot's tag forbids them (R98, R382). -/
def State.placeOf (s : State) (core : Nat) (sup : Bool) (r : Line) (cs : List Nat) : Except (Cause × Word) (Option Loc) :=
  if tKeep r = 0 then .ok (some (tLoc r (tOffset r cs)))
  else if !tensorSpace (tMetaAddr (lw r 448) r cs) then .error (.xlate, tMetaAddr (lw r 448) r cs)
  else match s.pieces core sup .rd (tMetaAddr (lw r 448) r cs) 4 with
    | .error e => .error e
    | .ok ps =>
      if ps.any (fun p => s.foreignTag false p.key (s.core core).tslot.toNat) then .error (.prot, tMetaAddr (lw r 448) r cs)
      else
      let w := ofBytes (ps.flatMap (fun p => s.rdBytes false p.key p.len))
      match keptIndex (tKeep r) w (cs.getD (tSpdim r) 0 % 12) with
      | some j => .ok (some (tLoc r (tOffset r (tCompress r cs j))))
      | none => .ok none

/-- The elements of VLDT and VSTT: the mask without those beyond the box, and each place; BOUNDS as R281 and R274 give. -/
def State.tileElems (s : State) (e : THandle) (sb : Word) (dim : Nat) (mask : Word) :
    List Nat → Except (Cause × Word) (List (Nat × Option Word))
  | [] => .ok []
  | i :: l =>
    let os := (List.range 4).map (fun d => (offs16 sb).getD d 0 + (if d = dim then (i : Int) else 0))
    if !mask.getLsbD i || (bExt e.box dim : Int) ≤ os.getD dim 0 then s.tileElems e sb dim mask l
    else
      let r := e.rcd
      match tInside r (boxAt e.box os) with
      | none =>
        if !tPermit r then .error (.bounds, packOffsets os)
        else match s.tileElems e sb dim mask l with
          | .error x => .error x
          | .ok ps => .ok ((i, none) :: ps)
      | some cs =>
        match s.placeOf s.cur s.act.sup r cs with
        | .error x => .error x
        | .ok p => match s.tileElems e sb dim mask l with
          | .error x => .error x
          | .ok ps => .ok ((i, p.map (·.addr)) :: ps)

/-- The pieces of the elements that are stored, through the grant's translations (R239). -/
def State.tilePieces (s : State) (e : THandle) (k : Kind) (n : Nat) : List (Nat × Option Word) → Except (Cause × Word) (List (Nat × Piece))
  | [] => .ok []
  | (_, none) :: l => s.tilePieces e k n l
  | (i, some x) :: l =>
    match (splitRange x (n + 1) 0 n).foldr (fun p acc => match acc with
        | .error y => .error y
        | .ok ps => match s.grantKey e s.cur s.act.sup k p.1 with
          | .error y => .error y
          | .ok key => .ok ((⟨p.1, p.2.1, p.2.2, key, false⟩ : Piece) :: ps)) (Except.ok []) with
    | .error y => .error y
    | .ok ps => match s.tilePieces e k n l with
      | .error y => .error y
      | .ok qs => .ok (ps.map (fun p => (i, p)) ++ qs)

/-- A piece read under a handle: the working version under write tenure, else the current data (R281). Each source has its element
and the address. -/
def State.readTenured (s : State) (write : Bool) : List (Nat × Piece) → Res (State × List (Nat × List Byte) × List (Nat × Word × LSrc))
  | [] => .ok (s, [], [])
  | (i, p) :: l =>
    if s.foreignTag write p.key s.slot then trapped .prot p.addr
    else
      let t := s.timeLoad write p.key
      match t.readTenured write l with
      | .error e => .error e
      | .ok (u, bs, srcs) => .ok (u, (i, s.rdBytes write p.key p.len) :: bs, (i, p.addr, s.tagSrc write p.key) :: srcs)

/-- VLDT as it is performed, at issue and again by ERET (R281, R357). -/
def State.doVldt (s : State) (iss : Issue) (h sb : Word) (dim : BitVec 2) (ew : BitVec 2) (mask : Word) (d : BitVec 4) (pre mkl : List Handle) :
    Res (State × List RegWrite × Word) :=
  match s.useHandle h with
  | .error e => .error e
  | .ok (_, e) =>
    if e.kind = 0 || e.holder != s.cl then trapped .prot h
    else match s.tileElems e sb dim.toNat mask (List.range (ewCount ew)) with
      | .error (c, v) => .error (.trap c v)
      | .ok es => match s.tilePieces e .rd (ewBytes ew) es with
        | .error (c, v) => .error (.trap c v)
        | .ok ps => match s.readTenured (e.kind == 2) ps with
          | .error x => .error x
          | .ok (t, bytes, srcs) =>
            let zeros := (es.filter (fun p => p.2.isNone)).map (fun p => (p.1, List.replicate (ewBytes ew) (0 : Byte)))
            let on := maskOf 64 (fun i => es.any (fun p => p.1 == i))
            t.vLoaded iss ew on d (singles pre) mkl (bytes.map (fun p => (p.1, codeBytes e.rcd p.2)) ++ zeros) ((byAddr srcs).map (fun p => (p.1, p.2.2)))

/-- The checks that VLDT and VSTT share, with the handle (R281). -/
def State.tileVecChecks (s : State) (write : Bool) : Res THandle :=
  let a := s.act.rd s.ir.a
  let b := s.act.rd s.ir.b
  let c := s.act.rd s.ir.c
  match s.regs [.v s.ir.d.toNat, .s s.ir.a.toNat, .s s.ir.b.toNat, .s s.ir.c.toNat] with
  | .error e => .error e
  | .ok _ => match s.noPoison [a, b, c] with
    | .error e => .error e
    | .ok _ => match s.useHandle a.val with
      | .error e => .error e
      | .ok (_, e) =>
        if !ewFits e.rcd s.ir.ew then s.illegal
        else if 3 < c.val.toNat then trapped .bounds c.val
        else if e.kind = 0 || e.holder != s.cl || (write && e.kind != 2) then trapped .prot a.val
        else
          let os := offs16 b.val
          let bad := (List.range 4).any (fun d =>
            if d = c.val.toNat then decide (os.getD d 0 < 0)
            else if tExt e.rcd d = 0 then os.getD d 0 != 0
            else decide (os.getD d 0 < 0) || decide ((bExt e.box d : Int) ≤ os.getD d 0))
          if bad then trapped .bounds b.val else .ok e

/-- Whether the box lies in the core's own portion through the local window (R281). -/
def State.boxShort (s : State) (e : THandle) : Bool :=
  (product4 ((List.range 4).map (fun i => List.range (Nat.max 1 (bExt e.box i))))).all (fun os =>
    match tInside e.rcd (boxAt e.box (os.map Int.ofNat)) with
    | none => true
    | some cs => let l := tLoc e.rcd (tOffset e.rcd cs); ownShort s.cur l.addr l.bytes)

def State.vldtRes (s : State) : Res State :=
  let a := s.act.rd s.ir.a
  let b := s.act.rd s.ir.b
  let c := s.act.rd s.ir.c
  match s.tileVecChecks false with
  | .error e => .error e
  | .ok e => match s.tileElems e b.val c.val.toNat s.gmask (List.range (ewCount s.ir.ew)) with
    | .error (x, v) => .error (.trap x v)
    | .ok _ =>
      let short := s.boxShort e
      match (if short then .ok () else s.room) with
      | .error e => .error e
      | .ok _ => match s.freeV s.ir.vd with
        | .error e => .error e
        | .ok _ =>
          let dim : BitVec 2 := BitVec.ofNat 2 c.val.toNat
          let pre := [a.lab, b.lab, c.lab]
          let r := s.doVldt s.issue a.val b.val dim s.ir.ew s.gmask s.ir.vd pre s.gmaskLab
          if short then issueShort r else s.issueLong (.tile a.val b.val dim s.ir.ew s.gmask s.ir.vd pre s.gmaskLab) r

def execVldt (s : State) : Host.Outcome State Fault Refusal := s.run s.vldtRes

/-- The granules of a store under write tenure, in the working version (R129, R174, R255); one access goes to each flit payload of 32
bytes (R173), of which seen has its time. -/
def State.writeTenured (s : State) (r : Line) (e : BitVec 2) (data : VReg) (pre post : List Handle) :
    Option Nat → List (List (Nat × Piece)) → Res (State × Word)
  | _, [] => .ok (s, 0)
  | seen, [] :: gs => s.writeTenured r e data pre post seen gs
  | seen, ((i, p) :: g) :: gs =>
    let w := ewBits e
    let all := (i, p) :: g
    match s.product ((all.map (fun q => data.quadLab (quadOf w q.1))) ++ pre ++ post) with
    | .error er => .error er
    | .ok (t, l, f) =>
      match hostLabelFault l [p] with
      | some x => trapped .prot x
      | none =>
        match (if seen = some (p.key / 32) then t else t.touchStore true p).storeTag true { p with len := (all.map (fun q => q.2.len)).sum } l with
        | .error er => .error er
        | .ok (u, h) =>
          let u := all.foldl (fun u q =>
            u.wrBytes true q.2.key (((toBytes (ewBytes e) (vElem data.val w q.1 % codeSpan r w)).drop q.2.off).take q.2.len)) u
          match (u.dropTmp l).writeTenured r e data pre post (some (p.key / 32)) gs with
          | .error er => .error er
          | .ok (v, k) => .ok (v, (f &&& flagLW) ||| h ||| k)

def State.vsttRes (s : State) : Res State :=
  let a := s.act.rd s.ir.a
  let b := s.act.rd s.ir.b
  let c := s.act.rd s.ir.c
  match s.tileVecChecks true with
  | .error e => .error e
  | .ok e => match s.tileElems e b.val c.val.toNat s.gmask (List.range (ewCount s.ir.ew)) with
    | .error (x, v) => .error (.trap x v)
    | .ok es => match s.tilePieces e .wr (ewBytes s.ir.ew) es with
      | .error (x, v) => .error (.trap x v)
      | .ok ps =>
        match s.writeTenured e.rcd s.ir.ew (s.act.rdV s.ir.vd) [a.lab, b.lab, c.lab] (s.gmaskLab ++ [s.act.clab]) none (groupGranules ps) with
        | .error e => .error e
        | .ok (t, f) => .ok (t.orFlags f)

def execVstt (s : State) : Host.Outcome State Fault Refusal := s.run s.vsttRes

end Sys2Proof.Machine
end

