-- ==== Sys2Proof/Machine/Engine.lean ====
section
/-! DEFINITION. What the engines share (R131, R235, R256, R260): label products under WIDEN, reads and writes at the home, tags of
the data they move, and elements of tensors that they read. -/

namespace Sys2Proof.Machine

/-- The state as a core's cluster acts in it. -/
def State.on (s : State) (c : Nat) : State := { s with cur := c }

/-- Whether the engines of a cluster stand still for a core's work: frozen by the cross-trigger, or stopped with the core
(R364, R417). -/
def State.engStopped (s : State) (k core : Nat) : Bool := (s.cluster k).dbg.frozen || (s.core core).color.getLsbD 1

/-- A label product under WIDEN in the table of the acting cluster, which takes in the full forms first (R120, R126). The flag says
that environments were dropped. None: the table is full. -/
def State.productW (s : State) (srcs : List LSrc) : Option (State × Handle × Word) :=
  match s.takeIn srcs with
  | .error _ => none
  | .ok (t, hs) =>
    match distinct hs with
    | [] => some (t, hTRUE, 0)
    | [h] => some (t.dropOthers h hs, h, 0)
    | a :: l =>
      match lfold t.lab true (t.labOf a) false (l.map t.labOf) with
      | none => none
      | some (r, lw) => match t.intern r with
        | .error _ => none
        | .ok (u, k) => some (u.dropOthers k hs, k, if lw then flagLW else 0)

/-- The version an engine meets at a key: the working version of the lines of a handle that it names (R255). -/
def State.engView (s : State) (h : Option Nat) (key : Nat) : View :=
  match h with
  | some i => let e := s.thandle i; e.kind == 2 && e.holds (key / 64)
  | none => false

/-- Whether an engine write must wait for a release (R256). -/
def State.engWaits (s : State) (v : View) (key : Nat) : Bool := !v && ((s.tenureAt (key / 64)).isSome || (s.pageAbroad (key / 64)).isSome)

/-- Full bits that a write of n bytes sets (R235). -/
def State.fillBits (s : State) (v : View) (key n : Nat) : State :=
  if isHost key then s
  else (List.range ((key + n - 1) / 8 - key / 8 + 1)).foldl (fun s i => s.setFull v (key / 8 * 8 + 8 * i) true) s

/-- Bytes inside one granule written by an engine, with their full bits (R235). -/
def State.engWrite (s : State) (v : View) (key : Nat) (bytes : List Byte) : State := (s.wrBytes v key bytes).fillBits v key bytes.length

/-- The homes of lines that an engine has written stamp the write, each line once: past its read leases, and for a signal no earlier
than a time that the signal covers (R260, R261). The greatest stamp so far comes back. -/
def State.stampLines (s : State) (least : Option Time) : List Nat → State × Option Time
  | [] => (s, least)
  | l :: ls =>
    let t := tmaxO least ((s.stamp l).rts + 1)
    (s.setStamp l ⟨t, t⟩).stampLines (some t) ls

/-- The stamps of a write of data: each line its own (R260). The greatest of them and of a time comes back. -/
def State.stampData (s : State) (most : Option Time) : List Nat → State × Option Time
  | [] => (s, most)
  | l :: ls =>
    let t := (s.stamp l).rts + 1
    (s.setStamp l ⟨t, t⟩).stampData (some (tmaxO most t)) ls

/-- As stampData, for lines of a working version (R255, R260). -/
def State.stampWork (s : State) (most : Option Time) : List Nat → State × Option Time
  | [] => (s, most)
  | l :: ls =>
    let t := (s.wstamp l).rts + 1
    { s with wstamps := fset s.wstamps l ⟨t, t⟩ }.stampWork (some (tmaxO most t)) ls

/-- The walks of an engine for addresses of core c take their times (R238). -/
def State.engWalks (s : State) (c : Nat) (xs : List Word) : State :=
  s.unitWalks c none (xs.map (fun x => ({ addr := x, off := 0, len := 0, key := 0 } : Piece)))

/-- The lines of pieces that keep stamps (R246). -/
def stampedLines (ps : List Piece) : List Nat := dedupNat ((ps.filter (fun p => !p.plain)).map (fun p => p.key / 64))

/-- Labels other than TRUE, each once (R119). -/
def distinctLab : List Lab → List Lab
  | [] => []
  | a :: l => if a = some [0] then distinctLab l else a :: (distinctLab l).filter (fun b => b != a)

/-- The product under WIDEN of labels in full form, at a die of a slot; the flag says that environments were dropped. -/
def State.foldLabs (s : State) (slot die : Nat) (ls : List Lab) : Lab × Bool :=
  match distinctLab (ls.map (s.arrive slot die)) with
  | [] => (some [0], false)
  | a :: l => (lfold (s.jobLab slot die) true a false l).getD (a, false)

/-- The tag that an engine's write leaves on a granule: the product of the sources' tags, of the old tag when the write is partial,
and of the label of the command (R131). A label other than TRUE does not go to host memory (R266), and a partial write meets no other
slot's tag (R382). -/
def State.engTag (s : State) (v : View) (slot key : Nat) (whole : Bool) (tags : List Lab) (cmd : Lab) : Except Cause (State × Word) :=
  if isHost key then (if distinctLab (tags ++ [cmd]) = [] then .ok (s, 0) else .error .prot)
  else if isCtl key then .ok (s, 0)
  else if !whole && s.foreignTag v key slot then .error .prot
  else
    let r := s.foldLabs slot (tabOf key).die (tags ++ (if whole then [] else [s.tagLab v key]) ++ [cmd])
    match s.setTag v key slot r.1 with
    | none => .error .ltfull
    | some t => .ok (t, if r.2 then flagLW else 0)

/-- The bytes that an address range holds for an engine, with its pieces: faults as R383 gives. -/
def State.engRead (s : State) (core : Nat) (sup : Bool) (slot : Nat) (x : Word) (n : Nat) : Except (Cause × Word) (List Byte × List Piece) :=
  match s.pieces core sup .rd x n with
  | .error e => .error e
  | .ok ps =>
    match ps.find? (fun p => s.foreignTag false p.key slot) with
    | some p => .error (.prot, p.addr)
    | none => .ok (ps.flatMap (fun p => s.rdBytes false p.key p.len), ps)

/-! ### Elements of a tensor for an engine (R102, R210, R394) -/

/-- An element as an engine reads it: its code, its scale code, the granules that hold it, each with its address and the version,
none when pruned. -/
structure Elem where
  code : Nat := 0
  scale : Nat := 0x7F
  grans : List (Word × Nat × View) := []
  inside : Bool := false
  pruned : Bool := false
  deriving DecidableEq, Repr

/-- The scale code of an element: 0xFF from a POISON granule (R394). -/
def State.scaleOf (s : State) (core : Nat) (sup : Bool) (slot : Nat) (h : Option Nat) (r : Line) (cs : List Nat) : Except (Cause × Word) Nat :=
  if tBlockLen r = 0 then .ok 0x7F
  else
    let x := tScaleAddr r cs
    if !tensorSpace x then .error (.xlate, x)
    else match s.resolve core sup .rd x with
      | .error e => .error e
      | .ok key =>
        let v := s.engView h key
        if s.foreignTag v key slot then .error (.prot, x)
        else .ok (if s.tagLab v key = none then 0xFF else (s.rdByte v key).toNat)

/-- The metadata word of an element's group, by the record or by a base of its own (R107, R210). -/
def State.metaOf (s : State) (core : Nat) (sup : Bool) (slot : Nat) (base : Word) (r : Line) (cs : List Nat) : Except (Cause × Word) Nat :=
  match s.engRead core sup slot (tMetaAddr base r cs) 4 with
  | .error e => .error e
  | .ok (b, _) =>
    let w := ofBytes b
    if badMeta (tKeep r) w then .error (.illegal, 0) else .ok w

/-- One stored element by its place, through the grant of its handle. -/
def State.elemAt (s : State) (core : Nat) (sup : Bool) (slot : Nat) (o : Operand) (l : Loc) (scale : Nat) : Except (Cause × Word) Elem :=
  let e := match o.handle with | some i => s.thandle i | none => {}
  match (splitRange l.addr (l.bytes + 1) 0 l.bytes).foldr (fun p acc => match acc with
      | .error y => .error y
      | .ok ps => match s.grantKey e core sup .rd p.1 with
        | .error y => .error y
        | .ok key => .ok ((key, p.2.2, p.1) :: ps)) (Except.ok ([] : List (Nat × Nat × Word))) with
  | .error y => .error y
  | .ok ps =>
    match ps.find? (fun p => s.foreignTag (s.engView o.handle p.1) p.1 slot) with
    | some p => .error (.prot, p.2.2)
    | none =>
      let bytes := ps.flatMap (fun p => s.rdBytes (s.engView o.handle p.1) p.1 p.2.1)
      .ok { code := ofBytes bytes / 2 ^ l.shift % 2 ^ l.width, scale := scale, inside := true
            grans := ps.map (fun p => (p.2.2, p.1 / 16, s.engView o.handle p.1)) }

/-- The element at coordinates as an operand reads it; outside under PERMIT it is zero with TRUE (R274). -/
def State.elemOf (s : State) (core : Nat) (sup : Bool) (slot : Nat) (o : Operand) (metaW : Option Word) (cs : List Int) : Except (Cause × Word) Elem :=
  let r := o.rcd
  match tInside r cs with
  | none => .ok {}
  | some c =>
    match s.scaleOf core sup slot o.handle r c with
    | .error e => .error e
    | .ok sc =>
      if tKeep r = 0 then s.elemAt core sup slot o (tLoc r (tOffset r c)) sc
      else if metaW.isNone && !tensorSpace (tMetaAddr (lw r 448) r c) then .error (.xlate, tMetaAddr (lw r 448) r c)
      else match s.metaOf core sup slot (metaW.getD (lw r 448)) r c with
        | .error e => .error e
        | .ok w => match keptIndex (tKeep r) w (c.getD (tSpdim r) 0 % 12) with
          | none => .ok { scale := sc, inside := true, pruned := true }
          | some j => s.elemAt core sup slot o (tLoc r (tOffset r (tCompress r c j))) sc

end Sys2Proof.Machine
end

