-- ==== Sys2Proof/Machine/Label.lean ====
section
/-! DEFINITION. The label instructions (R185 to R196), the state of assumptions and nogoods (R117, R132, R135), their
broadcasts, sweeps and retirement (R133, R194). -/

namespace Sys2Proof.Machine

/-! ### Attaching, reading and selecting (R187 to R190) -/

/-- A scalar result with a label formed from sources of both kinds. -/
def State.scalarL (s : State) (ru : List RU) (srcs : List LSrc) (v : Word) (flags : Word) : Res State :=
  match s.regs (.s s.ir.d.toNat :: ru) with
  | .error e => .error e
  | .ok _ =>
    match s.freeS s.ir.d with
    | .error e => .error e
    | .ok _ =>
      match s.productL srcs with
      | .error e => .error e
      | .ok (t, l, lf) => .ok ((t.writeS s.ir.d v l).orFlags (flags ||| lf))

/-- An instruction that reads the label of sa as data: its result carries CLAB, and the label of sb where sb is read (R186). -/
def State.ofLabel (s : State) (withB : Bool) (v : Word) : Res State :=
  s.scalarL (.s s.ir.a.toNat :: if withB then s.ir.bRU else []) (if withB then [.h s.opB.lab, .h s.act.clab] else [.h s.act.clab]) v 0

/-- LGET. A head that a sweep has left with the environment 0 or with none, or a damaged one, keeps its index, and so does the place
that names it: LGET gives that index (DESIGN CHOICE, log 49). -/
def execLget (s : State) : Host.Outcome State Fault Refusal := s.run (s.ofLabel false ((s.act.rd s.ir.a).lab.setWidth 64))

/-- Whether a word names a handle that LSET may attach: a fixed one, or a head of KIND 1 of the slot (R187). -/
def State.handleOk (s : State) (b : Word) : Bool :=
  decide (b.toNat < 65536) &&
    (fixedHandle (b.setWidth 16) || (match fget s.myCluster.clt b.toNat with | some e => e.tslot.toNat == s.slot && !e.damaged | none => false))

def execLset (s : State) : Host.Outcome State Fault Refusal :=
  let b := s.opB
  let h : Handle := b.val.setWidth 16
  s.run (match s.regs (.s s.ir.d.toNat :: .s s.ir.a.toNat :: s.ir.bRU) with
    | .error e => .error e
    | .ok _ =>
      if !s.handleOk b.val then trapped .prot b.val
      else match s.freeS s.ir.d with
        | .error e => .error e
        | .ok _ =>
          match s.product [h, b.lab, s.act.clab] with
          | .error e => .error e
          | .ok (t, l, f) =>
            .ok ((t.writeS s.ir.d (s.act.rd s.ir.a).val l).orFlags
              (if s.poison b.lab || s.poison s.act.clab then f else f &&& ~~~ flagPS)))

/-- Assumptions in state FREE (R117). -/
def JobLab.free (j : JobLab) : Env := ~~~ (j.live ||| j.premise ||| j.retired)

/-- Whether an environment, stripped, is struck or names a FREE assumption (R187, R190). -/
def JobLab.void (j : JobLab) (e : Env) : Bool := struck j (strip j e) || (strip j e &&& j.free) != 0

def execLenv (s : State) : Host.Outcome State Fault Refusal :=
  let a := s.act.rd s.ir.a
  let b := s.opB
  let g : Lab := if s.lab.void b.val then some [] else some [strip s.lab b.val]
  s.run (s.scalarL (.s s.ir.a.toNat :: s.ir.bRU) [.h a.lab, .l g, .h b.lab, .h s.act.clab] a.val 0)

def execLprod (s : State) : Host.Outcome State Fault Refusal := s.run (s.alu2 (fun a _ => a))
def execLclr (s : State) : Host.Outcome State Fault Refusal :=
  s.run (s.scalarL [.s s.ir.a.toNat] [.h s.act.clab] (s.act.rd s.ir.a).val 0)

/-- LJOIN: the union of the labels of equal values; a mismatch keeps sa's and sets JX (R187). -/
def execLjoin (s : State) : Host.Outcome State Fault Refusal :=
  let a := s.act.rd s.ir.a
  let b := s.opB
  let ru := .s s.ir.a.toNat :: s.ir.bRU
  s.run (
    if a.val != b.val then s.scalarL ru [.h a.lab, .h s.act.clab] a.val flagJX
    else if a.lab = b.lab then s.scalarL ru [.h a.lab, .h s.act.clab] a.val 0
    else match s.regs (.s s.ir.d.toNat :: ru) with
      | .error e => .error e
      | .ok _ =>
        match lunion s.lab s.widen (s.labOf a.lab) (s.labOf b.lab) with
        | none => trapped .labelovf 0
        | some (l, lw) => s.scalarL ru [.l l, .h s.act.clab] a.val (if lw then flagLW else 0))

def execLhold (s : State) : Host.Outcome State Fault Refusal :=
  s.run (s.ofLabel false (if holds s.lab (s.labOf (s.act.rd s.ir.a).lab) s.act.focus then 1 else 0))

def execLsel (s : State) : Host.Outcome State Fault Refusal :=
  let r := if holds s.lab (s.labOf (s.act.rd s.ir.a).lab) s.act.focus then s.act.rd s.ir.a else s.opB
  s.run (s.scalarL (.s s.ir.a.toNat :: s.ir.bRU) [.h r.lab, .h s.act.clab] r.val 0)

def execLcount (s : State) : Host.Outcome State Fault Refusal :=
  s.run (s.ofLabel false (BitVec.ofNat 64 ((s.labOf (s.act.rd s.ir.a).lab).getD []).length))

def execLenvn (s : State) : Host.Outcome State Fault Refusal :=
  s.run (s.ofLabel true (((s.labOf (s.act.rd s.ir.a).lab).getD []).getD s.opB.val.toNat 0))

/-- LFOCUS sets FOCUS and reports whether it is consistent (R139, R190). -/
def execLfocus (s : State) : Host.Outcome State Fault Refusal :=
  let v := (s.act.rd s.ir.a).val
  s.run (match s.scalarL [.s s.ir.a.toNat] [.h s.act.clab] (if s.lab.void v then 0 else 1) 0 with
    | .error e => .error e
    | .ok t => .ok (t.setAct { t.act with focus := v }))

/-! ### The control-label stack (R191) -/

def execLcpush (s : State) : Host.Outcome State Fault Refusal :=
  let a := s.act.rd s.ir.a
  s.run (match s.regs [.s s.ir.a.toNat] with
    | .error e => .error e
    | .ok _ =>
      match s.notPoison a with
      | .error e => .error e
      | .ok _ =>
        if 8 ≤ s.act.cstack.length then trapped .labelovf 1
        else match s.product [s.act.clab, a.lab] with
          | .error e => .error e
          | .ok (t, l, f) =>
            .ok (((t.refC t.cl l).setAct { t.act with clab := l, cstack := t.act.clab :: t.act.cstack }).orFlags (f &&& flagLW)))

def execLcpop (s : State) : Host.Outcome State Fault Refusal :=
  s.run (match s.act.cstack with
    | [] => trapped .labelovf 2
    | l :: ls => .ok ((s.unrefC s.cl s.act.clab).setAct { s.act with clab := l, cstack := ls }))

/-! ### Assumptions and nogoods (R192, R193) -/

/-- The status of ASSUME, RETIRE, COMMIT and LSCRUB where it takes its place (R117, R133, R135, R192). -/
def State.labStatus (s : State) (kind : LabKind) (bit : Env) : Word :=
  let j := (s.job s.slot).lab
  let scrubbing := s.labOps.any (fun o => o.tslot == s.slot && o.kind == .lscrub && o.status == 0 && o.envs == [bit])
  match kind with
  | .assume => if (j.free &&& bit) == 0 || scrubbing then 1 else 0
  | .retire => if (j.live &&& bit) == 0 then 1 else 0
  | .commit => if (j.live &&& bit) == 0 then 1 else if j.nogoods.any (fun p => p.2 == bit) then 3 else 0
  | .lscrub => if ((j.premise ||| j.retired) &&& bit) == 0 then 1 else 0
  | .nogood => 0

/-- The broadcast of an instruction, which parks until it has retired (R133, R194). -/
def State.broadcast (s : State) (kind : LabKind) (envs : List Env) (st : Word) : State :=
  (s.startOp {
    id := s.nextOp, kind := kind, tslot := s.slot, envs := envs, status := st, core := s.cur, aid := s.act.aid,
    dies := List.range 8, time := s.act.floor }).park (.labelOp s.nextOp (some s.ir.d)) s.npc

/-- POISON on sa or CLAB raises POISON before any status (R192). -/
def State.labPoison (s : State) : Res Unit :=
  let a := s.act.rd s.ir.a
  if s.poison a.lab || s.poison s.act.clab then trapped .poison a.val else .ok ()

def State.isTrue (s : State) (h : Handle) : Bool := s.labOf h == some [0]

/-- ASSUME, RETIRE, COMMIT, LSCRUB (R192, R194). -/
def State.assumeRes (s : State) (kind : LabKind) : Res State :=
  let a := s.act.rd s.ir.a
  match s.regs [.s s.ir.d.toNat, .s s.ir.a.toNat] with
  | .error e => .error e
  | .ok _ =>
    match s.asMarker with
    | .error e => .error e
    | .ok _ =>
      match s.labPoison with
      | .error e => .error e
      | .ok _ =>
        if 63 < a.val.toNat then .ok (s.status 2)
        else if !s.isTrue a.lab || !s.isTrue s.act.clab then .ok (s.status 5)
        else
          let bit : Env := 1 <<< a.val.toNat
          .error (.final (s.broadcast kind [bit] (s.labStatus kind bit)))

def execAssume (s : State) : Host.Outcome State Fault Refusal := s.run (s.assumeRes .assume)
def execRetire (s : State) : Host.Outcome State Fault Refusal := s.run (s.assumeRes .retire)
def execCommit (s : State) : Host.Outcome State Fault Refusal := s.run (s.assumeRes .commit)
def execLscrub (s : State) : Host.Outcome State Fault Refusal := s.run (s.assumeRes .lscrub)

/-- NOGOOD: one nogood for each environment of its condition, all or nothing (R193). -/
def State.nogoodRes (s : State) : Res State :=
  let a := s.act.rd s.ir.a
  match s.regs [.s s.ir.d.toNat, .s s.ir.a.toNat] with
  | .error e => .error e
  | .ok _ =>
    match s.asMarker with
    | .error e => .error e
    | .ok _ =>
      match s.labPoison with
      | .error e => .error e
      | .ok _ =>
        match s.msgLabel [[.h a.lab], [.h s.act.clab]] with
        | .error e => .error e
        | .ok (t, c, f) =>
          let t := t.orFlags f
          if c = some [] then .ok (t.status 7)
          else
            let j := (s.job s.slot).lab
            let es := (c.getD []).map (fun e => a.val ||| e)
            let gs := freshNogoods j es
            if es.any (fun e => strip j e == 0) then .error (.final (t.broadcast .nogood es 4))
            else if gs = [] then .error (.final (t.broadcast .nogood es 6))
            else if 256 < (clearedNogoods j gs).length + gs.length then trapped .ngfull 0
            else .error (.final (t.broadcast .nogood es 0))

def execNogood (s : State) : Host.Outcome State Fault Refusal := s.run s.nogoodRes

/-! ### Replicas, sweeps, retirement (R133, R194) -/

/-- Whether the tables sweep for an instruction: each that may change a label, and a redundant NOGOOD, which retires as one
(R132, R133, R194). -/
def LabOp.sweeps (o : LabOp) : Bool := if o.status = 0 then o.kind != .assume else o.status = 6

/-- Whether a table of a job's heads has swept for an instruction, or has none of them. -/
def LabOp.sweptIn (o : LabOp) (i : Nat) (t : LTable) : Bool := o.swept.contains i || t.all (fun h => h.2.tslot.toNat != o.tslot)

/-- Whether every table of some dies has swept for an instruction. -/
def State.sweptOn (s : State) (o : LabOp) (die : Nat → Bool) : Bool :=
  s.clusters.all (fun p => !die (dieOf p.1) || o.sweptIn p.1 p.2.clt) && s.dlt.all (fun p => !die (p.1 % 8) || o.sweptIn (2000 + p.1) p.2)

/-- Whether every replica has taken an instruction and every table has acknowledged it; for an LSCRUB, each confirms that no
environment names its identity (R133, R135). -/
def State.acked (s : State) (o : LabOp) : Bool :=
  let clear (t : LTable) : Bool := t.all (fun h => h.2.tslot.toNat != o.tslot || h.2.damaged || h.2.envs.all (fun e => (e &&& o.envs.headD 0) == 0))
  o.dies == [] && (!o.sweeps || s.sweptOn o (fun _ => true)) &&
    (o.kind != .lscrub || o.status != 0 || (s.clusters.all (fun p => clear p.2.clt) && s.dlt.all (fun p => clear p.2)))

/-- The instructions of the same job that come before one. -/
def State.opsBefore (s : State) (o : LabOp) : List LabOp := s.labOps.filter (fun p => p.tslot == o.tslot && decide (p.id < o.id))

/-- The labels of a slot that are on their way between tables, in full form (R127). -/
def State.labsUnderWay (s : State) (slot : Nat) : List Lab :=
  let own (l : List Msg) : List Lab := (l.filter (fun m => m.tslot == slot)).map (·.lab)
  own s.net ++ own s.waiting ++ s.cores.flatMap (fun p => own p.2.sendReq ++ own p.2.sendRep ++ own (p.2.unbound.map (fun u => u.2.1)))
    ++ (s.port.filter (fun m => s.slotOf m.dtid.toNat == some slot)).map (·.label) ++ (s.job slot).counters.map (fun c => c.2.lab)
    ++ s.clusters.flatMap (fun p => p.2.colls.flatMap (fun x => (x.data.getD []).flatMap (fun b => b.srcs.map (·.2))))

/-- Whether a die may take an instruction: after those before it, and after its tables have swept for them. An LSCRUB frees its
identity only once no table and no label under way names it (R117, R133, R135). -/
def State.mayApply (s : State) (o : LabOp) (d : Nat) : Bool :=
  o.dies.contains d && (s.opsBefore o).all (fun p => !p.dies.contains d && (!p.sweeps || s.sweptOn p (fun x => x == d))) &&
    (o.kind != .lscrub || o.status != 0 || ((s.opsBefore o).all s.acked &&
      (s.labsUnderWay o.tslot).all (fun l => (l.getD []).all (fun e => (e &&& o.envs.headD 0) == 0))))

/-- The replica of die m applies broadcast n, in the order of the broadcasts of the job (R133). -/
def execStateBroadcastApply (s : State) : Host.Outcome State Fault Refusal :=
  .next (match s.labOps.find? (fun o => o.id == s.arg.n) with
    | none => s
    | some o =>
      let d := s.arg.m
      if !s.mayApply o d then s
      else
        let jb := s.job o.tslot
        let later := s.labOps.any (fun p => p.tslot == o.tslot && p.id != o.id && p.dies.contains d)
        let here := (fget jb.reps d).getD jb.lab
        let reps := if later then fset jb.reps d (if o.status = 0 then applyLab o.kind o.envs here else here) else ferase jb.reps d
        { s.setJob o.tslot { jb with reps := reps } with
          labOps := s.labOps.map (fun p => if p.id == o.id then { p with dies := p.dies.filter (fun x => x != d) } else p) })

/-- A head after a sweep: its environments stripped, struck and minimal, under the same handle (R133). -/
def sweepHead (slot : Nat) (j : JobLab) (e : Head) : Head :=
  if e.damaged || e.tslot.toNat != slot then e
  else
    let envs := lclean j e.envs
    { e with envs := envs, conts := e.conts.take ((envs.length + 3) / 4 - 1) }

def sweepTable (slot : Nat) (j : JobLab) (t : LTable) : LTable := t.map (fun p => (p.1, sweepHead slot j p.2))

/-- The outcome of a decided label (R195). -/
def decided (l : Lab) : Option Word :=
  match l with
  | none => some 2
  | some l => if l = [] then some 1 else if l = [0] then some 0 else none

/-- The heads of a table that a sweep of it decides. -/
def newlyDecided (i : Nat) (old new : LTable) : List (Nat × Nat) :=
  (old.filter (fun p => (decided (tlab old (BitVec.ofNat 16 p.1))).isNone && (decided (tlab new (BitVec.ofNat 16 p.1))).isSome)).map (fun p => (i, p.1))

/-- Table m (a cluster, or 2000 + die) sweeps for broadcast n once its replica has the change (R133). -/
def execTableSweep (s : State) : Host.Outcome State Fault Refusal :=
  .next (match s.labOps.find? (fun o => o.id == s.arg.n) with
    | none => s
    | some o =>
      let i := s.arg.m
      let die := if i < 2000 then dieOf i else i - 2000
      if !o.sweeps || o.dies.contains (die % 8) then s
      else
        let old := if i < 2000 then (s.cluster i).clt else s.dtab (i - 2000)
        let new := sweepTable o.tslot (s.jobLab o.tslot (die % 8)) old
        let s1 := if i < 2000 then s.setCluster i { s.cluster i with clt := new } else s.setDtab (i - 2000) new
        { s1 with labOps := s1.labOps.map (fun p =>
            if p.id == o.id then { p with swept := i :: p.swept, decided := newlyDecided i old new ++ p.decided } else p) })

/-- Whether an instruction may retire: it is acknowledged, and so is every one before it, whose change its status has seen
(R133, R194). -/
def State.opDone (s : State) (o : LabOp) : Bool := s.acked o && (s.opsBefore o).all s.acked

/-- Broadcast n retires, and the parked instruction writes its status (R194). -/
def execLabelOpRetire (s : State) : Host.Outcome State Fault Refusal :=
  .next (match s.labOps.find? (fun o => o.id == s.arg.n) with
    | none => s
    | some o =>
      if !s.opDone o then s
      else
        let jb := s.job o.tslot
        let s1 := { s.setJob o.tslot { jb with labTime := some (tmaxO jb.labTime o.time) } with labOps := s.labOps.filter (fun p => p.id != o.id) }
        match (s1.core o.core).parked.find? (fun a => match a.park with | some (.labelOp id _) => id == o.id | _ => false) with
        | none => s1
        | some a => match a.park with
          | some (.labelOp _ (some d)) => s1.resume o.core a.slot (some (d, o.status)) none
          | _ => s1.resume o.core a.slot none none)

/-! ### LWAIT and LSTAT (R195, R196) -/

/-- The outcome for the label that a handle names in cluster k; none while it is undecided, and while the instruction whose sweep has
decided it has not retired (R195). -/
def State.outcome (s : State) (k slot : Nat) (h : Handle) : Option Word :=
  if s.labOps.any (fun o => o.tslot == slot && o.decided.contains (k, h.toNat)) then none else decided (tlab (s.cluster k).clt h)

/-- The time that an outcome brings: that of the retired instructions of the job, of which a sweep may have decided the label; none for the
three fixed handles (R195). -/
def State.outcomeTime (s : State) (slot : Nat) (h : Handle) : Option Time := if fixedHandle h then none else (s.job slot).labTime

def State.lwaitRes (s : State) : Res State :=
  let a := s.act.rd s.ir.a
  let b := s.opB
  match s.regs (.s s.ir.d.toNat :: .s s.ir.a.toNat :: s.ir.bRU) with
  | .error e => .error e
  | .ok _ =>
    match s.asMarker with
    | .error e => .error e
    | .ok _ =>
      match s.outcome s.cl s.slot a.lab with
      | some v => (s.setAct { s.act with floor := tmaxO (s.outcomeTime s.slot a.lab) s.act.floor }).ofLabel true v
      | none =>
        match s.product [b.lab, s.act.clab] with
        | .error e => .error e
        | .ok (t, l, f) =>
          .error (.final (((t.orFlags (f &&& flagLW)).refC t.cl l).park (.lwait a.lab l t.clock b.val s.ir.d) t.npc))

def execLwait (s : State) : Host.Outcome State Fault Refusal := s.run s.lwaitRes

/-- A parked LWAIT ends with an outcome and the time that it brings, its label given back to the wait. -/
def State.lwaitEnd (s : State) (l : Handle) (d : BitVec 6) (v : Word) (t : Option Time) : State :=
  (s.resumeL s.arg.n s.arg.m (some (d, v, l)) t).unrefC (s.arg.n / 8) l

/-- After a sweep has retired, the label that an LWAIT awaits is decided (R195). -/
def execLwaitWake (s : State) : Host.Outcome State Fault Refusal :=
  .next (match s.parkedAt s.arg.n s.arg.m with
    | some a => match a.park with
      | some (.lwait h l _ _ d) =>
        match s.outcome (s.arg.n / 8) (s.core s.arg.n).tslot.toNat h with
        | some v => s.lwaitEnd l d v (s.outcomeTime (s.core s.arg.n).tslot.toNat h)
        | none => s
      | _ => s
    | none => s)

/-- The limit of an LWAIT has passed (R195). -/
def execLwaitTimeout (s : State) : Host.Outcome State Fault Refusal :=
  .next (match s.parkedAt s.arg.n s.arg.m with
    | some a => match a.park with
      | some (.lwait h l since limit d) =>
        if limit != 0 && decide (limit.toNat ≤ (s.clock - since).toNat) && (s.outcome (s.arg.n / 8) (s.core s.arg.n).tslot.toNat h).isNone
        then s.lwaitEnd l d 3 none else s
      | _ => s
    | none => s)

def execLstat (s : State) : Host.Outcome State Fault Refusal :=
  let v := (s.act.rd s.ir.a).val
  let j := s.lab
  s.run (s.scalarL [.s s.ir.a.toNat] [.h s.act.clab] (match v.toNat with
    | 0 => BitVec.ofNat 64 (cltSize - tused s.myCluster.clt)
    | 1 => BitVec.ofNat 64 j.nogoods.length
    | 2 => j.live
    | 3 => j.premise
    | 4 => j.retired
    | 5 => BitVec.ofNat 64 s.act.cstack.length
    | 6 => BitVec.ofNat 64 (dltSize - tused (s.dtab (dieOf s.cl)))
    | _ => BitVec.allOnes 64) 0)

end Sys2Proof.Machine
end

