-- ==== Sys2Proof/Machine/Launch.lean ====
section
/-! DEFINITION. Launches and completion counters (R304 to R306, R326 to R329). -/

namespace Sys2Proof.Machine

/-! ### LAUNCH (R326, R327) -/

/-- A launch record (R326). -/
structure LaunchRec where
  chan : BitVec 6
  carve : Bool
  cores : Nat
  x0 : Nat
  y0 : Nat
  xn : Nat
  yn : Nat
  module_ : BitVec 13
  rmod : Bool
  graph : Nat
  phase : Nat
  succ : Word
  args : List Word
  bad : Bool
  deriving DecidableEq, Repr

/-- Words of the payload: up to the highest nonzero argument, or ARGN - 1 (R326). -/
def argWords (n argn : Nat) : List Word :=
  let ws := (List.range 4).map (fun i => BitVec.ofNat 64 (n / 2 ^ (192 + 64 * i)))
  let len := if argn = 0 then ((List.range 4).filter (fun i => ws.getD i 0 != 0)).foldl (fun m i => Nat.max m (i + 1)) 0 else argn - 1
  ws.take len

/-- The reserved bits of a launch record (R326). -/
def launchRsv : Nat :=
  2 ^ 7 + 3 * 2 ^ 22 + 7 * 2 ^ 29 + 3 * 2 ^ 38 + 7 * 2 ^ 45 + 3 * 2 ^ 62 + (2 ^ 32 - 1) * 2 ^ 96 + (2 ^ 60 - 1) * 2 ^ 452

def launchRec (r : Line) : LaunchRec :=
  let n := r.toNat
  let x0 := n / 2 ^ 16 % 64
  let y0 := n / 2 ^ 24 % 32
  let xn := n / 2 ^ 32 % 64
  let yn := n / 2 ^ 40 % 32
  let cores := n / 2 ^ 8 % 256
  let argn := n / 2 ^ 448 % 16
  { chan := BitVec.ofNat 6 n, carve := r.getLsbD 6, cores := cores, x0 := x0, y0 := y0, xn := xn, yn := yn,
    module_ := BitVec.ofNat 13 (n / 2 ^ 48), rmod := r.getLsbD 61, graph := n / 2 ^ 64 % 2 ^ 16, phase := n / 2 ^ 80 % 2 ^ 16,
    succ := BitVec.ofNat 64 (n / 2 ^ 128), args := argWords n argn,
    bad := (r &&& BitVec.ofNat 512 launchRsv) != 0 || 5 < argn || cores == 0 || 47 < x0 || 23 < y0 || xn == 0 || 48 < x0 + xn
      || yn == 0 || 24 < y0 + yn }

/-- The clusters of a rectangle in row order, x fastest (R327). -/
def LaunchRec.clusters (l : LaunchRec) : List Nat :=
  (List.range l.yn).flatMap (fun y => (List.range l.xn).map (fun x => (l.y0 + y) * 48 + l.x0 + x))

/-- The cores that receive a start message, in order. -/
def LaunchRec.members (l : LaunchRec) : List Nat :=
  l.clusters.flatMap (fun k => ((List.range 8).filter (fun c => l.cores / 2 ^ c % 2 == 1)).map (fun c => 8 * k + c))

/-- Counters of a level (R304). -/
def levelSize (level : Nat) : Nat := match level with | 0 => 4096 | 1 => 1024 | 2 => 256 | _ => 1

/-- The lowest free counter of a level; launch index 0 is never allocated (R304, R327). -/
def State.lowestFree (s : State) (slot level : Nat) : Option Nat :=
  ((List.range (levelSize level)).find? (fun i =>
    !(level == 0 && i == 0) && (s.counter slot (level * 16384 + i)).state == .free)).map (fun i => level * 16384 + i)

def State.isOpen (s : State) (slot level id : Nat) : Bool :=
  counterLevel id == level && (s.counter slot id).state == .open_

/-- The counters of a launch: its own, its graph, a new phase or none; or the refusal code (R327). -/
def State.pickCounters (s : State) (slot : Nat) (l : LaunchRec) : Except Word (Nat × Nat × Option Nat × Nat) :=
  if (l.graph != 0 && !s.isOpen slot 1 l.graph) || (l.graph == 0 && l.phase != 0 && !s.isOpen slot 2 l.phase) then .error 0x10004
  else match s.lowestFree slot 0 with
    | none => .error 0x10001
    | some c =>
      if l.graph != 0 then .ok (c, l.graph, none, 0)
      else match s.lowestFree slot 1 with
        | none => .error 0x10001
        | some g =>
          if l.phase != 0 then .ok (c, g, none, l.phase)
          else match s.lowestFree slot 2 with
            | none => .error 0x10001
            | some p => .ok (c, g, some p, p)

/-- A new counter (R304, R327). -/
def State.openCounter (s : State) (slot id parent by_ : Nat) : State :=
  s.setCounter slot id { s.counter slot id with
    count := 0, state := .open_, time := s.act.floor, parent := parent, succ := 0, core := s.cur, aid := s.act.aid, held := true,
    by_ := by_, waiters := 0, sup := s.act.sup }

/-- The counters are taken and raised before any message leaves (R305, R327). -/
def State.raiseAll (s : State) (slot : Nat) (l : LaunchRec) (c g : Nat) (newPhase : Option Nat) (phase : Nat) : State :=
  let t := s.act.floor
  let s1 := match newPhase with
    | some p => (s.openCounter slot p jobCounter c).raiseCounter slot jobCounter 1 t
    | none => s
  let s2 := if l.graph = 0 then (s1.openCounter slot g phase c).raiseCounter slot phase 1 t else s1
  (((s2.raiseCounter slot g 1 t).openCounter slot c g c).raiseCounter slot c l.members.length t)

/-- The rectangle of a launch, all eight cores of each cluster, in the form of R343. -/
def LaunchRec.rect (l : LaunchRec) : Word := BitVec.ofNat 64 (l.x0 + l.y0 * 2 ^ 8 + l.xn * 2 ^ 16 + l.yn * 2 ^ 24 + 0xFF * 2 ^ 32)

/-- The start message to a core (R327). -/
def State.startMsg (s : State) (slot : Nat) (l : LaunchRec) (c : Nat) (lab : Lab) (core : Nat) : Msg where
  core := core
  dmod := if l.rmod then l.module_ else s.plant.modId
  chan := l.chan
  net := 2
  payload := l.args.flatMap (fun w => toBytes 8 w.toNat)
  lab := lab
  score := BitVec.ofNat 14 s.cur
  smod := s.plant.modId
  ctr := BitVec.ofNat 16 c
  time := s.act.floor
  start := true
  carve := l.carve
  launch := s.launches
  cores := BitVec.ofNat 8 l.cores
  sup := s.act.sup && decide (56 ≤ l.chan.toNat)
  from_ := some (s.cur, s.act.aid)
  color := s.me.color.getLsbD 0
  tslot := slot

/-- The start messages leave in order, after a gang is formed on each cluster (R282, R327). -/
def State.startAll (s : State) (slot : Nat) (l : LaunchRec) (c : Nat) (lab : Lab) : State :=
  let s1 := if l.rmod && l.module_ != s.plant.modId then s
    else l.clusters.foldl (fun s k =>
      s.setCluster k { s.cluster k with gangs := fset (s.cluster k).gangs (slot * 65536 + c) { mask := BitVec.ofNat 8 l.cores } }) s
  let s2 := l.members.foldl (fun t core => t.post (s.startMsg slot l c lab core)) s1
  s2.setAct { s2.act with unanswered := s2.act.unanswered + l.members.length }

def State.launchRes (s : State) : Res State :=
  let a := s.act.rd s.ir.a
  match s.regs [.s s.ir.d.toNat, .s s.ir.a.toNat] with
  | .error e => .error e
  | .ok _ =>
    match s.asMarker with
    | .error e => .error e
    | .ok _ =>
      match s.notPoison a with
      | .error e => .error e
      | .ok _ =>
        if a.val.toNat % 64 != 0 then trapped .alignatom a.val
        else
          match s.readRecord a 64 with
          | .error e => .error e
          | .ok (t, bytes, tags) =>
            let l := launchRec (BitVec.ofNat 512 (ofBytes bytes))
            let mark := s.act.sup && decide (56 ≤ l.chan.toNat)
            if l.bad then .ok (t.status 0x10002)
            else if !l.rmod && !mark && l.clusters.any (fun k => !s.inSub s.slot (8 * k)) then .ok (t.status 0x10003)
            else match t.pickCounters s.slot l with
              | .error code => .ok (t.status code)
              | .ok (c, g, np, p) =>
                match t.msgLabel ((LSrc.h a.lab :: tags ++ [LSrc.h t.act.clab]).map (fun x => [x])) with
                | .error e => .error e
                | .ok (t, lab, f) =>
                  let u := { t.raiseAll s.slot l c g np p with launches := t.launches + 1 }
                  let v := u.setCounter s.slot c { u.counter s.slot c with
                    succ := l.succ, lab := lab, chan := l.chan, rect := l.rect, launch := u.launches }
                  .ok (((v.startAll s.slot l c lab).status (BitVec.ofNat 64 c)).orFlags f)

def execLaunch (s : State) : Host.Outcome State Fault Refusal := s.run s.launchRes

/-! ### Cancellation (R306) -/

/-- Whether a counter identity is counted to another, itself included. -/
def State.below (s : State) (slot id k : Nat) : Bool := k != 0 && countsTo (s.job slot).counters id 4 k

/-- Whether the message of a record is counted to a counter of a slot, or to one below it. -/
def Rec.countedBelow (r : Rec) (s : State) (slot id : Nat) : Bool := r.home.isNone && r.tslot == slot && s.below slot id r.ctr.toNat

/-- What a parked activation holds of an acquisition while it waits is let go. -/
def State.dropPark (s : State) (a : Act) : State :=
  match a.park with
  | some (.tacq h _ _ mode _) => s.letGoAcq h mode
  | _ => s

/-- A resident activation counted to a cancelled counter: at once when parked, else at its next marker. Outstanding loads
are discarded. The canceller itself ends when its CCANCEL returns (R329), and so does an activation whose own CCANCEL of another counter is
under way (DESIGN CHOICE, log 61). -/
def State.cancelAct (s : State) (c : Nat) (a : Act) : State :=
  let s1 := s.setCluster (c / 8) (cancelEngines c a.aid (s.cluster (c / 8)))
  match a.park with
  | none => s1.setCore c ((s1.core c).putSlot a.slot { a with cancelled := true })
  | some (.ccancel _ _) => s1.setCore c ((s1.core c).putSlot a.slot { a with cancelled := true })
  | some _ =>
    let k := s1.core c
    ((s1.dropPark a).setCore c { k with parked := k.parked.filter (fun b => b.slot != a.slot) }).endAct c a

/-- A record that is discarded lowers the counter that its message is counted to; a gang counts its member as done, and a report of an
unbound message frees its entry (R282, R301, R305, R306). -/
def State.recGone (s : State) (c : Nat) (r : Rec) : State :=
  let s1 := if r.ctr = 0 || r.home.isSome then s
    else s.lowerCounter r.tslot r.ctr.toNat (tmax r.time (s.cluster (c / 8)).ltime) ((s.core c).color.getLsbD 0) 4
  (s1.gangDone c r.gang).freeUnbound c r.ubuf

/-- A queued activation is discarded: its record is freed and its message lowers its counter (R306). -/
def State.dropQueued (s : State) (c : Nat) (q : Queued) : State :=
  let k := s.core c
  let ch := k.chans[q.chan.toNat]'q.chan.isLt
  let s1 := s.setCore c { k with queue := k.queue.filter (fun x => x.chan != q.chan), chans := k.chans.set q.chan.toNat (ch.freeRec q.rcd) q.chan.isLt }
  (s1.unrefC (c / 8) q.rcd.lab).recGone c q.rcd

/-- The waiting records of a channel that a cancellation discards: marked, and lowered one by one (R306). -/
def State.dropRecs (s : State) (slot id c i : Nat) : State :=
  let i6 := BitVec.ofNat 6 i
  let k := s.core c
  let ch := k.chans[i6.toNat]'i6.isLt
  let hit (r : Rec) : Bool := !r.dead && r.countedBelow s slot id
  let lost := ch.recs.filter hit
  if lost = [] then s
  else
    let ch1 := { ch with pend := ch.pend - BitVec.ofNat 14 lost.length, recs := ch.recs.map (fun r => if hit r then { r with dead := true } else r) }
    let ch2 := if ch1.act then ch1 else ch1.trim ch1.recs
    let s1 := s.setCore c { k with chans := k.chans.set i6.toNat ch2 i6.isLt }
    lost.foldl (fun s r => s.recGone c r) s1

/-- One core at a cancellation in a slot: a supervisor's launch reaches cores of other slots too (R327). -/
def State.cancelCore (s : State) (slot id c : Nat) : State :=
  let k := s.core c
  let s1 := ((List.range 64).foldl (fun s i => s.dropRecs slot id c i) s)
  let s2 := (k.queue.filter (fun q => q.rcd.countedBelow s slot id)).foldl (fun s q => s.dropQueued c q) s1
  ((k.residents.filter (fun a => a.rcd.countedBelow s slot id))).foldl (fun s a => s.cancelAct c a) s2

/-- A counter and every counter counted to it become CANCELLED, with what they count (R306). -/
def State.cancel (s : State) (slot id : Nat) : State :=
  let hit := ((s.job slot).counters.filter (fun p => (p.1 == id || s.below slot id p.1)
    && (p.2.state == .open_ || (p.2.state == .zero && p.1 != jobCounter)))).map (·.1)
  let s1 := hit.foldl (fun s i => s.setCounter slot i { s.counter slot i with state := .cancelled }) s
  s1.cores.foldl (fun t p => t.cancelCore slot id p.1) s1

/-! ### CCWAIT, CCREAD, CCANCEL (R329) -/

/-- The counter identity in sa, checked (R329). -/
def State.counterId (s : State) : Res Nat :=
  let a := (s.act.rd s.ir.a).val
  let id := a.toNat
  if 65535 < id || levelSize (counterLevel id) ≤ id % 16384 then trapped .bounds a else .ok id

/-- The launcher has returned from a CCWAIT on its launch: its counters are no longer held (R327). -/
def State.letGo (s : State) (slot id c aid : Nat) : State :=
  ((s.job slot).counters.filter (fun p => p.2.held && p.2.core == c && p.2.aid == aid && p.2.by_ == id)).foldl
    (fun s p => (s.setCounter slot p.1 { s.counter slot p.1 with held := false }).freeCounter slot p.1) s

/-- The outcome of a CCWAIT that need not wait. -/
def Counter.outcome (c : Counter) : Option Word :=
  match c.state with | .free => some 2 | .open_ => none | .zero => some 0 | .cancelled => some 1

/-- A CCWAIT returns: it is no longer among the waiters, and its counter may be free (R304, R327). One that a cut had stopped is still
counted among them (R361). -/
def State.ccDone (s : State) (slot id c : Nat) (a : Act) : State :=
  let s1 := if a.waits.isSome then
      (s.setCounter slot id { s.counterOr slot id with waiters := (s.counterOr slot id).waiters - 1 }).setCore c
        ((s.core c).putSlot a.slot { a with waits := none })
    else s
  (s1.letGo slot id c a.aid).freeCounter slot id

def execCcwait (s : State) : Host.Outcome State Fault Refusal :=
  s.run (match s.regs [.s s.ir.d.toNat, .s s.ir.a.toNat] with
    | .error e => .error e
    | .ok _ =>
      match s.asMarker with
      | .error e => .error e
      | .ok _ =>
        match s.counterId with
        | .error e => .error e
        | .ok id =>
          let c := s.counterOr s.slot id
          match (if id = 0 then some 2 else c.outcome) with
          | some v =>
            let t := if v = 2 then s else s.setAct { s.act with floor := tmax s.act.floor c.time }
            .ok ((t.ccDone s.slot id s.cur t.act).status v)
          | none =>
            let t := if s.act.waits.isSome then s
              else (s.setCounter s.slot id { c with waiters := c.waiters + 1 }).setAct { s.act with waits := some id }
            .error (.final (t.park (.ccwait id s.ir.d) s.npc)))

/-- The counter of a parked CCWAIT is ZERO or CANCELLED (R329). -/
def execCcwaitWake (s : State) : Host.Outcome State Fault Refusal :=
  .next (match s.parkedAt s.arg.n s.arg.m with
    | some a => match a.park with
      | some (.ccwait id d) =>
        let slot := (s.core s.arg.n).tslot.toNat
        let c := s.counterOr slot id
        match c.outcome with
        | none => s
        | some v =>
          (s.ccDone slot id s.arg.n a).resume s.arg.n s.arg.m (some (d, v)) (some c.time)
      | _ => s
    | none => s)

/-- CCREAD: count and state, read as a load in the memory order: it comes no earlier than what the counter has counted (R305, R329). -/
def execCcread (s : State) : Host.Outcome State Fault Refusal :=
  s.run (match s.regs [.s s.ir.d.toNat, .s s.ir.a.toNat] with
    | .error e => .error e
    | .ok _ =>
      match s.asMarker with
      | .error e => .error e
      | .ok _ =>
        match s.counterId with
        | .error e => .error e
        | .ok id =>
          let c := if id = 0 then {} else s.counterOr s.slot id
          let st : Word := match c.state with | .free => 0 | .open_ => 1 | .zero => 2 | .cancelled => 3
          .ok ((if c.state = .free then s else s.atTime (tmax s.act.floor c.time)).status (c.count.setWidth 64 ||| (st <<< 32))))

def execCcancel (s : State) : Host.Outcome State Fault Refusal :=
  s.run (match s.regs [.s s.ir.d.toNat, .s s.ir.a.toNat] with
    | .error e => .error e
    | .ok _ =>
      match s.asMarker with
      | .error e => .error e
      | .ok _ =>
        match s.counterId with
        | .error e => .error e
        | .ok id =>
          if id = jobCounter && !s.act.sup then trapped .priv s.rawVal
          else if id = 0 || (s.counterOr s.slot id).state != .open_ then .ok (s.status 1)
          else .error (.final ((s.park (.ccancel id s.ir.d) s.npc).cancel s.slot id)))

/-- Every counter below reads CANCELLED: CCANCEL returns, and an activation counted to what it cancelled ends (R329). -/
def execCcancelComplete (s : State) : Host.Outcome State Fault Refusal :=
  .next (match s.parkedAt s.arg.n s.arg.m with
    | some a => match a.park with
      | some (.ccancel _ d) =>
        if a.cancelled then
          let k := s.core s.arg.n
          (s.setCore s.arg.n { k with parked := k.parked.filter (fun b => b.slot != a.slot) }).endAct s.arg.n a
        else s.resume s.arg.n s.arg.m (some (d, 0)) none
      | _ => s
    | none => s)

end Sys2Proof.Machine
end

