-- ==== Sys2Proof/Machine/Sys.lean ====
section
/-! DEFINITION. The SYS members (R181 to R183, R282, R331 to R335), control registers (R37 to R43, R184, R338, R356), and the
events that end a wait of an activation or bring a result or a trap to it (R79, R270, R282, R334, R336). -/

namespace Sys2Proof.Machine

/-! ### SYS (R181, R331 to R335) -/

/-- DONE waits for results, recorded faults and answers, then ends the activation (R181, R305). -/
def State.doneRes (s : State) : Res State :=
  let a := s.act
  if a.outs != [] then .error (.final (s.park .done a.pc))
  else if a.deferred != [] then .error (.final s.marker)
  else if a.unanswered != 0 then .error (.final (s.park .answers a.pc))
  else .error (.final s.endRunning)

def execDone (s : State) : Host.Outcome State Fault Refusal := s.run s.doneRes

/-- YIELD: the activation goes behind the other ready ones of its level, and the core takes the first (R181, R302). -/
def State.yieldRes (s : State) : Res State :=
  match s.asMarker with
  | .error e => .error e
  | .ok _ =>
    let t := s.finish s.npc
    let a := { t.act with level := t.me.prioOf t.act.chan, readyAt := t.clock }
    .error (.final ((t.setMe { t.me with running := false, ready := t.me.ready ++ [a] }).dispatch t.cur))

def execYield (s : State) : Host.Outcome State Fault Refusal := s.run s.yieldRes
def execNop (s : State) : Host.Outcome State Fault Refusal := s.run (.ok s)

/-- The flags that are both set and enabled (R332). -/
def enabledFlags (f : Word) : Word := (f >>> 8) &&& (f >>> 24) &&& 0x1FF

def execTfence (s : State) : Host.Outcome State Fault Refusal :=
  s.run (match s.asMarker with
    | .error e => .error e
    | .ok _ => if enabledFlags s.act.flags = 0 then .ok s else trapped .arith (enabledFlags s.act.flags <<< 8))

def execHalt (s : State) : Host.Outcome State Fault Refusal :=
  s.run (match s.supOnly with
    | .error e => .error e
    | .ok _ =>
      match s.asMarker with
      | .error e => .error e
      | .ok _ => .ok (s.haltCore false s.cur))

def execSleep (s : State) : Host.Outcome State Fault Refusal :=
  let a := (s.act.rd s.ir.a).val
  s.run (match s.regs [.s s.ir.a.toNat] with
    | .error e => .error e
    | .ok _ =>
      match s.asMarker with
      | .error e => .error e
      | .ok _ =>
        if 0xFFFFFFFF < a.toNat then trapped .bounds a
        else if a = 0 then .error (.final (s.park (.sleepMsg s.me.accepted) s.npc))
        else .error (.final (s.park (.sleep (s.clock + a)) s.npc)))

def execTrap (s : State) : Host.Outcome State Fault Refusal :=
  s.run (match s.regs [.s s.ir.a.toNat] with
    | .error e => .error e
    | .ok _ => trapped .swtrap (s.act.rd s.ir.a).val)

/-! ### Allotment (R33, R182, R183) -/

/-- GROW and SHRINK are ILLEGAL in a handler (R337). -/
def State.notInHandler (s : State) : Res Unit := if s.act.trap.isSome then s.illegal else .ok ()

/-- Registers from n on are released: they read zero with TRUE, and their labels are dropped, from the highest number downwards,
scalar registers first (R183). -/
def State.releaseFrom (s : State) (ns nv : Nat) : State :=
  let a := s.act
  let gone := (a.sregs.toList.drop ns).reverse.map (·.lab) ++ (a.vregs.toList.drop nv).reverse.flatMap VReg.labs
  (s.unrefAll s.cl gone).setAct { a with
    sregs := Vector.ofFn (fun i => if i.val < ns then a.sregs[i] else {})
    vregs := Vector.ofFn (fun i => if i.val < nv then a.vregs[i] else {}) }

/-- Each register that GROW adds reads zero with TRUE (R182, R370). -/
def execGrow (s : State) : Host.Outcome State Fault Refusal :=
  s.run (match s.notInHandler with
    | .error e => .error e
    | .ok _ =>
      let t := s.releaseFrom (8 * s.act.sa.toNat) (4 * s.act.va.toNat)
      let a := t.act
      .ok (t.setAct { a with sa := if a.sa < s.ir.d.setWidth 4 then s.ir.d.setWidth 4 else a.sa
                             va := if a.va < s.ir.a.setWidth 3 then s.ir.a.setWidth 3 else a.va }))

def execShrink (s : State) : Host.Outcome State Fault Refusal :=
  s.run (match s.notInHandler with
    | .error e => .error e
    | .ok _ =>
      match s.asMarker with
      | .error e => .error e
      | .ok _ =>
        let a := s.act
        let sa := if s.ir.d.setWidth 4 < a.sa then s.ir.d.setWidth 4 else a.sa
        let va := if s.ir.a.setWidth 3 < a.va then s.ir.a.setWidth 3 else a.va
        .ok ((s.setAct { a with sa := sa, va := va }).releaseFrom (8 * sa.toNat) (4 * va.toNat)))

/-! ### BAR (R282) -/

/-- The greatest floor of the members that have arrived (R282). -/
def Gang.latest (g : Gang) : Time :=
  match g.barArr with
  | [] => 0
  | p :: l => l.foldl (fun t q => tmax t q.2) p.2
/-- Whether every member of a gang has arrived or has executed DONE. -/
def Gang.full (g : Gang) : Bool := (List.range 8).all (fun i => !g.mask.getLsbD i || g.done.getLsbD i || g.barArr.any (fun p => p.1 == i))

def execBar (s : State) : Host.Outcome State Fault Refusal :=
  s.run (match s.regs [.s s.ir.d.toNat] with
    | .error e => .error e
    | .ok _ =>
      match s.asMarker with
      | .error e => .error e
      | .ok _ =>
        match s.act.gang with
        | none => .ok (s.status (BitVec.allOnes 64))
        | some key =>
          match fget s.myCluster.gangs key with
          | none => .ok (s.status (BitVec.allOnes 64))
          | some g =>
            let g1 := { g with barArr := g.barArr ++ [(s.cur % 8, s.act.floor)] }
            .error (.final ((s.setMyCluster { s.myCluster with gangs := fset s.myCluster.gangs key g1 }).park (.bar s.ir.d) s.npc)))

/-- A parked member of a gang resumes from BAR with its arrival index and the greatest floor. -/
def State.barResume (s : State) (k key : Nat) (t : Time) (p : Nat × Nat) : State :=
  let c := 8 * k + p.2
  match (s.core c).parked.find? (fun a => a.gang == some key && (match a.park with | some (.bar _) => true | _ => false)) with
  | some a => match a.park with
    | some (.bar d) => s.resume c a.slot (some (d, BitVec.ofNat 64 p.1)) (some t)
    | _ => s
  | none => s

/-- The gang of key m on cluster n has all arrived: the generation advances and its members resume (R282). -/
def execBarRelease (s : State) : Host.Outcome State Fault Refusal :=
  .next (match fget (s.cluster s.arg.n).gangs s.arg.m with
    | none => s
    | some g =>
      if g.barArr = [] || !g.full then s
      else
        let k := s.cluster s.arg.n
        let s1 := s.setCluster s.arg.n { k with gangs := fset k.gangs s.arg.m { g with barArr := [], barGen := g.barGen + 1 } }
        let t := g.latest
        (((List.range g.barArr.length).zip (g.barArr.map (·.1)))).foldl (fun s p => s.barResume s.arg.n s.arg.m t p) s1)

/-! ### Control registers (R37 to R43, R184, R338) -/

/-- A selector of the table of R38; XREG and XLAB only in a handler (R338). -/
def selKnown (handler : Bool) (n : Nat) : Bool :=
  n ≤ 9 || (0x10 ≤ n && n ≤ 0x15) || (0x18 ≤ n && n ≤ 0x1A) || n == 0x20 || n == 0x21 || n == 0x30 || n == 0x40
    || (0x81 ≤ n && n ≤ 0x90) || (handler && 0xC0 ≤ n && n ≤ 0x13F)
/-- Selectors whose job access is PRIV (R38). -/
def selPriv (n : Nat) : Bool := n == 0x13 || n == 0x21 || n == 0x40 || n == 0x84 || n == 0x8D

/-- The value of a control register (R38). -/
def State.ctlReg (s : State) (n : Nat) : Word :=
  let k := s.me
  let a := k.act
  let cl := s.myCluster
  match n with
  | 0x00 => a.flags
  | 0x01 => a.focus
  | 0x02 => a.clab.setWidth 64
  | 0x03 => if k.lpol then 1 else 0
  | 0x04 => a.sa.setWidth 64 ||| (a.va.setWidth 64 <<< 4) ||| (BitVec.ofNat 64 a.slot <<< 8)
  | 0x05 => a.pix
  | 0x06 => k.color
  | 0x07 => BitVec.ofNat 64 s.cur ||| (s.plant.modId.setWidth 64 <<< 16) ||| (k.tslot.setWidth 64 <<< 32)
  | 0x08 => cl.ltime.setWidth 64
  | 0x09 => s.cycle s.cur
  | 0x10 => k.xcause
  | 0x11 => k.xval
  | 0x12 => k.xpc
  | 0x13 => k.xvec
  | 0x14 => k.uvec
  | 0x15 => k.xdeleg
  | 0x18 => k.lsplit.setWidth 64
  | 0x19 => k.vpool.setWidth 64
  | 0x1A => (k.carve &&& ~~~ ((0x3F : Word) <<< 16)) ||| (BitVec.ofNat 64 (k.cacheUnits % 64) <<< 16)
  | 0x20 => k.age.setWidth 64
  | 0x21 => k.chbase
  | 0x30 => k.msquota
  | 0x40 => k.dmapbase
  | 0x81 => k.accmap.setWidth 64
  | 0x82 => k.rngst
  | 0x83 => cl.mxwt
  | 0x84 => k.ptroot
  | 0x85 => 0x708404020
  | 0x86 => cl.ordcfg
  | 0x87 => a.focld
  | 0x88 => k.sqwake
  | 0x89 => k.msgcnt
  | 0x8A => k.hqbase
  | 0x8B => BitVec.ofNat 64 (match a.trap with | some t => t.deferred.length | none => a.deferred.length) ||| (if a.dfr then 0x20 else 0)
  | 0x8C => k.xrpc
  | 0x8D => k.ctxbase
  | 0x8E => s.plant.hostcap
  | 0x8F => cl.errcnt
  | 0x90 => cl.clwdog
  | _ => if n < 0x100 then (a.sregs.toList.getD (n % 64) {}).val else (a.sregs.toList.getD (n % 64) {}).lab.setWidth 64

/-- The checks that GETC and SETC share: a listed selector, privilege, the register, and the register that XREG and XLAB
name (R37, R84, R338). -/
def State.selCheck (s : State) (n : Nat) (r : BitVec 6) : Res Unit :=
  if !selKnown s.act.trap.isSome n then s.illegal
  else if selPriv n && !s.act.sup then trapped .priv s.rawVal
  else match s.regs [.s r.toNat] with
    | .error e => .error e
    | .ok _ => if 0xC0 ≤ n && 8 * s.act.sa.toNat ≤ n % 64 then trapped .regbound (RU.s (n % 64)).xval else .ok ()

/-- GETC writes the value with the TRUE label (R38, R184). -/
def execGetc (s : State) : Host.Outcome State Fault Refusal :=
  let n := s.ir.imm.toNat
  s.run (match s.selCheck n s.ir.d with
    | .error e => .error e
    | .ok _ =>
      match s.freeS s.ir.d with
      | .error e => .error e
      | .ok _ => .ok (s.writeS s.ir.d (s.ctlReg n) hTRUE))

/-- A SETC of the plain kind: fields of a mask change, the rest reads as before; job-mode writes of an RO register change
nothing (R14, R37, R38). -/
def State.setPlain (s : State) (n : Nat) (v : Word) : State :=
  let k := s.me
  let a := k.act
  let cl := s.myCluster
  let sup := a.sup
  match n with
  | 0x01 => s.setAct { a with focus := v }
  | 0x03 => s.setMe { k with lpol := v.getLsbD 0 }
  | 0x10 => s.setMe { k with xcause := v &&& 0x1FF }
  | 0x11 => s.setMe { k with xval := v }
  | 0x12 => s.setMe { k with xpc := v }
  | 0x13 => s.setMe { k with xvec := v &&& ~~~3 }
  | 0x14 => s.setMe { k with uvec := v &&& ~~~3 }
  | 0x15 => if sup then s.setMe { k with xdeleg := v &&& 0x7FFF6 } else s
  | 0x20 => if sup then s.setMe { k with age := v.setWidth 16 } else s
  | 0x21 => s.setMe { k with chbase := v &&& ~~~0xFFE }
  | 0x40 => s.setMe { k with dmapbase := v &&& ~~~0x3E }
  | 0x82 => s.setMe { k with rngst := v }
  | 0x84 => s.setMe { k with ptroot := v &&& 0x7FFFFFFFFF001 }
  | 0x87 => s.setAct { a with focld := v &&& 1 }
  | 0x88 => s.setMe { k with sqwake := v &&& 0x077F077F }
  | 0x89 => if sup then s.setMe { k with msgcnt := v } else s
  | 0x8A => if sup then s.setMe { k with hqbase := v &&& ~~~0x3E } else s
  | 0x8C => s.setMe { k with xrpc := v }
  | 0x8D => s.setMe { k with ctxbase := v &&& ~~~0xFFFFE }
  | 0x8F => if sup then s.setMyCluster { cl with errcnt := v } else s
  | 0x90 => if sup then s.setMyCluster { cl with clwdog := v &&& 0xFFFFFF } else s
  | _ => s

/-- SETC of a register: the checks, then its effect on the value of sa, whose label is ignored (R38, R184). -/
def State.setcRes (s : State) (n : Nat) (f : Word → Res State) : Res State :=
  match s.selCheck n s.ir.a with
  | .error e => .error e
  | .ok _ => f (s.act.rd s.ir.a).val

def execSetc (s : State) : Host.Outcome State Fault Refusal :=
  s.run (s.setcRes s.ir.imm.toNat (fun v => .ok (s.setPlain s.ir.imm.toNat v)))

/-- FLAGS: RM of 5 or 7 is ILLEGAL (R40). -/
def execSetcFlags (s : State) : Host.Outcome State Fault Refusal :=
  s.run (s.setcRes 0 (fun v =>
    if v.toNat % 8 = 5 || v.toNat % 8 = 7 then s.illegal else .ok (s.setAct { s.act with flags := v &&& 0x1FF01FF07 })))

/-- LSPLIT (R224, R225). -/
def State.setLsplit (s : State) (v : Word) : State :=
  let k := s.me
  let u := v.toNat % 64
  if !s.act.sup || 32 < u || k.chans.toList.any (fun ch => ch.touches (u * 0x2000)) then s
  else
    let old := k.lsplit.toNat
    let s1 := s.setMe { k with lsplit := BitVec.ofNat 6 u }
    if k.carveRun.isSome then s1
    else
      let s2 := s1.clearScratch s.cur (Nat.min old u * 0x2000) (Nat.max old u * 0x2000)
      s2.resized s.cur

def execSetcLsplit (s : State) : Host.Outcome State Fault Refusal := s.run (s.setcRes 0x18 (fun v => .ok (s.setLsplit v)))

/-- Whether a command of core c's queues names an accumulator (R43). -/
def Cluster.names (k : Cluster) (c : Nat) (acc : BitVec 4) : Bool :=
  let q := (k.mxq.toList.getD (c % 8) {})
  (match q.active with | some m => m.acc == acc | none => false) || (match q.shadow with | some m => m.acc == acc | none => false)

/-- ACCMAP: accumulators that no other core owns are taken, others released at once or when their commands end (R43). -/
def State.setAccmap (s : State) (v : Word) : State :=
  if !s.act.sup then s
  else
    let k := s.me
    let others := (coresOf s.cl).foldl (fun m c => if c = s.cur then m else m ||| (s.core c).accmap) 0
    let bit (i : Nat) : Bool := v.getLsbD i && !others.getLsbD i
    let busy (i : Nat) : Bool := k.accmap.getLsbD i && s.myCluster.names s.cur (BitVec.ofNat 4 i)
    let map : BitVec 16 := BitVec.ofNat 16 (((List.range 16).filter (fun i => bit i || busy i)).map (2 ^ ·)).sum
    let rel : BitVec 16 := BitVec.ofNat 16 (((List.range 16).filter (fun i => !bit i && busy i)).map (2 ^ ·)).sum
    s.setMe { k with accmap := map, accRel := rel }

def execSetcAccmap (s : State) : Host.Outcome State Fault Refusal := s.run (s.setcRes 0x81 (fun v => .ok (s.setAccmap v)))

/-- VPOOL: a SHARE of 3 is ignored as a whole (R227). -/
def execSetcVpool (s : State) : Host.Outcome State Fault Refusal :=
  s.run (s.setcRes 0x19 (fun v => .ok (if !s.act.sup || v.toNat / 2 % 4 = 3 then s else (s.setMe { s.me with vpool := v.setWidth 3 }).resized s.cur)))

/-- CARVE: MINC above MAXC or a field above 32 is ignored as a whole; FB is W1C (R228). -/
def execSetcCarve (s : State) : Host.Outcome State Fault Refusal :=
  s.run (s.setcRes 0x1A (fun v =>
    let minc := v.toNat % 64
    let maxc := v.toNat / 2 ^ 8 % 64
    .ok (if maxc < minc || 32 < minc || 32 < maxc then s
      else
        let c := (s.me.carve &&& ~~~(0x3F3F : Word)) ||| (v &&& 0x3F3F)
        s.setMe { s.me with carve := if v.getLsbD 32 then c &&& ~~~((1 : Word) <<< 32) else c })))

/-- ORDCFG: a field out of range is ignored as a whole (R245). -/
def execSetcOrdcfg (s : State) : Host.Outcome State Fault Refusal :=
  s.run (s.setcRes 0x86 (fun v =>
    let n := v.toNat
    let skip := n / 2 ^ 28 % 32
    .ok (if !s.act.sup || n % 2 ^ 16 = 0 || n / 2 ^ 16 % 2 ^ 12 = 0 || skip < 8 || 30 < skip || n / 2 ^ 40 = 0 then s
      else s.setMyCluster { s.myCluster with ordcfg := v &&& 0xFFFFFF01FFFFFFFF })))

/-- MXWT (R205). -/
def execSetcMxwt (s : State) : Host.Outcome State Fault Refusal :=
  s.run (s.setcRes 0x83 (fun v => .ok (if s.act.sup then s.setMyCluster { s.myCluster with mxwt := v &&& 0xFFFFFFFF } else s)))

/-- The charge of a must-save set in units of 64 KiB (R342). -/
def charge (l : List MustSave) : Nat := (l.map (fun r => (r.len.toNat + 0xFFFF) / 0x10000)).sum
/-- The Sill die of a core (R18). -/
def sillOf (c : Nat) : Nat := dieOf (c / 8) / 4

/-- MSQUOTA: refused when the Sill die's quotas pass 1,024 units, or below the current charge (R408). -/
def State.setMsquota (s : State) (v : Word) : State :=
  let q := v.toNat % 2 ^ 11
  let others := ((s.cores.filter (fun p => p.1 != s.cur && sillOf p.1 == sillOf s.cur)).map (fun p => p.2.msquota.toNat % 2 ^ 11)).sum
  if !s.act.sup || 1024 < others + q || q < charge s.me.mustSave then s else s.setMe { s.me with msquota := v &&& 0x107FF }

def execSetcMsquota (s : State) : Host.Outcome State Fault Refusal := s.run (s.setcRes 0x30 (fun v => .ok (s.setMsquota v)))

/-- PIX: read-only in job mode (R359). -/
def execSetcPix (s : State) : Host.Outcome State Fault Refusal :=
  s.run (s.setcRes 0x05 (fun v => .ok (if s.act.sup then s.setAct { s.act with pix := v &&& 0x7F } else s)))

/-- XDEFR: DROP discards every entry of the list (R356). -/
def State.dropDeferred (s : State) : State :=
  let a := s.act
  match a.trap with
  | some t => (s.unrefAll s.cl (t.deferred.flatMap Deferred.labs)).setAct { a with trap := some { t with deferred := [] } }
  | none => (s.unrefAll s.cl (a.deferred.flatMap Deferred.labs)).setAct { a with deferred := [] }

def execXdefrDrop (s : State) : Host.Outcome State Fault Refusal :=
  s.run (s.setcRes 0x8B (fun v => .ok (if v.getLsbD 6 then s.dropDeferred else s)))

/-- A scalar register of the interrupted activation takes a value and a label (R338). -/
def State.writeX (s : State) (n : BitVec 6) (v : Word) (l : Handle) : State :=
  if n = 0 then s
  else (s.swapRef l (s.act.sregs[n.toNat]'n.isLt).lab).setAct { s.act with sregs := s.act.sregs.set n.toNat ⟨v, l⟩ n.isLt }

def execXregWrite (s : State) : Host.Outcome State Fault Refusal :=
  let n : BitVec 6 := s.ir.imm.setWidth 6
  s.run (s.setcRes (0xC0 + n.toNat) (fun v => .ok (s.writeX n v hTRUE)))

def execXlabWrite (s : State) : Host.Outcome State Fault Refusal :=
  let n : BitVec 6 := s.ir.imm.setWidth 6
  s.run (s.setcRes (0x100 + n.toNat) (fun v =>
    if !s.handleOk v then trapped .prot v
    else .ok (s.writeX n (s.act.sregs[n.toNat]'n.isLt).val (v.setWidth 16))))

/-! ### Events of an activation -/

/-- Result k of the activation in slot m of core n lands (R79). -/
def execResultLands (s : State) : Host.Outcome State Fault Refusal := .next (s.land s.arg.n s.arg.m s.arg.k)

/-- The trap that waits on the running activation of core n is taken once its results have settled (R336, R355). -/
def execTrapEntry (s : State) : Host.Outcome State Fault Refusal :=
  let k := s.core s.arg.n
  .next (match (if k.running && !k.halted then k.act.pend else none) with
    | some p => if k.act.outs = [] then (State.trapNow ({ s with cur := s.arg.n }.setCore s.arg.n { k with act := { k.act with pend := none } }) p) else s
    | none => s)

/-- The cycles of a SLEEP have passed (R334). -/
def execSleepExpiry (s : State) : Host.Outcome State Fault Refusal :=
  .next (match s.parkedAt s.arg.n s.arg.m with
    | some a => match a.park with
      | some (.sleep till) => if (s.clock - till).toNat < 2 ^ 63 then s.resume s.arg.n s.arg.m none none else s
      | _ => s
    | none => s)

/-- The flushing read that a parked FENCE.SYS awaits has come back; the fence is passed once its results have landed too (R264, R273). -/
def execFenceComplete (s : State) : Host.Outcome State Fault Refusal :=
  .next (match s.parkedAt s.arg.n s.arg.m with
    | some a => match a.park with
      | some (.fence _) =>
        (s.setCore s.arg.n ((s.core s.arg.n).putSlot a.slot { a with posted := false })).settle s.arg.n s.arg.m
      | _ => s
    | none => s)

/-- A parked activation acts as if it ran, and becomes ready (R270, R288); after a marker it waits for its result, or takes the fault
that was recorded (R80, R82). -/
def State.onParked (s : State) (c slot : Nat) (sw : Bool) (f : State → State) : State :=
  match s.parkedAt c slot with
  | none => s
  | some a =>
    let k := s.core c
    let s1 := f (({ s with cur := c }).setCore c { k with running := true, act := a })
    let b := s1.act
    let s2 := { s1 with cur := s.cur }.setCore c { s1.core c with running := k.running, act := k.act }
    if sw && b.outs != [] then s2.setCore c ((s2.core c).putSlot slot { b with park := some .outs })
    else s2.wake c slot (fun _ => match (if sw then b.deferred else []) with | d :: _ => { b with pend := some (deferredTrap d b.pc) } | [] => b)

/-- A parked instruction that loads when its wait ends: the load is performed, and a fault becomes its trap, or is recorded where the
access is a long-latency one (R354). -/
def State.loadAtWake (s : State) (short : Bool) (iss : Issue) (op : LOp) (r : Res (State × List RegWrite × Word)) : State :=
  let on (t : State) : State := t.setAct { t.act with
    pc := t.act.npc, elect := none, electGen := if iss.elect.isSome then t.act.electGen + 1 else t.act.electGen }
  match r with
  | .ok (t, ws, f) =>
    let t2 := on (if short then (t.applyNow ws).orFlags f else t.leave ⟨op, iss, ws, f⟩)
    match iss.elect, ws with
    | some g, [.s _ v l] => if short then t2.electGive t2.cur g v l t2.act.floor else t2
    | _, _ => t2
  | .error e =>
    match s.faulted e (fun t c v => .ok (if !short && c.late then on (t.defer op iss c v none)
      else t.setAct { t.act with pend := some { cause := c, xval := v, xpc := t.act.xpcOf } })) with
    | .ok t => t
    | .error _ => s

/-- The bit that an LDFE awaits is full, and it loads (R270). -/
def execLdfeWake (s : State) : Host.Outcome State Fault Refusal :=
  .next (match s.parkedAt s.arg.n s.arg.m with
    | some a => match a.park with
      | some (.ldfe x d la sw iss) =>
        match s.feState s.arg.n a.sup x with
        | .ok false => s
        | .ok true => s.onParked s.arg.n s.arg.m sw (fun t => t.loadAtWake (ownShort t.cur x 8) iss (.ldfe x d la) (t.doLdfe iss x d la))
        | .error (c, v) => s.onParked s.arg.n s.arg.m sw (fun t => t.loadAtWake (ownShort t.cur x 8) iss (.ldfe x d la) (.error (.access x c v)))
      | some (.ldfeAgain x) =>
        match s.feState s.arg.n a.sup x with
        | .ok false => s
        | _ => s.wake s.arg.n s.arg.m id
      | _ => s
    | none => s)

end Sys2Proof.Machine
end

