-- ==== Sys2Proof/Machine/Bte.lean ====
section
/-! DEFINITION. The block-transfer engine (R283 to R288, R431): chains, records, completion entries, and the waits for ring headers
and sync words. -/

namespace Sys2Proof.Machine

/-! ### Engine writes by address -/

/-- Why an engine's access does not go through: it waits for a release at an address, or faults there. -/
inductive EStop where
  | wait (x : Word)
  | fault (c : Cause) (x : Word)
  deriving DecidableEq, Repr

def liftF {α : Type} : Except (Cause × Word) α → Except EStop α
  | .ok a => .ok a
  | .error (c, x) => .error (.fault c x)

/-- The pieces of a range that an engine will write, none of them under tenure (R256). -/
def State.putPieces (s : State) (core : Nat) (sup : Bool) (x : Word) (n : Nat) : Except EStop (List Piece) :=
  match s.pieces core sup .wr x n with
  | .error (c, v) => .error (.fault c v)
  | .ok ps => match ps.find? (fun p => s.engWaits false p.key) with
    | some p => .error (.wait p.addr)
    | none => .ok ps

/-- Bytes at the pieces of a range, each granule tagged with a label and, where partial, its old tag (R131). -/
def State.putAll (s : State) (slot : Nat) (bytes : List Byte) (cmd : Lab) : List Piece → Except EStop (State × Word)
  | [] => .ok (s, 0)
  | p :: l =>
    match (s.engWrite false p.key ((bytes.drop p.off).take p.len)).engTag false slot p.key (p.len == 16) [] cmd with
    | .error c => .error (.fault c p.addr)
    | .ok (t, f) =>
      match t.putAll slot bytes cmd l with
      | .error e => .error e
      | .ok (u, g) => .ok (u, f ||| g)

/-- Bytes are written at an address under a label: as a signal, stamped no earlier than a time, or as data (R260, R261). The
greatest stamp comes back. -/
def State.engPut (s : State) (core : Nat) (sup : Bool) (slot : Nat) (x : Word) (bytes : List Byte) (cmd : Lab) (signal : Bool)
    (most : Option Time) : Except EStop (State × Word × Option Time) :=
  match s.putPieces core sup x bytes.length with
  | .error e => .error e
  | .ok ps => match s.putAll slot bytes cmd ps with
    | .error e => .error e
    | .ok (t, f) =>
      let r := if signal then t.stampLines most (stampedLines ps) else t.stampData most (stampedLines ps)
      .ok (r.1, f, r.2)

/-! ### Moving data with its tags (R131) -/

/-- Bits that go into one destination byte, with the granule they come from: none for zero-fill. -/
structure BPart where
  key : Nat
  addr : Word
  plain : Bool := false
  view : View := false
  mask : Nat := 255
  val : Nat
  src : Option (Nat × Lab) := none
  /-- the place of the source in the order of its tags -/
  ord : Nat := 0
  deriving DecidableEq, Repr

/-- The parts of one destination granule: whether they cover it whole. -/
def coversGranule (g : Nat) (ps : List BPart) : Bool :=
  (List.range 16).all (fun i => ((ps.filter (fun p => p.key == 16 * g + i)).foldl (fun m p => m ||| p.mask) 0) == 255)

def dedupSrc : List (Option (Nat × Lab)) → List (Option (Nat × Lab))
  | [] => []
  | a :: l => a :: (dedupSrc l).filter (fun b => b != a)

/-- Parts in the order of their sources. -/
def byOrd : List BPart → List BPart
  | [] => []
  | a :: l =>
    let r := byOrd l
    r.takeWhile (fun b => decide (b.ord < a.ord)) ++ a :: r.dropWhile (fun b => decide (b.ord < a.ord))

/-- One granule takes its parts (R131, R235). -/
def State.moveGranule (s : State) (slot : Nat) (reclab : Lab) (g : Nat) (ps : List BPart) : Except Cause (State × Word) :=
  let v := match ps with | p :: _ => p.view | [] => false
  let whole := coversGranule g ps
  let t := ps.foldl (fun s p => s.engWrite v p.key [BitVec.ofNat 8 (((s.rdByte v p.key).toNat &&& (255 - p.mask)) ||| p.val)]) s
  match whole, dedupSrc ((byOrd ps).map (·.src)) with
  | true, [some a] => t.engTag v slot (16 * g) true [a.2] (some [0])
  | w, l => t.engTag v slot (16 * g) w (l.filterMap (fun a => a.map (·.2))) reclab

def granulesOf (ps : List BPart) : List Nat := dedupNat (ps.map (fun p => p.key / 16))

/-- What a move has done: the state, flags, the parts that were performed, and what stopped it. -/
structure Moved where
  st : State
  flags : Word := 0
  parts : List BPart := []
  stop : Option (Cause × Word) := none
  deriving DecidableEq, Repr

/-- Parts by granule, in the order in which the granules first appear. -/
def State.moveEach (s : State) (slot : Nat) (reclab : Lab) (ps : List BPart) : List Nat → Moved
  | [] => { st := s }
  | g :: gs =>
    let mine := ps.filter (fun p => p.key / 16 == g)
    match s.moveGranule slot reclab g mine with
    | .error c => { st := s, stop := some (c, (mine.map (·.addr)).headD 0) }
    | .ok (t, f) =>
      let r := t.moveEach slot reclab ps gs
      { r with flags := f ||| r.flags, parts := mine ++ r.parts }

/-- Parts are moved, and the homes stamp the lines written, those of a working version by its own times (R255, R260); with the greatest
stamp. -/
def State.moveAll (s : State) (slot : Nat) (reclab : Lab) (most : Option Time) (ps : List BPart) : Moved × Option Time :=
  let r := s.moveEach slot reclab ps (granulesOf ps)
  let lines (v : View) : List Nat := dedupNat ((r.parts.filter (fun p => p.view == v && !p.plain)).map (fun p => p.key / 64))
  let w := r.st.stampData most (lines false)
  let y := w.1.stampWork w.2 (lines true)
  ({ r with st := y.1 }, y.2)

/-- Bytes that a move has written. -/
def Moved.bytes (m : Moved) : Nat := (dedupNat (m.parts.map (·.key))).length

/-! ### Channels (R283, R431) -/

def State.bteAt (s : State) (k m : Nat) : Bte := (s.cluster k).bte.toList.getD m {}
def State.setBte (s : State) (k m : Nat) (b : Bte) : State :=
  let c := s.cluster k
  s.setCluster k { c with bte := c.bte.setIfInBounds m b }

/-- A chain starts at a record. -/
def bteStart (head : Word) (lab : Handle) (core aid : Nat) (sup : Bool) : Bte :=
  { state := 1, raddr := head, lab := lab, core := core, aid := aid, sup := sup }

/-- BTGO. The chain of an activation that a cancellation has met stops at once (R306). -/
def State.btgoRes (s : State) : Res State :=
  let a := s.act.rd s.ir.a
  let b := s.act.rd s.ir.b
  match s.regs [.s s.ir.a.toNat, .s s.ir.b.toNat] with
  | .error e => .error e
  | .ok _ => match s.noPoison [a, b] with
    | .error e => .error e
    | .ok _ =>
      if 15 < a.val.toNat then trapped .bounds a.val
      else if b.val.toNat % 64 != 0 then trapped .alignatom b.val
      else
        let m := a.val.toNat
        let x := s.bteAt s.cl m
        if s.act.cancelled && x.state = 1 then .ok s
        else if x.state = 1 && x.queued != 0 then .error .stall
        else match s.product [a.lab, b.lab, s.act.clab] with
          | .error e => .error e
          | .ok (t, l, f) =>
            let y := if x.state = 1 then { x with queued := b.val, qlab := l, qcore := s.cur, qaid := s.act.aid, qsup := s.act.sup }
              else { bteStart b.val l s.cur s.act.aid s.act.sup with cancel := s.act.cancelled }
            .ok (((t.refC t.cl l).setBte t.cl m y).orFlags (f &&& flagLW))

def execBtgo (s : State) : Host.Outcome State Fault Refusal := s.run s.btgoRes

/-- A chain has ended: the queued head, if any, starts; else the channel is idle. Stalled cores try again (R283). -/
def State.bteEnd (s : State) (k m : Nat) (b : Bte) : State :=
  let s1 := (s.unrefC k b.lab).unrefC k b.rlab
  let y := if b.queued != 0 then bteStart b.queued b.qlab b.qcore b.qaid b.qsup else { raddr := b.raddr, bytes := b.bytes }
  (s1.setBte k m y).unstall

/-- A fault halts the channel and discards its queued head (R283, R431). -/
def State.bteHalt (s : State) (k m : Nat) (b : Bte) (cause : Byte) (stage : BitVec 3) (faddr : Word) : State :=
  let s1 := ((s.unrefC k b.lab).unrefC k b.rlab).unrefC k (if b.queued != 0 then b.qlab else hTRUE)
  (s1.setBte k m { state := 2, cause := cause, stage := stage, raddr := b.raddr, faddr := faddr, bytes := b.bytes }).unstall

/-- The reserved bits of a record, by kind (R284). -/
def recRsv (r : Line) : Bool :=
  let kind := lf r 64 3
  lf r 69 3 != 0 || lf r 80 48 != 0 ||
    (match kind with
     | 0 => lf r 288 96 != 0
     | 1 => lf r 138 6 != 0 || lf r 145 47 != 0
     | 2 => lf r 320 64 != 0
     | 3 => false
     | _ => lf r 192 192 != 0)

/-- A record that ends with FORMAT when it is fetched (R284). -/
def recFormat (r : Line) : Bool :=
  let kind := lf r 64 3
  decide (4 < kind) || recRsv r || lf r 0 6 != 0 || (kind == 0 && lf r 256 32 == 0)
    || (kind == 2 && (lf r 192 3 != 0 || lf r 256 3 != 0))

/-- The work of the current record is over, with a status and the place of a fault. -/
def Bte.over (b : Bte) (status : Nat) (c : Nat) (stage : BitVec 3) (x : Word) : Bte :=
  { b with owed := some (BitVec.ofNat 8 status, BitVec.ofNat 8 c), hcause := BitVec.ofNat 8 c, hstage := stage, haddr := x, since := 0, put := false }
def Bte.faulted (b : Bte) (c : Cause) (x : Word) : Bte := b.over 1 c.code 2 x
def Bte.format (b : Bte) : Bte := b.over 2 1 5 0

/-- The engine fetches the record of a channel (R285): its label, its checks, the copy of its tensor record (R101). -/
def State.bteFetch (s : State) (k m : Nat) (b : Bte) : State :=
  let s := s.engWalks b.core [b.raddr]
  let slot := (s.core b.core).tslot.toNat
  match s.engRead b.core b.sup slot b.raddr 64 with
  | .error (c, x) => s.bteHalt k m b (BitVec.ofNat 8 c.code) 1 x
  | .ok (bytes, ps) =>
    let r := Line.ofBytes bytes
    if !r.getLsbD 67 then s.bteEnd k m b
    else
      let o := s.on b.core
      match o.productW (.h b.lab :: ps.map (fun p => o.tagSrc false p.key)) with
      | none => s.bteHalt k m b (BitVec.ofNat 8 Cause.ltfull.code) 1 b.raddr
      | some (t, l, f) =>
        let b1 := { b with
          cur := some r, body := none, pos := 0, iter := 0, count := none, bytes := 0, fc := false, rlab := l
          flg := (f >>> 8).setWidth 9, tcopy := if lf r 64 3 = 1 then s.tidOf slot (lf r 128 10) else 0 }
        ((t.refC k l).on s.cur).setBte k m (if recFormat r || (lf r 64 3 = 1 && tIsMx b1.tcopy) then b1.format else b1)

/-- A channel in whose record something is to be done, with the record: the engine fetches it first. -/
def State.bteWork (s : State) (k m kind : Nat) (f : Bte → Line → State) : State :=
  let b := s.bteAt k m
  if 15 < m || b.state != 1 || s.engStopped k b.core || b.owed.isSome then s
  else match b.cur with
    | none =>
      if b.cancel then s.bteEnd k m b
      else
        let t := s.bteFetch k m b
        let c := t.bteAt k m
        match c.cur with
        | some r => if lf r 64 3 = kind || c.owed.isSome then t else s
        | none => t
    | some r => if lf r 64 3 != kind then s else if b.cancel then s.setBte k m (b.over 3 0 0 0) else f b r

/-- A channel waits for a release, at a stage of R431. -/
def State.bteWaits (s : State) (k m : Nat) (b : Bte) (stage : BitVec 3) (x : Word) : State :=
  s.setBte k m { b with since := if b.since = 0 then s.clock else b.since, waitAt := x, waitStage := stage }

/-- A step of a record that waits for a release, or ends with a fault. -/
def State.bteStop (s : State) (k m : Nat) (b : Bte) : EStop → State
  | .wait x => s.bteWaits k m b 2 x
  | .fault c x => s.setBte k m (b.faulted c x)

/-- Bytes counted in a sync word (R287): COUNT rises, and GEN for every TARGET that it holds. -/
def syncAdd (w : Nat) (n : Nat) : Nat :=
  let target := w % 2 ^ 32
  let count := (w / 2 ^ 32 % 2 ^ 32 + n) % 2 ^ 32
  let gen := w / 2 ^ 64 % 2 ^ 32
  if target = 0 then target + count * 2 ^ 32 + gen * 2 ^ 64 + w / 2 ^ 96 * 2 ^ 96
  else target + count % target * 2 ^ 32 + (gen + count / target) % 2 ^ 32 * 2 ^ 64 + w / 2 ^ 96 * 2 ^ 96

/-- Whether an address lies in a scratchpad window (R288). -/
def inScratchWindow (x : Word) : Bool := x.toNat / 2 ^ 60 == 8 || x.toNat / 2 ^ 60 == 9

/-- The sync word of a record takes the bytes of a unit (R284, R285, R287). One that is not aligned ends the record with ALIGNATOM, and one
outside the scratchpad windows with XLATE, as a SYNCW's would trap (DESIGN CHOICE, log 59). -/
def State.bteSync (s : State) (b : Bte) (lab : Lab) (x : Word) (n : Nat) : Except EStop (State × Word × Option Time) :=
  if x = 0 || n = 0 then .ok (s, 0, b.wmax)
  else if x.toNat % 16 != 0 then .error (.fault .alignatom x)
  else if !inScratchWindow x then .error (.fault .xlate x)
  else
    let slot := (s.core b.core).tslot.toNat
    match liftF (s.engRead b.core b.sup slot x 16) with
    | .error e => .error e
    | .ok (bytes, _) =>
      let w := syncAdd (ofBytes bytes) n
      s.engPut b.core b.sup slot (x + 4) (toBytes 8 (w / 2 ^ 32)) lab true b.wmax

/-! ### COPY (R285) -/

/-- A source byte with its address, its granule and the granule's label. -/
structure SrcByte where
  val : Byte
  addr : Word
  gran : Nat × Lab
  deriving DecidableEq, Repr

/-- The source bytes of a range with the tags of their granules, in an engine's view. -/
def State.srcParts (s : State) (core : Nat) (sup : Bool) (slot : Nat) (x : Word) (n : Nat) : Except (Cause × Word) (List SrcByte) :=
  match s.engRead core sup slot x n with
  | .error e => .error e
  | .ok (_, ps) =>
    let o := s.on core
    .ok (ps.flatMap (fun p => (s.rdBytes false p.key p.len).map (fun b => ⟨b, p.addr, p.key / 16, o.srcLab (o.tagSrc false p.key)⟩)))

/-- The bytes of the pieces of a destination: address, key, and whether the line keeps no stamps. -/
def destBytes (ps : List Piece) : List (Word × Nat × Bool) :=
  ps.flatMap (fun p => (List.range p.len).map (fun i => (p.addr + BitVec.ofNat 64 i, p.key + i, p.plain)))

/-- A unit of data has been moved: its bytes are counted in the record and in the sync word, which may itself fault; a unit whose sync
word waits for a release has not been performed. -/
def State.unitDone (s : State) (k m : Nat) (b : Bte) (reclab : Lab) (sync : Word) (mv : Moved) (w : Option Time) (fault : Option (Cause × Word))
    (next : Bte → Bte) : State :=
  let b1 := { b with bytes := b.bytes + BitVec.ofNat 32 mv.bytes, wmax := w, flg := b.flg ||| (mv.flags >>> 8).setWidth 9, since := 0 }
  match mv.st.bteSync b1 reclab sync mv.bytes, (mv.stop.or fault) with
  | .error (.wait x), _ => s.bteWaits k m b 2 x
  | .error (.fault _ _), some (c, x) => mv.st.setBte k m (b1.faulted c x)
  | .error (.fault c x), none => mv.st.setBte k m (b1.faulted c x)
  | .ok (t, f, w2), stop =>
    let b2 := { b1 with wmax := w2, flg := b1.flg ||| (f >>> 8).setWidth 9 }
    t.setBte k m (match stop with | some (c, x) => b2.faulted c x | none => next b2)

/-- The sync word that a record names, if it names one (R284). -/
def syncAt (x : Word) : List Word := if x = 0 then [] else [x]

/-- One destination unit of a COPY, from a source and destination already moved on: at most 64 bytes, within DST's line. -/
def State.copyUnit (s : State) (k m : Nat) (b : Bte) (reclab : Lab) (src dst : Word) (len : Nat) (sync : Word) (next : Bte → Bte) : State :=
  let s := s.engWalks b.core (src :: (src + BitVec.ofNat 64 (len - 1)) :: dst :: syncAt sync)
  let slot := (s.core b.core).tslot.toNat
  match liftF (s.srcParts b.core b.sup slot src len) with
  | .error e => s.bteStop k m b e
  | .ok data => match s.putPieces b.core b.sup dst len with
    | .error e => s.bteStop k m b e
    | .ok ps =>
      let parts := ((destBytes ps).zip data).map (fun p =>
        ({ key := p.1.2.1, addr := p.1.1, plain := p.1.2.2, val := p.2.val.toNat, src := some p.2.gran, ord := p.2.addr.toNat } : BPart))
      let r := s.moveAll slot reclab b.wmax parts
      s.unitDone k m b reclab sync r.1 r.2 none next

/-- Bytes of the next unit of a transfer of len bytes to dst, pos of them done. -/
def unitLen (dst : Word) (len pos : Nat) : Nat := Nat.min (len - pos) (64 - (dst.toNat + pos) % 64)

/-- The position moves on, and at the end the record's work is over. -/
def Bte.advance (b : Bte) (n len : Nat) : Bte := if len ≤ b.pos + n then { b with pos := len }.over 0 0 0 0 else { b with pos := b.pos + n }

/-- The full form of a channel's record label. -/
def State.recLab (s : State) (k : Nat) (b : Bte) : Lab := tlab (s.cluster k).clt b.rlab

/-- The COPY of channel m of cluster n moves one destination unit (R285). -/
def execCopy (s : State) : Host.Outcome State Fault Refusal :=
  let k := s.arg.n
  let m := s.arg.m
  .next (s.bteWork k m 0 (fun b r =>
    let len := lf r 256 32
    let n := unitLen (lw r 192) len b.pos
    s.copyUnit k m b (s.recLab k b) (lw r 128 + BitVec.ofNat 64 b.pos) (lw r 192 + BitVec.ofNat 64 b.pos) n (lw r 448) (fun b => b.advance n len)))

/-! ### FILL -/

/-- One destination unit of a FILL: TRUE data under the label of the record (R131). The pattern repeats from the start of the fill, of
which so many bytes are done (R285). -/
def State.fillUnit (s : State) (k m : Nat) (b : Bte) (reclab : Lab) (pattern : Word) (dst : Word) (len : Nat) (sync : Word)
    (next : Bte → Bte) : State :=
  let s := s.engWalks b.core (dst :: syncAt sync)
  let slot := (s.core b.core).tslot.toNat
  match s.putPieces b.core b.sup dst len with
  | .error e => s.bteStop k m b e
  | .ok ps =>
    let bytes := toBytes 8 pattern.toNat
    let parts := (indexed (destBytes ps)).map (fun p =>
      ({ key := p.2.2.1, addr := p.2.1, plain := p.2.2.2, val := (bytes.getD ((b.pos + p.1) % 8) 0).toNat } : BPart))
    let r := s.moveAll slot reclab b.wmax parts
    s.unitDone k m b reclab sync r.1 r.2 none next

def execFill (s : State) : Host.Outcome State Fault Refusal :=
  let k := s.arg.n
  let m := s.arg.m
  .next (s.bteWork k m 2 (fun b r =>
    let len := (lw r 256).toNat
    if len = 0 then s.setBte k m (b.over 0 0 0 0)
    else
      let n := unitLen (lw r 192) len b.pos
      s.fillUnit k m b (s.recLab k b) (lw r 128) (lw r 192 + BitVec.ofNat 64 b.pos) n (lw r 448) (fun b => b.advance n len)))

/-! ### COUNTED -/

/-- The end of a unit of a body: the next unit, the next run, or the end of the record. -/
def Bte.advanceBody (b : Bte) (n len c : Nat) : Bte :=
  if b.pos + n < len then { b with pos := b.pos + n }
  else if b.iter + 1 < c then { b with pos := 0, iter := b.iter + 1 }
  else { b with pos := len, iter := c }.over 0 0 0 0

/-- Whether the flag of a COUNTED record is full: the bit of the released version, for the record names no handle (R255, R285). Host
memory keeps no bits (R266). -/
def State.flagFull (s : State) (core : Nat) (sup : Bool) (x : Word) : Except (Cause × Word) Bool :=
  match s.resolve core sup .rd x with
  | .error e => .error e
  | .ok key => if isHost key then .error (.prot, x) else .ok (s.full false key)

/-- COUNTED waits for its flag, reads its count and its body, and then moves a unit of the current run (R285). Only the body's SYNCA counts
its bytes; the record's own is ignored (DESIGN CHOICE, log 59). -/
def execCounted (s : State) : Host.Outcome State Fault Refusal :=
  let k := s.arg.n
  let m := s.arg.m
  .next (s.bteWork k m 3 (fun b r =>
    let slot := (s.core b.core).tslot.toNat
    match b.count, b.body with
    | some c, some body =>
      let step (lo : Nat) : Word := (BitVec.ofNat 32 (lf r lo 32)).signExtend 64 * BitVec.ofNat 64 b.iter
      let dst := lw body 192 + step 352
      if lf body 64 3 = 0 then
        let len := lf body 256 32
        let n := unitLen dst len b.pos
        s.copyUnit k m b (s.recLab k b) (lw body 128 + step 320 + BitVec.ofNat 64 b.pos) (dst + BitVec.ofNat 64 b.pos) n (lw body 448)
          (fun b => b.advanceBody n len c)
      else
        let len := (lw body 256).toNat
        if len = 0 then s.setBte k m (b.advanceBody 0 0 c)
        else
          let n := unitLen dst len b.pos
          s.fillUnit k m b (s.recLab k b) (lw body 128) (dst + BitVec.ofNat 64 b.pos) n (lw body 448) (fun b => b.advanceBody n len c)
    | _, _ =>
      let s := s.engWalks b.core [lw r 128]
      match s.flagFull b.core b.sup (lw r 128) with
      | .error (c, x) => s.setBte k m (b.faulted c x)
      | .ok false => s
      | .ok true =>
        let s := s.engWalks b.core [lw r 192]
        match s.engRead b.core b.sup slot (lw r 192) 4 with
        | .error (c, x) => s.setBte k m (b.faulted c x)
        | .ok (bytes, _) =>
          if ofBytes bytes = 0 then s.setBte k m ({ b with count := some 0 }.over 0 0 0 0)
          else
          let s := s.engWalks b.core [lw r 256]
          match s.engRead b.core b.sup slot (lw r 256) 64 with
            | .error (c, x) => s.bteHalt k m { b with raddr := lw r 256 } (BitVec.ofNat 8 c.code) 1 x
            | .ok (bb, ps) =>
              let body := Line.ofBytes bb
              let o := s.on b.core
              if recFormat (body &&& ~~~ (BitVec.ofNat 512 (2 ^ 64 - 1))) || 2 < lf body 64 3 || lf body 64 3 = 1 then s.setBte k m b.format
              else match o.productW (.h b.rlab :: ps.map (fun p => o.tagSrc false p.key)) with
                | none => s.setBte k m (b.faulted .ltfull (lw r 256))
                | some (t, l, f) =>
                  (((t.refC k l).unrefC k b.rlab).on s.cur).setBte k m { b with
                    count := some (ofBytes bytes), body := some body, rlab := l, flg := b.flg ||| (f >>> 8).setWidth 9 }))

/-! ### FEMARK -/

def execFemark (s : State) : Host.Outcome State Fault Refusal :=
  let k := s.arg.n
  let m := s.arg.m
  .next (s.bteWork k m 4 (fun b r =>
    let s := s.engWalks b.core [lw r 128]
    match s.putPieces b.core b.sup (lw r 128) 1 with
    | .error e => s.bteStop k m b e
    | .ok [] => s
    | .ok (p :: _) =>
      if isHost p.key then s.setBte k m (b.faulted .prot p.addr)
      else
        let w := (s.setFull false p.key true).stampLines b.wmax [p.key / 64]
        w.1.setBte k m ({ b with wmax := w.2 }.over 0 0 0 0)))

/-! ### TILE (R285) -/

/-- One element of a TILE record: its offset number and its places; an element outside under PERMIT, or pruned, has none in
the tensor. -/
structure TElem where
  n : Nat
  loc : Option Loc
  deriving DecidableEq, Repr

/-- Box offsets in increasing order, dimension 0 fastest. -/
def boxOffsets (box : BitVec 256) : List (List Nat) :=
  (product4 ((List.range 4).reverse.map (fun i => List.range (Nat.max 1 (bExt box i))))).map List.reverse

/-- The elements of the record up to the first fault. -/
def State.tileList (s : State) (core : Nat) (sup : Bool) (r : Line) (box : BitVec 256) : Nat → List (List Nat) → List TElem × Option (Cause × Word)
  | _, [] => ([], none)
  | n, os :: l =>
    match tInside r (boxAt box (os.map Int.ofNat)) with
    | none =>
      if !tPermit r then ([], some (.bounds, packOffsets (os.map Int.ofNat)))
      else let t := s.tileList core sup r box (n + 1) l; (⟨n, none⟩ :: t.1, t.2)
    | some cs => match s.placeOf core sup r cs with
      | .error e => ([], some e)
      | .ok p => let t := s.tileList core sup r box (n + 1) l; (⟨n, p⟩ :: t.1, t.2)

/-- The place of an element in the dense buffer. -/
def bufLoc (r : Line) (buf : Word) (n : Nat) : Loc :=
  if tPack r then { addr := buf + BitVec.ofNat 64 (n / 2), bytes := 1, shift := 4 * (n % 2), width := 4 }
  else { addr := buf + BitVec.ofNat 64 (n * tBytes r), bytes := tBytes r, width := 8 * tBytes r }

/-- The keys of a place's bytes: through the grant for an element under a handle. -/
def State.locKeys (s : State) (b : Bte) (h : Option Nat) (k : Kind) (l : Loc) : Except (Cause × Word) (List (Nat × Word)) :=
  (List.range l.bytes).foldr (fun i acc => match acc with
    | .error e => .error e
    | .ok ks =>
      let x := l.addr + BitVec.ofNat 64 i
      match (match h with | some j => s.grantKey (s.thandle j) b.core b.sup k x | none => s.resolve b.core b.sup k x) with
      | .error e => .error e
      | .ok key => .ok ((key, x) :: ks)) (.ok [])

/-- The parts that one element gives to its destination: a code below span, moved from one place to another (R91, R100). Without a handle,
the tensor's address is checked here (R98, R197). -/
def State.elemParts (s : State) (b : Bte) (slot : Nat) (h : Option Nat) (toTensor : Bool) (span : Nat) (buf : Loc) (t : Option Loc) :
    Except EStop (List BPart) :=
  let hs := if toTensor then none else h
  let hd := if toTensor then h else none
  match (if toTensor then t else some buf) with
  | none => .ok []
  | some d =>
    match (match t with | some l => if h.isNone && !tensorSpace l.addr then some l.addr else none | none => none) with
    | some x => .error (.fault .xlate x)
    | none =>
    match s.locKeys b hd .wr d with
    | .error (c, x) => .error (.fault c x)
    | .ok dk =>
      match dk.find? (fun p => s.engWaits (s.engView hd p.1) p.1) with
      | some p => .error (.wait p.2)
      | none =>
        let put (code : Nat) (srcOf : Nat → Option (Nat × Nat × Lab)) : List BPart :=
          (indexed dk).map (fun p =>
            let from_ := srcOf (if d.bytes = 1 then 0 else p.1)
            { key := p.2.1, addr := p.2.2, plain := isHost p.2.1 && s.tgtOf b.core p.2.2 == 2, view := s.engView hd p.2.1
              mask := (2 ^ d.width - 1) * 2 ^ d.shift / 256 ^ p.1 % 256, val := code * 2 ^ d.shift / 256 ^ p.1 % 256
              src := from_.map (·.2), ord := (from_.map (·.1)).getD 0 })
        match (if toTensor then some buf else t) with
        | none => .ok (put 0 (fun _ => none))
        | some l => match s.locKeys b hs .rd l with
          | .error (c, x) => .error (.fault c x)
          | .ok sk =>
            match sk.find? (fun p => s.foreignTag (s.engView hs p.1) p.1 slot) with
            | some p => .error (.fault .prot p.2)
            | none =>
              let o := s.on b.core
              let src (i : Nat) : Option (Nat × Nat × Lab) :=
                sk[i]?.map (fun p => (p.2.toNat, p.1 / 16, o.srcLab (o.tagSrc (s.engView hs p.1) p.1)))
              let code := ofBytes (sk.map (fun p => s.rdByte (s.engView hs p.1) p.1)) / 2 ^ l.shift % 2 ^ l.width
              .ok (put (code % span) src)

/-- The parts of the elements up to the first that stops, with their number. -/
def State.tileParts (s : State) (b : Bte) (slot : Nat) (h : Option Nat) (toTensor : Bool) (r : Line) (buf : Word) : List TElem → List BPart × Option EStop
  | [] => ([], none)
  | e :: l => match s.elemParts b slot h toTensor (codeSpan r (bufLoc r buf e.n).width) (bufLoc r buf e.n) e.loc with
    | .error x => ([], some x)
    | .ok ps => let t := s.tileParts b slot h toTensor r buf l; (ps ++ t.1, t.2)

/-- The handle of a TILE record: one that the cluster holds, for write when it is written (R285). -/
def State.tileHandle (s : State) (k slot : Nat) (h : Word) (write : Bool) : Except (Cause × Word) (Option Nat) :=
  if h = 0 then .ok none
  else match s.handleOf slot h with
    | none => .error (.stalehandle, h)
    | some (i, e) => if e.kind = 0 || e.holder != k || (write && e.kind != 2) then .error (.prot, h) else .ok (some i)

def execTile (s : State) : Host.Outcome State Fault Refusal :=
  let k := s.arg.n
  let m := s.arg.m
  .next (s.bteWork k m 1 (fun b r =>
    let slot := (s.core b.core).tslot.toNat
    let t := b.tcopy
    let toTensor := r.getLsbD 144
    if t = 0 then s.setBte k m (b.faulted .illegal (lw r 256))
    else match s.tileHandle k slot (lw r 320) toTensor with
      | .error (c, x) => s.setBte k m (b.faulted c x)
      | .ok h => match s.engRead b.core b.sup slot (lw r 256) 32 with
        | .error (c, x) => s.setBte k m (b.faulted c x)
        | .ok (bytes, _) =>
          let box := BitVec.ofNat 256 (ofBytes bytes)
          if boxMalformed t box then s.setBte k m (b.faulted .illegal (lw r 256))
          else
            let es := s.tileList b.core b.sup t box 0 (boxOffsets box)
            let s := s.engWalks b.core (lw r 192 :: lw r 256 :: syncAt (lw r 448) ++ (if h.isNone then es.1.filterMap (fun e => e.loc.map (·.addr)) else []))
            let ps := s.tileParts b slot h toTensor t (lw r 192) es.1
            match ps.2 with
            | some (.wait x) => s.bteWaits k m b 2 x
            | some (.fault c x) =>
              let mv := s.moveAll slot (s.recLab k b) b.wmax ps.1
              s.unitDone k m b (s.recLab k b) (lw r 448) mv.1 mv.2 (some (c, x)) id
            | none =>
              let mv := s.moveAll slot (s.recLab k b) b.wmax ps.1
              s.unitDone k m b (s.recLab k b) (lw r 448) mv.1 mv.2 es.2 (fun b => b.over 0 0 0 0)))

/-! ### Completion (R285, R286) -/

/-- A completion record (R286). -/
def complEntry (status cause : BitVec 8) (chan : Nat) (flg : BitVec 9) (bytes : BitVec 32) (raddr : Word) : List Byte :=
  toBytes 16 (status.toNat + cause.toNat * 2 ^ 8 + chan % 16 * 2 ^ 16 + flg.toNat * 2 ^ 20 + bytes.toNat * 2 ^ 32 + raddr.toNat / 64 * 2 ^ 64)

/-- An entry goes into a ring, and HEAD advances; none while the ring is full (R286). The result gives HEAD's stamp. A header or a BASE that
is not aligned is the fault ALIGNATOM (DESIGN CHOICE, log 59). -/
def State.ringPut (s : State) (core : Nat) (sup : Bool) (slot : Nat) (ring : Word) (entry : List Byte) (lab : Lab) (least : Option Time) :
    Except EStop (Option (State × Word × Option Time)) :=
  let s := s.engWalks core [ring]
  if ring.toNat % 32 != 0 then .error (.fault .alignatom ring)
  else match liftF (s.engRead core sup slot ring 32) with
    | .error e => .error e
    | .ok (hd, _) =>
      let w := ofBytes hd
      let base := BitVec.ofNat 64 w
      let size := 2 ^ (w / 2 ^ 64 % 16)
      let head := w / 2 ^ 128 % 2 ^ 64
      let tail := w / 2 ^ 192
      if base.toNat % 16 != 0 then .error (.fault .alignatom base)
      else if size ≤ (head + 2 ^ 64 - tail) % 2 ^ 64 then .ok none
      else match s.putPieces core sup (ring + 16) 8 with
        | .error e => .error e
        | .ok _ => match s.engPut core sup slot (base + BitVec.ofNat 64 (head % size * 16)) entry lab true least with
          | .error e => .error e
          | .ok (t, f, w1) => match t.engPut core sup slot (ring + 16) (toBytes 8 (head + 1)) lab true w1 with
            | .error e => .error e
            | .ok (u, g, w2) => .ok (some (u, f ||| g, w2))

/-- FLG goes into the FLAGS of the issuing activation while it is resident (R286). The work's writes, up to a stamp, count as seen complete
by that activation from here on (R262; DEDUCED, log 59). -/
def State.giveFlags (s : State) (core aid : Nat) (flg : BitVec 9) (w : Option Time) : State :=
  let k := s.core core
  match k.residents.find? (fun a => a.aid == aid) with
  | some a => s.setCore core (k.putSlot a.slot { a with
      flags := a.flags ||| (flg.setWidth 64 <<< 8), engStamp := match w with | some t => some (tmaxO a.engStamp t) | none => a.engStamp })
  | none => s

/-- One byte of the control word changes (R285). -/
def State.bteControl (s : State) (k : Nat) (b : Bte) (off : Nat) (f : Byte → Byte) : Except EStop (State × Word × Option Time) :=
  let slot := (s.core b.core).tslot.toNat
  let x := b.raddr + BitVec.ofNat 64 off
  match liftF (s.engRead b.core b.sup slot x 1) with
  | .error e => .error e
  | .ok (v, _) => s.engPut b.core b.sup slot x [f (v.getD 0 0)] (s.recLab k b) true b.wmax

/-- The channel halts after a fault of the completion entry or HEAD: FCAUSE is written where the control word can be written
(R285), over the cause of an earlier fault of the record, if it had one (DESIGN CHOICE, log 59). -/
def State.ringFault (s : State) (k m : Nat) (b : Bte) (c : Byte) (x : Word) : State :=
  let t := match s.bteControl k b 9 (fun _ => c) with
    | .ok (t, f, w) => t.giveFlags b.core b.aid ((f >>> 8).setWidth 9) w
    | .error _ => s
  t.bteHalt k m b c 3 x

/-- The record's entry is written: OWN is cleared on success, and the next record, the end of the chain or the halt follows (R283,
R285). -/
def State.recordEnds (s : State) (k m : Nat) (b : Bte) (r : Line) (st : BitVec 8) : State :=
  if st = 1 || st = 2 then s.bteHalt k m b b.hcause b.hstage b.haddr
  else if st != 0 then s.bteEnd k m b
  else match s.bteControl k b 8 (fun v => v &&& ~~~ 8#8) with
    | .error (.wait x) => s.bteWaits k m { b with put := true } 4 x
    | .error (.fault c x) => s.bteHalt k m b (BitVec.ofNat 8 c.code) 4 x
    | .ok (t, f, w) =>
      let u := t.giveFlags b.core b.aid ((f >>> 8).setWidth 9) w
      if lw r 0 = 0 then u.bteEnd k m b
      else (u.unrefC k b.rlab).setBte k m { b with
        raddr := lw r 0, cur := none, owed := none, rlab := 0, wmax := w, since := 0, fc := false, put := false, bytes := 0 }

/-- The record's end: FCAUSE on a fault, and the completion entry once the ring has room (R283, R285, R286). -/
def execCompletionRecord (s : State) : Host.Outcome State Fault Refusal :=
  let k := s.arg.n
  let m := s.arg.m
  let b := s.bteAt k m
  .next (match (if m < 16 && b.state == 1 && !s.engStopped k b.core then b.owed else none), b.cur with
    | some (st, cause), some r =>
      let slot := (s.core b.core).tslot.toNat
      let bad := st = 1 || st = 2
      let ring := lw r 384
      if b.put then s.recordEnds k m b r st
      else match (if bad && !b.fc then s.bteControl k b 9 (fun _ => cause) else .ok (s, 0, b.wmax)) with
        | .error (.wait x) => s.bteWaits k m b 4 x
        | .error (.fault c x) => s.bteHalt k m b (BitVec.ofNat 8 c.code) 4 x
        | .ok (s1, f1, w1) =>
          let b1 := { b with fc := b.fc || bad, flg := b.flg ||| (f1 >>> 8).setWidth 9, wmax := w1 }
          match (if ring = 0 || (st = 0 && !r.getLsbD 68) then .ok (some (s1, 0, w1))
            else s1.ringPut b.core b.sup slot ring (complEntry st cause m b1.flg b1.bytes b1.raddr) (s1.recLab k b1) w1) with
          | .error (.wait x) => s1.bteWaits k m b1 3 x
          | .error (.fault c x) => s1.ringFault k m b1 (BitVec.ofNat 8 c.code) x
          | .ok none => s1.setBte k m b1
          | .ok (some (s2, f2, w2)) =>
            (s2.giveFlags b.core b.aid (b1.flg ||| (f2 >>> 8).setWidth 9) w2).recordEnds k m { b1 with wmax := w2, since := 0 } r st
    | _, _ => s)

/-- A channel that has waited for a release beyond TWAIT: the data access ends its record with the fault, the completion entry and the
control word halt the channel (R256, R285). A frozen channel keeps its record (R364). -/
def State.bteTimeout (s : State) (k m : Nat) : State :=
  let b := s.bteAt k m
  if 15 < m || b.state != 1 || b.cur.isNone || b.since = 0 || s.engStopped k b.core || !s.waitOver k b.since then s
  else if b.owed.isNone then s.setBte k m (b.faulted .tenurewait b.waitAt)
  else if b.waitStage = 3 then s.ringFault k m b (BitVec.ofNat 8 Cause.tenurewait.code) b.waitAt
  else s.bteHalt k m b (BitVec.ofNat 8 Cause.tenurewait.code) 4 b.waitAt

/-- A wait for tenure exceeds TWAIT (R256): an acquisition parked on core n in slot m, an access that stalls core n, or, with
the flag, channel m of cluster n. -/
def execTenurewait (s : State) : Host.Outcome State Fault Refusal :=
  .next (if s.arg.flag then s.bteTimeout s.arg.n s.arg.m
    else match s.parkedAt s.arg.n s.arg.m with
      | some a => match a.park with
        | some (.tacq i _ l mode since) =>
          if s.waitOver (s.arg.n / 8) since then
            ((s.letGoAcq i mode).trapParked s.arg.n a .tenurewait (handleVal i (s.thandle i))).unrefC (s.arg.n / 8) l
          else s
        | _ => s
      | none =>
        let k := s.core s.arg.n
        match k.stallSince with
        | some t => if k.stalled && s.waitOver (s.arg.n / 8) t then s.setCore s.arg.n { k with stalled := false, twait := true } else s
        | none => s)

/-! ### RINGWAIT and SYNCW (R288) -/

/-- The word that RINGWAIT or SYNCW watches: its bytes now. -/
def State.peek (s : State) (c : Nat) (sup : Bool) (x : Word) (n : Nat) : Except (Cause × Word) Nat :=
  match s.pieces c sup .rd x n with
  | .error e => .error e
  | .ok ps => .ok (ofBytes (ps.flatMap (fun p => s.rdBytes ((s.tenureAt (p.key / 64)).any (fun h => h.2.kind == 2 && h.2.holder == c / 8)) p.key p.len)))

/-- The load that ends the wait, at the home of what it has observed (R261): the word, its label with the scalar sources and CLAB (R288). -/
def State.waitLoad (s : State) (iss : Issue) (x : Word) (n : Nat) (d : BitVec 6) (ls : List Handle) : Res (State × List RegWrite × Word) :=
  match s.loadAt true .rd x n with
  | .error e => .error e
  | .ok (t, bytes, srcs) => match t.productL (ls.map LSrc.h ++ srcs ++ [.h iss.clab]) with
    | .error e => .error e
    | .ok (u, l, f) => .ok (u, [.s d (wordOf bytes) l], f)

def State.ringwaitRes (s : State) : Res State :=
  let a := s.act.rd s.ir.a
  let b := s.act.rd s.ir.b
  match s.regs [.s s.ir.d.toNat, .s s.ir.a.toNat, .s s.ir.b.toNat] with
  | .error e => .error e
  | .ok _ => match s.asMarker with
    | .error e => .error e
    | .ok _ => match s.noPoison [a] with
      | .error e => .error e
      | .ok _ => match aligned a.val 32 with
        | .error e => .error e
        | .ok _ => match s.peek s.cur s.act.sup (a.val + 16) 8 with
          | .error (c, v) => s.issueLong (.ringwait a.val b.val s.ir.d [a.lab, b.lab]) (.error (.access (a.val + 16) c v))
          | .ok h =>
            if BitVec.ofNat 64 h = b.val then
              .error (.final ((s.refAll s.cl [a.lab, b.lab]).park (.ringwait a.val b.val s.ir.d [a.lab, b.lab] s.ir.sw s.issue) s.npc))
            else s.issueLong (.ringwait a.val b.val s.ir.d [a.lab, b.lab]) (s.waitLoad s.issue (a.val + 16) 8 s.ir.d [a.lab, b.lab])

def execRingwait (s : State) : Host.Outcome State Fault Refusal := s.run s.ringwaitRes

def State.syncwRes (s : State) : Res State :=
  let a := s.act.rd s.ir.a
  let d := s.act.rd s.ir.d
  match s.regs [.s s.ir.d.toNat, .s s.ir.a.toNat] with
  | .error e => .error e
  | .ok _ => match s.asMarker with
    | .error e => .error e
    | .ok _ => match s.noPoison [a] with
      | .error e => .error e
      | .ok _ => match aligned a.val 16 with
        | .error e => .error e
        | .ok _ =>
          if !inScratchWindow a.val then trapped .xlate a.val
          else match s.peek s.cur s.act.sup (a.val + 8) 4 with
            | .error (c, v) => s.issueLong (.syncw a.val (d.val.setWidth 32) s.ir.d [a.lab, d.lab]) (.error (.access (a.val + 8) c v))
            | .ok g =>
              let old : BitVec 32 := d.val.setWidth 32
              if g = old.toNat then .error (.final ((s.refAll s.cl [a.lab, d.lab]).park (.syncw a.val old s.ir.d [a.lab, d.lab] s.ir.sw s.issue) s.npc))
              else s.issueLong (.syncw a.val old s.ir.d [a.lab, d.lab]) (s.waitLoad s.issue (a.val + 8) 4 s.ir.d [a.lab, d.lab])

def execSyncw (s : State) : Host.Outcome State Fault Refusal := s.run s.syncwRes

/-- The wait of core n's activation in slot m for a word of so many bytes to leave a value has ended, and it loads: a long-latency result
(R78, R288). -/
def State.waitWake (s : State) (op : LOp) (iss : Issue) (sw : Bool) (x : Word) (n old : Nat) (d : BitVec 6) (ls : List Handle) (sup : Bool) : State :=
  if (match s.peek s.arg.n sup x n with | .ok h => h == old | .error _ => false) then s
  else (s.onParked s.arg.n s.arg.m sw (fun t => t.loadAtWake false iss op (t.waitLoad iss x n d ls))).unrefAll (s.arg.n / 8) ls

/-- An ERET that waits to perform such an access again is ready once the word has another value (R357). -/
def State.waitAgainWake (s : State) (x : Word) (n old : Nat) (sup : Bool) : State :=
  if (match s.peek s.arg.n sup x n with | .ok h => h == old | .error _ => false) then s else s.wake s.arg.n s.arg.m id

/-- The HEAD that the activation of core n in slot m awaits has changed (R288). -/
def execRingwaitWake (s : State) : Host.Outcome State Fault Refusal :=
  .next (match s.parkedAt s.arg.n s.arg.m with
    | some a => match a.park with
      | some (.ringwait x old d ls sw iss) => s.waitWake (.ringwait x old d ls) iss sw (x + 16) 8 old.toNat d ls a.sup
      | some (.waitAgain x 8 old) => s.waitAgainWake x 8 old ((a.trap.map (·.sup)).getD a.sup)
      | _ => s
    | none => s)

/-- The generation that a SYNCW awaits has advanced (R288). -/
def execSyncwWake (s : State) : Host.Outcome State Fault Refusal :=
  .next (match s.parkedAt s.arg.n s.arg.m with
    | some a => match a.park with
      | some (.syncw x old d ls sw iss) => s.waitWake (.syncw x old d ls) iss sw (x + 8) 4 old.toNat d ls a.sup
      | some (.waitAgain x 4 old) => s.waitAgainWake x 4 old ((a.trap.map (·.sup)).getD a.sup)
      | _ => s
    | none => s)

end Sys2Proof.Machine
end

