-- ==== Sys2Proof/Machine/Cle.lean ====
section
/-! DEFINITION. The collective engine (R289, R290, R422, R423). -/

namespace Sys2Proof.Machine

/-! ### CLGO (R289) -/

/-- The record is read, and the CLE accepts it: sd receives the sequence number. That of a cancelled activation ends at once (R306). -/
def State.doClgo (s : State) (iss : Issue) (x : Word) (d : BitVec 6) (la : Handle) : Res (State × List RegWrite × Word) :=
  match s.load .rd x 64 with
  | .error e => .error e
  | .ok (t, bytes, srcs) =>
    let r := Line.ofBytes bytes
    if lw r 384 = 0 then trapped .bounds x
    else match t.productL (.h la :: srcs ++ [.h iss.clab]) with
      | .error e => .error e
      | .ok (u, l, f) =>
        let k := u.myCluster
        let c : Coll := { seq := k.collSeq, rcd := r, addr := x, core := u.cur, aid := u.act.aid, sup := u.act.sup, lab := l, since := u.clock,
                          ending := if u.act.cancelled then some (3, 0) else none }
        .ok ((u.refC u.cl l).setMyCluster { (u.refC u.cl l).myCluster with colls := k.colls ++ [c], collSeq := k.collSeq + 1 },
          [.s d (BitVec.ofNat 64 k.collSeq) l], f)

def State.clgoRes (s : State) : Res State :=
  let a := s.act.rd s.ir.a
  match s.regs [.s s.ir.d.toNat, .s s.ir.a.toNat] with
  | .error e => .error e
  | .ok _ => match s.noPoison [a] with
    | .error e => .error e
    | .ok _ => match aligned a.val 64 with
      | .error e => .error e
      | .ok _ =>
        if 16 ≤ s.myCluster.colls.length then .error .stall
        else match s.room with
          | .error e => .error e
          | .ok _ => match s.freeS s.ir.d with
            | .error e => .error e
            | .ok _ => s.issueLong (.clgo a.val s.ir.d a.lab) (s.doClgo s.issue a.val s.ir.d a.lab)

def execClgo (s : State) : Host.Outcome State Fault Refusal := s.run s.clgoRes

/-! ### The record (R289) -/

def collOp (r : Line) : Nat := lf r 0 4
def collRed (r : Line) : Nat := lf r 4 4
def collType (r : Line) : Nat := lf r 8 4
def collMembers (r : Line) : Nat := lf r 32 16
def collRank (r : Line) : Nat := lf r 48 16
def collCount (r : Line) : Nat := lf r 256 64
def collRoot (r : Line) : Nat := lf r 320 16
def collTag (r : Line) : Word := lw r 448
/-- Bytes of an element. -/
def collSize (r : Line) : Nat := match collType r with | 0 => 8 | 1 => 4 | 4 => 4 | 5 => 8 | _ => 2

def collBad (r : Line) : Bool :=
  decide (3 < collOp r) || decide (5 < collType r) || lf r 12 20 != 0 || lf r 336 48 != 0 || decide (collMembers r < 2)
    || decide (collMembers r ≤ collRank r)
    || (if collOp r ≤ 1 then decide (2 < collRed r) else collRed r != 0)
    || (if collOp r = 3 then decide (collMembers r ≤ collRoot r) else collRoot r != 0)

/-- An entry of GROUP as a number. -/
def groupEntry (core modId : Nat) : Nat := core + modId * 2 ^ 14

/-- The members by rank. -/
def State.collGroup (s : State) (x : Coll) : Except (Cause × Word) (List Nat) :=
  match s.engRead x.core x.sup (s.core x.core).tslot.toNat (lw x.rcd 64) (4 * collMembers x.rcd) with
  | .error e => .error e
  | .ok (bytes, _) => .ok ((List.range (collMembers x.rcd)).map (fun i => ofBytes ((bytes.drop (4 * i)).take 4)))

/-! ### Folds (R290) -/

def signedMin (w : Nat) (max : Bool) (a b : Nat) : Nat :=
  if decide ((BitVec.ofNat w b).toInt < (BitVec.ofNat w a).toInt) != max then b else a

/-- One fold step in the element type. -/
def collStep (etype red a b : Nat) : Nat × Word :=
  let fl (w : WFmt) : Nat × Word := match red with | 0 => w.add 0 a b | 1 => w.minmax false a b | _ => w.minmax true a b
  let int (n : Nat) : Nat × Word := (match red with | 0 => (a + b) % 2 ^ n | 1 => signedMin n false a b | _ => signedMin n true a b, 0)
  match etype with
  | 0 => fl (fmtOf .d)
  | 1 => fl (fmtOf .s)
  | 2 => fl (fmtOf .h)
  | 3 => fl (fmtOf .bf)
  | 4 => int 32
  | _ => int 64

def dedupKeys : List (Nat × Lab) → List (Nat × Lab)
  | [] => []
  | a :: l => a :: (dedupKeys l).filter (fun b => b != a)

/-- Element e of the fold over the ranks' blocks, in rank order. -/
def collElem (r : Line) (blocks : List (List CByte)) (e : Nat) : List CByte × Word :=
  let n := collSize r
  let parts := blocks.map (fun b => (b.drop (n * e)).take n)
  let vals := parts.map (fun p => ofBytes (p.map (·.val)))
  let srcs := dedupKeys (parts.flatMap (fun p => p.flatMap (·.srcs)))
  let v := match vals with
    | [] => (0, (0 : Word))
    | x :: l => l.foldl (fun a y => let s := collStep (collType r) (collRed r) a.1 y; (s.1, a.2 ||| s.2)) (x, 0)
  ((toBytes n v.1).map (fun b => ⟨b, srcs⟩), v.2)

/-- What the member of a rank receives. -/
def collResult (r : Line) (blocks : List (List CByte)) (rank : Nat) : List CByte × Word :=
  let n := collCount r
  match collOp r with
  | 0 => let es := (List.range n).map (collElem r blocks); (es.flatMap (·.1), es.foldl (fun f e => f ||| e.2) 0)
  | 1 => let es := (List.range n).map (fun e => collElem r blocks (rank * n + e)); (es.flatMap (·.1), es.foldl (fun f e => f ||| e.2) 0)
  | 2 => (blocks.flatten, 0)
  | _ => (blocks.getD (collRoot r) [], 0)

/-- Bytes of SRC that a member contributes. -/
def collSrcLen (r : Line) : Nat :=
  match collOp r with
  | 1 => collMembers r * collCount r * collSize r
  | 3 => if collRank r = collRoot r then collCount r * collSize r else 0
  | _ => collCount r * collSize r

/-! ### Members -/

/-- A member whose endpoint takes part: not halted, its cluster neither frozen nor stopped for a cut (R423). -/
def State.collLive (s : State) (core : Nat) : Bool := !s.engStopped (core / 8) core && !(s.core core).halted

def State.collAt (s : State) (k m : Nat) : Option Coll := (s.cluster k).colls[m]?

/-- The collective of a core with a TAG that has not ended; one that is still to exchange. One that keeps an end notice takes no part any
more (R423). -/
def State.collLeft (s : State) (core : Nat) (tag : Word) : Option Coll :=
  (s.cluster (core / 8)).colls.find? (fun x => x.core == core && collTag x.rcd == tag && x.ending.isNone)
def State.collOf (s : State) (core : Nat) (tag : Word) : Option Coll :=
  (s.cluster (core / 8)).colls.find? (fun x => x.core == core && collTag x.rcd == tag && x.data.isNone && x.ending.isNone && !x.kept)

/-- Whether an entry of GROUP names a core of this module that serves the slot of the issuing one: no other can take part (R8, R379). -/
def State.collSlot (s : State) (x : Coll) (e : Nat) : Bool := e / 2 ^ 14 == s.modId && (s.core (e % 2 ^ 14)).tslot == (s.core x.core).tslot

/-- One collective changes where it stands, by its sequence number. -/
def State.collUpd (s : State) (k seq : Nat) (f : Coll → Coll) : State :=
  let c := s.cluster k
  s.setCluster k { c with colls := c.colls.map (fun x => if x.seq == seq then f x else x) }

/-- The members of this module by rank: none for another module's. -/
def State.collMates (s : State) (x : Coll) (group : List Nat) : List (Option Coll) :=
  group.map (fun e => if s.collSlot x e then s.collOf (e % 2 ^ 14) (collTag x.rcd) else none)

/-- The members of this module that an end notice reaches (R423). -/
def State.collPeers (s : State) (x : Coll) (group : List Nat) : List Coll :=
  group.filterMap (fun e => if s.collSlot x e then s.collLeft (e % 2 ^ 14) (collTag x.rcd) else none)

def State.endColls (s : State) (l : List Coll) (st c : Nat) : State :=
  l.foldl (fun s x => s.collUpd (x.core / 8) x.seq (fun y => { y with ending := some (y.ending.getD (BitVec.ofNat 8 st, BitVec.ofNat 8 c)) })) s

/-- Why a member ends before anything moves: a malformed record, a GROUP that cannot be read, an entry of GROUP with a reserved bit,
or one at its rank that does not name its core (R15, R289). -/
def State.collCheck (s : State) (x : Coll) : Option (Nat × Nat) :=
  if collBad x.rcd then some (2, 1)
  else match s.collGroup x with
    | .error (c, _) => some (1, c.code)
    | .ok group =>
      if group.any (fun e => decide (2 ^ 27 ≤ e)) || group.getD (collRank x.rcd) 0 != groupEntry x.core s.modId then some (2, 1) else none

/-- What the members must agree on. -/
def collKey (r : Line) : List Nat := [collOp r, collRed r, collType r, collMembers r, collCount r, collRoot r]

/-- The blocks of the members in rank order; those of other modules come with the event, each byte with the granule there that it comes
from and that granule's label, POISON among them (R127, R131). The first member of this module whose SRC cannot be read stops it. -/
def State.collBlocks (s : State) (n : Nat) : List (Nat × Option Coll) → List Byte → List (Nat × Lab) → Except (Coll × Cause) (List (List CByte))
  | [], _, _ => .ok []
  | (i, none) :: l, bytes, far =>
    match s.collBlocks n l (bytes.drop n) (far.drop n) with
    | .error e => .error e
    | .ok bs => .ok ((List.range n).map (fun j =>
        let g := far.getD j (0, some [0])
        (⟨bytes.getD j 0, [(2 ^ 60 * (i + 1) + g.1, g.2)]⟩ : CByte)) :: bs)
  | (_, some y) :: l, bytes, far =>
    match s.srcParts y.core y.sup (s.core y.core).tslot.toNat (lw y.rcd 128) (collSrcLen y.rcd) with
    | .error (c, _) => .error (y, c)
    | .ok ps => match s.collBlocks n l bytes far with
      | .error e => .error e
      | .ok bs => .ok (ps.map (fun p => ⟨p.val, [p.gran]⟩) :: bs)

/-- The exchange proper, with every member of this module there. -/
def State.collExchange (s : State) (x : Coll) (group : List Nat) : State :=
  let mates := s.collMates x group
  let here := mates.filterMap id
  let r := x.rcd
  let same (y : Coll) : Bool := collKey y.rcd == collKey r && (match s.collGroup y with | .ok g => g == group | .error _ => false)
  if s.arg.flag || !here.all same then s.endColls here 6 0
  else
    let n := if collOp r = 1 then collMembers r * collCount r * collSize r else collCount r * collSize r
    match s.collBlocks n ((List.range group.length).zip mates) s.arg.bytes s.arg.srcs with
    | .error (y, c) => (s.endColls [y] 1 c.code).endColls here 1 0x16
    | .ok blocks => here.foldl (fun s y =>
        let d := collResult y.rcd blocks (collRank y.rcd)
        s.collUpd (y.core / 8) y.seq (fun z => { z with data := some d.1, flg := z.flg ||| (d.2 >>> 8).setWidth 9, since := s.clock })) s

/-- Collective m of cluster n: its checks, then the exchange once every member of this module is there. The flag says that
a member of another module differs, k = 1 that one answers with a NAK; their blocks come in bytes, with their granules in srcs. A member
of another slot never takes part, and a slot without a DTID reaches no other module: both are NAKs (R8, R376, R379). Heartbeats go to the
modules of the members (R406). -/
def execCollectiveExchange (s : State) : Host.Outcome State Fault Refusal :=
  .next (match s.collAt s.arg.n s.arg.m with
    | none => s
    | some x =>
      if x.data.isSome || x.ending.isSome || !s.collLive x.core then s
      else if x.kept then s.endColls [x] 5 0
      else
        let s := s.engWalks x.core [lw x.rcd 64, lw x.rcd 128]
        match s.collCheck x, s.collGroup x with
        | some (st, c), _ => s.endColls [x] st c
        | none, .error (c, _) => s.endColls [x] 1 c.code
        | none, .ok group =>
          let s := (group.filter (fun e => e / 2 ^ 14 != s.modId)).foldl (fun s e => s.linkPeer (e / 2 ^ 14)) s
          let here := (s.collMates x group).filterMap id
          match here.findSome? (fun y => (s.collCheck y).map (fun e => (y, e))) with
          | some (y, st, c) => s.endColls [y] st c
          | none =>
            let nak (e : Nat) : Bool :=
              if e / 2 ^ 14 = s.modId then s.shuttered (e % 2 ^ 14) || decide (Config.coreCount ≤ e % 2 ^ 14) || !s.collSlot x e
              else s.deadModule (e / 2 ^ 14) || !Config.inDomain (e / 2 ^ 14) || s.barred x.core || s.arg.k == 1
            let want := (group.filter (fun e => e / 2 ^ 14 == s.modId)).length
            let live := here.filter (fun y => s.collLive y.core)
            if group.any nak then s.endColls here 1 0x16
            else if live.length < want then
              live.foldl (fun s y => s.collUpd (y.core / 8) y.seq (fun z =>
                if z.met < live.length then { z with met := live.length, since := s.clock } else z)) s
            else s.collExchange x group)

/-! ### Completion (R290) -/

/-- An ended collective may have written part of DST: its bytes are undefined and its tags POISON (R290, R423). How much is
free (log 2). The greatest stamp of these writes comes back: the completion entry covers them too (R261). -/
def State.collSpoil (s : State) (x : Coll) : State × Option Time :=
  let len := match x.data with | some d => d.length | none => collCount x.rcd * collSize x.rcd
  let n := (Config.freeWord (s.tick * 2 ^ 16)).toNat % (len + 1)
  let bytes := (List.range n).map (fun i => Config.freeByte (s.tick * 2 ^ 40 + i))
  match s.engPut x.core x.sup (s.core x.core).tslot.toNat (lw x.rcd 192) bytes none false none with
  | .ok (t, _, w) => (t, w)
  | .error _ => (s, none)

/-- The writes of DST with their tags (R131), and the greatest stamp; or the stop. -/
def State.collWrite (s : State) (x : Coll) (d : List CByte) : Except EStop (Moved × Option Time) :=
  match s.putPieces x.core x.sup (lw x.rcd 192) d.length with
  | .error e => .error e
  | .ok ps =>
    let parts := ((destBytes ps).zip d).flatMap (fun p =>
      let byte : BPart := { key := p.1.2.1, addr := p.1.1, plain := p.1.2.2, val := p.2.val.toNat }
      match p.2.srcs with
      | [] => [byte]
      | a :: l => { byte with src := some a } :: l.map (fun b => { byte with mask := 0, val := 0, src := some b }))
    .ok (s.moveAll (s.core x.core).tslot.toNat (tlab (s.cluster (x.core / 8)).clt x.lab) none parts)

/-- The completion entry, and the collective is over. While the ring is full nothing happens; a ring that cannot be written
gets no entry. -/
def State.collReport (s s0 : State) (x : Coll) (st c : BitVec 8) (flg : BitVec 9) (bytes : Nat) (w : Option Time) : State :=
  let k := x.core / 8
  let fin (t : State) (f : Word) (w : Option Time) : State :=
    let t1 := (t.unrefC k x.lab).giveFlags x.core x.aid (flg ||| (f >>> 8).setWidth 9) w
    let c := t1.cluster k
    (t1.setCluster k { c with colls := c.colls.filter (fun y => y.seq != x.seq) }).unstall
  match s.ringPut x.core x.sup (s.core x.core).tslot.toNat (lw x.rcd 384) (complEntry st c 0 flg (BitVec.ofNat 32 bytes) x.addr)
      (tlab (s.cluster k).clt x.lab) w with
  | .ok none => s0
  | .ok (some (t, f, w2)) => fin t f w2
  | .error (.wait _) => s0
  | .error (.fault _ _) => fin s 0 w

/-- Collective m of cluster n writes its results and its completion record (R290); one that has kept an end notice writes ABORTED (R423). -/
def execCollectiveComplete (s : State) : Host.Outcome State Fault Refusal :=
  .next (match s.collAt s.arg.n s.arg.m with
    | none => s
    | some x =>
      if !s.collLive x.core then s
      else match (if x.ending.isNone && x.kept then some (5, 0) else x.ending), x.data with
        | some (st, c), _ =>
          if decide (3 ≤ st.toNat) && decide (st.toNat ≤ 5) then
            (let y := (s.engWalks x.core [lw x.rcd 192]).collSpoil x
             y.1.collReport s x st c x.flg 0 y.2)
          else s.collReport s x st c x.flg 0 none
        | none, some d =>
          match (s.engWalks x.core [lw x.rcd 192]).collWrite x d with
          | .error (.wait _) =>
            if x.waitSince = 0 then s.collUpd s.arg.n x.seq (fun y => { y with waitSince := s.clock })
            else if s.waitOver s.arg.n x.waitSince then s.collReport s x 1 (BitVec.ofNat 8 Cause.tenurewait.code) x.flg 0 none
            else s
          | .error (.fault c _) => s.collReport s x 1 (BitVec.ofNat 8 c.code) x.flg 0 none
          | .ok (mv, w) =>
            let fault : BitVec 8 × BitVec 8 := match mv.stop with | none => (0, 0) | some (c, _) => (1, BitVec.ofNat 8 c.code)
            mv.st.collReport s x fault.1 fault.2 (x.flg ||| (mv.flags >>> 8).setWidth 9) mv.bytes w
        | none, none => s)

/-! ### The watchdog (R422, R423) -/

/-- The timer of collective m of cluster n has reached LIMIT: it ends, and a notice goes to every member that has written no completion; an
endpoint that has kept a notice ends with ABORTED. -/
def execHaltedpeer (s : State) : Host.Outcome State Fault Refusal :=
  .next (match s.collAt s.arg.n s.arg.m with
    | none => s
    | some x =>
      let limit := (s.cluster s.arg.n).clwdog.toNat % 2 ^ 24
      if x.ending.isSome || !s.collLive x.core || limit = 0 || decide ((s.clock - x.since).toNat < limit * Config.cyclesPerUs) then s
      else if x.kept then s.endColls [x] 5 0
      else
        let s1 := s.endColls [x] 4 0
        match s.collGroup x with
        | .error _ => s1
        | .ok group => (s1.collPeers x group).foldl (fun s y =>
            s.collUpd (y.core / 8) y.seq (fun z => { z with notice := true, kept := !s.collLive y.core })) s1)

/-- The end notice for collective m of cluster n arrives, or, with the flag, one from another module. A halted endpoint keeps
it, and ends with ABORTED once it takes part again. -/
def execEndNotice (s : State) : Host.Outcome State Fault Refusal :=
  .next (match s.collAt s.arg.n s.arg.m with
    | none => s
    | some x =>
      if x.ending.isSome || !(x.notice || s.arg.flag) then s
      else if s.collLive x.core then s.endColls [x] (if x.kept then 5 else 4) 0
      else s.collUpd s.arg.n x.seq (fun z => { z with notice := true, kept := true }))

end Sys2Proof.Machine
end

