-- ==== Sys2Proof/Machine/Observe.lean ====
section
/-! DEFINITION. Trace drain, the Louvre, power telemetry and lane eyes (R420, R424 to R428), and the rings that units of the
module fill (R286, R399). -/

namespace Sys2Proof.Machine

/-! ### What units of the module write -/

/-- Whether a range lies in space 0x0 with TGT 0, as a core's supervisor sees it. -/
def State.inDram (s : State) (c : Nat) (x : Word) (n : Nat) : Bool :=
  x.toNat / 2 ^ 60 == 0 && (match s.pieces c true .wr x n with | .ok ps => ps.all (fun p => isDram p.key) | .error _ => false)

/-- Bytes with TRUE, each line stamped no earlier than a time; none where the range does not lie in device DRAM, or waits for a
release (R131, R256, R260). -/
def State.unitPut (s : State) (c : Nat) (x : Word) (bytes : List Byte) (least : Option Time) : Option (State × Option Time) :=
  if !s.inDram c x bytes.length then none
  else match s.pieces c true .wr x bytes.length with
    | .error _ => none
    | .ok ps =>
      if ps.any (fun p => s.engWaits false p.key) then none
      else some ((ps.foldl (fun t p =>
        let u := t.engWrite false p.key ((bytes.drop p.off).take p.len)
        if p.len = 16 then u.setTagH false p.key hTRUE else u) s).stampLines least (dedupNat (ps.map (fun p => p.key / 64))))

/-- A ring takes an entry and HEAD advances; none while the ring is full or cannot be reached. The result gives HEAD and its stamp. -/
def State.ringAdd (s : State) (c : Nat) (ring : Word) (entry : List Byte) : Option (State × Nat × Option Time) :=
  if !s.inDram c ring 32 then none
  else match s.getMem c ring 32 with
    | none => none
    | some hd =>
      let w := ofBytes hd
      let base := BitVec.ofNat 64 w
      let size := 2 ^ (w / 2 ^ 64 % 16)
      let head := w / 2 ^ 128 % 2 ^ 64
      let tail := w / 2 ^ 192
      if size ≤ (head + 2 ^ 64 - tail) % 2 ^ 64 then none
      else match s.unitPut c (base + BitVec.ofNat 64 (head % size * entry.length)) entry none with
        | none => none
        | some (t, w1) => match t.unitPut c (ring + 16) (toBytes 8 (head + 1)) w1 with
          | none => none
          | some (u, w2) => some (u, (head + 1) % 2 ^ 64, w2)

/-! ### Trace (R420) -/

/-- The oldest trace record of cluster n goes into its ring, when that has room. -/
def execTraceDrain (s : State) : Host.Outcome State Fault Refusal :=
  let k := s.arg.n
  let d := (s.cluster k).dbg
  .next (match (if d.trring = 0 then [] else d.buffer) with
    | [] => s
    | r :: l => match s.ringAdd (8 * k) d.trring r with
      | none => s
      | some (t, _) => t.setCluster k { t.cluster k with dbg := { (t.cluster k).dbg with buffer := l } })

/-! ### The Louvre (R424, R425) -/

/-- Number of the link counters of the module (R424). -/
def linkCount : Nat := Config.clusterCount * 30

/-- What the link counters have counted since they were last stored, beside the flits of messages: flits of traffic for which no rule gives
a number, and stalled cycles (R10, R424; log 2). The counters of a gated router stand still. -/
def State.linksRun (s : State) : State :=
  let run (i : Nat) : Word :=
    let w := (fget s.plant.links i).getD 0
    let f := Config.freeWord (s.tick * 2 ^ 16 + i)
    if (s.cluster (i / 30)).gated then w
    else BitVec.ofNat 64 ((w.toNat / 2 ^ 32 + f.toNat / 2 ^ 32) % 2 ^ 32 * 2 ^ 32 + (w.toNat + f.toNat) % 2 ^ 32)
  { s with tick := s.tick + linkCount, plant := { s.plant with links := (List.range linkCount).map (fun i => (i, run i)) } }

/-- The counters as the area holds them: 32 bits of flits, 32 of stalled cycles (R424). -/
def State.linkCounts (s : State) : List Byte :=
  (List.range linkCount).flatMap (fun i => toBytes 8 ((fget s.plant.links i).getD 0).toNat)

/-- The Louvre stores its counts: NEXT, the area, SEQ, each stamped no earlier than the one before. -/
def State.louvreStore (s0 : State) : Option State :=
  let s := s0.linksRun
  let l := s.plant.louvre
  let n := l.next
  match s.unitPut 0 (l.lbase + 8) (toBytes 8 n) none with
  | none => none
  | some (s1, t1) => match s1.unitPut 0 (l.lbase + BitVec.ofNat 64 (64 + n % 2 * 276480)) s.linkCounts t1 with
    | none => none
    | some (s2, t2) => match s2.unitPut 0 (l.lbase + 16) (toBytes 8 (s.cycle 0).toNat) t2 with
      | none => none
      | some (s3, t3) => match s3.unitPut 0 l.lbase (toBytes 8 n) t3 with
        | none => none
        | some (s4, _) => some { s4 with plant := { s4.plant with louvre := { l with next := n + 1, last := s.clock } } }

/-- A PERIOD has passed since the last store, stores are enabled and an area is named. -/
def State.louvreDue (s : State) : Bool :=
  let l := s.plant.louvre
  l.en && l.lbase != 0 && decide (l.period.toNat * Config.cyclesPerUs ≤ (s.clock - l.last).toNat)

def execLouvreStore (s : State) : Host.Outcome State Fault Refusal :=
  .next (if s.louvreDue then s.louvreStore.getD s else s)

/-! ### Telemetry (R426, R427) -/

/-- P in units of 10 microwatts: VIN in millivolts times IIN in 10 mA. -/
def DieTel.power (t : DieTel) : Nat := t.vin.toNat * t.iin.toNat

/-- The fields of a die at a refresh: CAPEFF and THR from what its sensors read. -/
def DieTel.refresh (t : DieTel) (d : Nat) (w : Word) : DieTel :=
  let t1 := { t with
    vin := w.setWidth 16, iin := (w >>> 16).setWidth 16, temp := (w >>> 32).setWidth 16
    bmarg := if d < 8 then (w >>> 48).setWidth 16 else 0xFFFF, seq := t.seq + 1 }
  let eff := if d < 8 then Nat.min t1.cap.toNat (t1.power / 100000 + t1.bmarg.toNat - t1.guard.toNat) else t1.cap.toNat
  { t1 with capeff := BitVec.ofNat 16 eff, thr := decide (eff * 100000 < t1.power) }

/-- The sensors of die n are read: VIN, IIN, TEMP and BMARG from the low bits up. -/
def execTelemetryRefresh (s : State) : Host.Outcome State Fault Refusal :=
  let d := s.arg.n
  .next (if d < 10 then { s with plant := { s.plant with dies := fset s.plant.dies d ((s.dieTel d).refresh d s.arg.word) } } else s)

/-! ### Lane eyes (R428) -/

/-- A measured eye: HM, VM, DOWN and FEC where the register has them. -/
def LaneTel.measure (t : LaneTel) (w : Word) : LaneTel :=
  let hm : Byte := w.setWidth 8
  let vm : Byte := (w >>> 8).setWidth 8
  { t with
    hm := hm, vm := vm, down := w.getLsbD 17, fec := (w >>> 32).setWidth 16
    warn := t.warn || decide (hm.toNat < t.hwarn.toNat) || decide (vm.toNat < t.vwarn.toNat) }

/-- The eye of lane n is measured; WARN rising posts a message to channel 60 of core 0. -/
def execLaneEyeMeasure (s : State) : Host.Outcome State Fault Refusal :=
  let l := s.arg.n
  let x := s.lane l
  let y := x.measure s.arg.word
  let s1 := { s with plant := { s.plant with lanes := fset s.plant.lanes l y } }
  .next (if 72 ≤ l then s
    else if y.warn && !x.warn then
      s1.post (s1.hwMsg 0 60 ([BitVec.ofNat 8 l, y.hm, y.vm] ++ List.replicate 13 0) (s1.cluster 0).ltime)
    else s1)

end Sys2Proof.Machine
end

