-- ==== Sys2Proof/Machine/Recover.lean ====
section
/-! DEFINITION. Errors (R390 to R394), Shutters (R343, R395 to R397), the damage map (R398 to R403), directory and scale errors (R404,
R405) and dead modules (R406). -/

namespace Sys2Proof.Machine

/-! ### The damage map (R398 to R403) -/

/-- The core whose DMAPBASE names the ring of a slot (R399). -/
def State.dmgCore (s : State) (slot : Nat) : Nat := if slot = 0 then 0 else 8 * s.lowCluster slot

/-- A damage record but for SEQ (R400). -/
def damageRcd (kind src slot : Nat) (time : Time) (a0 a1 a2 : Nat) : Line :=
  BitVec.ofNat 512 (kind + src * 2 ^ 8 + slot % 64 * 2 ^ 16 + time.toNat * 2 ^ 64 + a0 % 2 ^ 64 * 2 ^ 128 + a1 % 2 ^ 64 * 2 ^ 192 + a2 % 2 ^ 64 * 2 ^ 256)

/-- What the ring of a slot counts. -/
def State.dmgRing (s : State) (slot : Nat) : DmgRing := (fget s.plant.dmgRings (s.dmgCore slot)).getD {}
def State.setDmgRing (s : State) (slot : Nat) (r : DmgRing) : State :=
  { s with plant := { s.plant with dmgRings := fset s.plant.dmgRings (s.dmgCore slot) r } }

/-- No core keeps a copy of a line of a range: what reads it next reads it at its home. A damage record so precedes every access that
observes its damage (R402; DESIGN CHOICE, log 64). -/
def State.dropCopies (s : State) (c : Nat) (x : Word) (n : Nat) : State :=
  match s.pieces c true .rd x n with
  | .error _ => s
  | .ok ps => (dedupNat (ps.map (fun p => p.key / 64))).foldl (fun s l =>
      s.clusters.foldl (fun t k => t.dropLine k.1 l) s) s

/-- A record goes into the ring of its slot, and the notice is posted; none while the ring is full or not valid. -/
def State.writeDamage (s : State) (slot : Nat) (rcd : Line) : Option State :=
  let c := s.dmgCore slot
  let base := (s.core c).dmapbase
  let ring := base &&& ~~~ (0x3F : Word)
  let r := s.dmgRing slot
  if !base.getLsbD 0 then none
  else match s.ringAdd c ring (toBytes 64 (rcd.toNat + (r.seq + 1) % 2 ^ 32 * 2 ^ 32)) with
    | none => none
    | some (t, head, w) =>
      let hd := match t.getMem c ring 32 with | some b => ofBytes b | none => 0
      let entry := BitVec.ofNat 64 (hd + (head + 2 ^ 64 - 1) % 2 ^ 64 % 2 ^ (hd / 2 ^ 64 % 16) * 64)
      some ((((t.setDmgRing slot { r with seq := r.seq + 1, time := w }).dropCopies c ring 32).dropCopies c entry 64).post
        (t.hwMsg c 61 (toBytes 8 head ++ [rcd.setWidth 8] ++ List.replicate 7 0) (t.cluster (c / 8)).ltime))

/-- The record of those lost goes first, by itself (R403). The flag says that none is owed any more. -/
def State.flushLost (s : State) (slot : Nat) : State × Bool :=
  let r := s.dmgRing slot
  if r.lost = 0 then (s, true)
  else match s.writeDamage slot (damageRcd 9 0 slot (s.cluster (s.dmgCore slot / 8)).ltime 0 r.lost 0) with
    | none => (s, false)
    | some t => (t.setDmgRing slot { t.dmgRing slot with lost := 0 }, true)

/-- A record is written after that of the lost ones (R403). The flag says that it is written. -/
def State.tryDamage (s : State) (slot : Nat) (rcd : Line) : State × Bool :=
  let p := s.flushLost slot
  match (if p.2 then p.1.writeDamage slot rcd else none) with
  | some t => (t, true)
  | none => (p.1, false)

/-- A damage record of a slot, written by a unit of a Sill die: into its ring, after those that the die holds for it, else into the die's
buffer, else lost (R403). -/
def State.damage (s : State) (sill slot : Nat) (rcd : Line) : State :=
  let buf := (fget s.plant.damage sill).getD []
  let p := if buf.any (fun d => s.dmgCore d.tslot == s.dmgCore slot) then (s, false) else s.tryDamage slot rcd
  if p.2 then p.1
  else if buf.length < 64 then { p.1 with plant := { p.1.plant with damage := fset p.1.plant.damage sill (buf ++ [⟨slot, rcd⟩]) } }
  else
    let r := p.1.dmgRing slot
    p.1.setDmgRing slot { r with lost := r.lost + 1 }

/-- The first record of a buffer that its ring takes goes; records of one ring keep their order. -/
def State.drainDamage (s : State) (blocked : List Nat) : List DmgRec → State × List DmgRec
  | [] => (s, [])
  | d :: l =>
    let c := s.dmgCore d.tslot
    let p := if blocked.contains c then (s, false) else s.tryDamage d.tslot d.rcd
    if p.2 then (p.1, l)
    else
      let q := p.1.drainDamage (c :: blocked) l
      (q.1, d :: q.2)

/-- A record that Sill die n holds back is written once its ring has space (R399, R403). -/
def execDamageRecord (s : State) : Host.Outcome State Fault Refusal :=
  let held := (fget s.plant.damage s.arg.n).getD []
  let p := s.drainDamage [] held
  .next (if held = [] then s else { p.1 with plant := { p.1.plant with damage := fset p.1.plant.damage s.arg.n p.2 } })

/-- A key as a damage record names it: a PA or an address of space 0x9 (R401). -/
def State.placeForm (s : State) (key : Nat) : Nat :=
  if isScratch key then 9 * 2 ^ 60 + s.modId * 2 ^ 32 + (key - 2 ^ 39)
  else if isRemote key then
    let o := (key - 2 ^ 56) % 2 ^ 42
    if 2 ^ 41 ≤ o then 9 * 2 ^ 60 + remoteModule key * 2 ^ 32 + (o - 2 ^ 41) else o
  else key

def insNat (x : Nat) : List Nat → List Nat
  | [] => [x]
  | y :: l => if x < y then x :: y :: l else if x = y then y :: l else y :: insNat x l
def sortNat (l : List Nat) : List Nat := l.foldr insNat []

/-- Contiguous runs of a rising list: start and length. -/
def runsOf : List Nat → List (Nat × Nat)
  | [] => []
  | x :: l => match runsOf l with
    | (y, n) :: r => if x + 1 = y then (x, n + 1) :: r else (x, 1) :: (y, n) :: r
    | [] => [(x, 1)]

/-- One RANGE record for each contiguous run of lines (R401). -/
def State.rangeRecords (s : State) (sill slot src : Nat) (time : Time) (lines : List Nat) (a2 : Nat) : State :=
  (runsOf (sortNat lines)).foldl (fun s r => s.damage sill slot (damageRcd 1 src slot time (s.placeForm (r.1 * 64)) (r.2 * 64) a2)) s

/-- Every granule of some lines takes the tag POISON, no earlier than the record of it in the ring of a slot (R402). -/
def State.poisonLines (s : State) (slot : Nat) (lines : List Nat) : State :=
  lines.foldl (fun s l => (List.range 4).foldl (fun s i => s.setTagH false (64 * l + 16 * i) hPOISON) s) (s.stampLines (s.dmgRing slot).time lines).1

/-- The LTIME where a damage was found. -/
def State.ltimeOf (s : State) (core : Nat) : Time := (s.cluster (core / 8)).ltime

/-! ### Closing a Shutter (R395) -/

def rectX (r : Word) : Nat := r.toNat % 64
def rectY (r : Word) : Nat := r.toNat / 2 ^ 8 % 32
def rectXN (r : Word) : Nat := r.toNat / 2 ^ 16 % 64
def rectYN (r : Word) : Nat := r.toNat / 2 ^ 24 % 32
def rectMask (r : Word) : Byte := (r >>> 32).setWidth 8
/-- A rectangle lies in the mesh. -/
def rectFits (r : Word) : Bool := decide (rectX r + rectXN r ≤ 48) && decide (rectY r + rectYN r ≤ 24) && decide (rectX r < 48) && decide (rectY r < 24)

def rectClusters (r : Word) : List Nat :=
  (List.range (rectYN r)).flatMap (fun y => (List.range (rectXN r)).map (fun x => (rectY r + y) * 48 + rectX r + x))
def rectCores (r : Word) : List Nat :=
  (rectClusters r).flatMap (fun k => ((List.range 8).filter (fun i => (rectMask r).getLsbD i)).map (fun i => 8 * k + i))

/-- What step 4 writes of one activation that is ended (R401). -/
structure EndRec where
  core : Nat
  slot : Nat
  chan : Nat
  /-- the counter that it counted to, with the slot of that counter -/
  ctr : Nat
  cslot : Nat
  entry : Word
  pc : Word
  deriving DecidableEq, Repr

/-- The activations of a core, resident and queued. -/
def State.endRecs (s : State) (c : Nat) : List EndRec :=
  let k := s.core c
  let one (ch : BitVec 6) (r : Rec) (pc : Word) : EndRec :=
    ⟨c, k.tslot.toNat, ch.toNat, r.ctr.toNat, r.tslot, (k.chans[ch.toNat]'ch.isLt).entry, pc⟩
  k.residents.map (fun a => one a.chan a.rcd a.pc) ++ k.queue.map (fun q => one q.chan q.rcd q.entry)

/-- The counters that ended activations counted to, each with how many (R401). -/
def launchRecs : List EndRec → List (Nat × Nat × Nat)
  | [] => []
  | e :: l =>
    let rest := launchRecs l
    if e.ctr = 0 then rest
    else match rest.find? (fun p => p.1 == e.cslot && p.2.1 == e.ctr) with
      | some _ => rest.map (fun p => if p.1 == e.cslot && p.2.1 == e.ctr then (p.1, p.2.1, p.2.2 + 1) else p)
      | none => (e.cslot, e.ctr, 1) :: rest

/-- A resident activation is ended where it stands. -/
def State.endResident (s : State) (c : Nat) (a : Act) : State :=
  let s1 := s.dropPark a
  let k := s1.core c
  let run := k.running && k.act.slot == a.slot
  (s1.setCore c { k with
    running := k.running && !run, act := if run then Act.blank else k.act
    parked := k.parked.filter (fun b => b.slot != a.slot), ready := k.ready.filter (fun b => b.slot != a.slot) }).endAct c a

/-- The records that wait in the rings of a core are discarded, and their counters lowered (R305). -/
def State.endRings (s : State) (c : Nat) : State :=
  let k := s.core c
  let recs := k.chans.toList.flatMap (fun ch => ch.recs.filter (fun r => !r.dead))
  recs.foldl (fun s r => s.recGone c r) (s.setCore c { k with chans := k.chans.map (fun ch => { ch with recs := [], pend := 0 }) })

/-- The router at which a message of a core inside a rectangle is dropped on its way: none where it stays inside. One for another module is
dropped at the core's own router (DESIGN CHOICE, log 60). -/
def State.boundaryOf (s : State) (cls : List Nat) (m : Msg) : Option Nat :=
  if m.dmod != s.plant.modId then some (m.sentAt / 8)
  else
    let way := (xyPath (m.sentAt / 8) (m.core / 8)).takeWhile (fun k => cls.contains k)
    if cls.contains (m.core / 8) then none else way.getLast?

/-- A message that a fenced core had not yet sent: dropped at the boundary, flit by flit, or refused by the core inside (R395, step 1). A
counter that it would have counted to is lowered (R305). -/
def State.dropFenced (s : State) (cls : List Nat) (m : Msg) : State :=
  match s.boundaryOf cls m with
  | none => s.turnBack m 1
  | some k =>
    let n := ((fget s.plant.drops k).getD 0).toNat
    let s1 := { s with plant := { s.plant with drops := fset s.plant.drops k (BitVec.ofNat 16 (Nat.min 0xFFFF (n + m.flits))) } }
    (s1.setCore m.sentAt ((s1.core m.sentAt).countRecv m.color)).lost m

/-- A core stops; its activations end, its messages not yet out are dropped at the boundary, and those it held unbound are
refused (steps 1, 2 and 4). -/
def State.endCore (s : State) (cls : List Nat) (c : Nat) : State :=
  let k0 := s.core c
  let s1 := (s.setCore c { k0 with halted := true, sendReq := [], sendRep := [] }).endRings c
  let s2 := (k0.sendReq ++ k0.sendRep).foldl (fun s m => s.dropFenced cls m) s1
  let s3 := k0.queue.foldl (fun s q => s.dropQueued c q) s2
  let s4 := k0.residents.foldl (fun s a => s.endResident c a) s3
  (s4.core c).unbound.foldl (fun s p =>
    ((s.setCore c { s.core c with unbound := ferase (s.core c).unbound p.1 }).unrefC (c / 8) p.2.2).refuse p.2.1 1) s4

/-- Parts of a long range that fit its pages. -/
def pageParts (x : Word) : Nat → Nat → List (Word × Nat)
  | 0, _ => []
  | fuel + 1, n => if n = 0 then [] else
    let m := Nat.min n (65536 - x.toNat % 65536)
    (x, m) :: pageParts (x + BitVec.ofNat 64 m) fuel (n - m)

/-- The places of a destination range: key and length of each part, contiguous ones joined. -/
def State.destParts (s : State) (core : Nat) (sup : Bool) (x : Word) (n : Nat) : List (Nat × Nat) :=
  ((pageParts x (n / 65536 + 2) n).filterMap (fun p => match s.resolve core sup .wr p.1 with
    | .ok key => some (key, p.2)
    | .error _ => none)).foldr (fun p l => match l with
      | (k, m) :: r => if p.1 + p.2 = k then (p.1, p.2 + m) :: r else p :: (k, m) :: r
      | [] => [p]) []

/-- The destination of a BTE record that stops in its work (R401). -/
def State.bteDest (s : State) (b : Bte) : List (Nat × Nat) :=
  match (if b.state == 1 && b.owed.isNone then b.cur else none) with
  | none => []
  | some r =>
    match lf r 64 3 with
    | 0 => s.destParts b.core b.sup (lw r 192) (lf r 256 32)
    | 2 => s.destParts b.core b.sup (lw r 192) (lw r 256).toNat
    | 3 => match b.body with
      | none => []
      | some body =>
        s.destParts b.core b.sup (lw body 192 + (BitVec.ofNat 32 (lf r 352 32)).signExtend 64 * BitVec.ofNat 64 b.iter)
          (if lf body 64 3 = 0 then lf body 256 32 else (lw body 256).toNat)
    | 1 =>
      let slot := (s.core b.core).tslot.toNat
      match s.tileHandle (b.core / 8) slot (lw r 320) (r.getLsbD 144), s.engRead b.core b.sup slot (lw r 256) 32 with
      | .ok h, .ok (bytes, _) =>
        let box := BitVec.ofNat 256 (ofBytes bytes)
        if b.tcopy = 0 || boxMalformed b.tcopy box then []
        else
          let es := s.tileList b.core b.sup b.tcopy box 0 (boxOffsets box)
          let ps := (s.tileParts b slot h (r.getLsbD 144) b.tcopy (lw r 192) es.1).1
          (runsOf (sortNat (granulesOf ps))).map (fun p => (16 * p.1, 16 * p.2))
      | _, _ => []
    | _ => []

/-- Commands of an MXE queue that store: the places of their 4 KiB (R213). -/
def MxQueue.dest (q : MxQueue) : List (Nat × Nat) :=
  match q.active with
  | some m => if m.kind = .mstore && m.begun then (runsOf (sortNat (m.spans.map (fun p => p.1 / 16)))).map (fun p => (16 * p.1, 16 * p.2)) else []
  | none => []

/-- A place without what of it lies in the portions of cores inside, which their SHUTTER record stands for (R401). -/
def outside (inside : List Nat) (p : Nat × Nat) : List (Nat × Nat) :=
  if !isScratch p.1 || p.2 = 0 then [p]
  else
    let c0 := (p.1 - 2 ^ 39) / 2 ^ 18
    let c1 := (p.1 - 2 ^ 39 + p.2 - 1) / 2 ^ 18
    ((List.range (c1 - c0 + 1)).map (· + c0)).filterMap (fun c =>
      let lo := Nat.max p.1 (2 ^ 39 + c * 2 ^ 18)
      let hi := Nat.min (p.1 + p.2) (2 ^ 39 + (c + 1) * 2 ^ 18)
      if inside.contains c then none else some (lo, hi - lo))

/-- The bytes of DST that a member's collective writes (R289). -/
def collDstLen (r : Line) : Nat :=
  match collOp r with
  | 2 => collMembers r * collCount r * collSize r
  | _ => collCount r * collSize r

/-- The destination ranges of the engine work that a closing stops in a cluster, each with its slot: that of cores inside, or all (R401). -/
def State.stoppedDests (s : State) (whole : Bool) (inside : List Nat) (k : Nat) : List (Nat × Nat × Nat) :=
  let x := s.cluster k
  let mine (c : Nat) : Bool := whole || inside.contains c
  let of_ (c : Nat) (l : List (Nat × Nat)) : List (Nat × Nat × Nat) :=
    if mine c then (l.flatMap (outside inside)).map (fun p => ((s.core c).tslot.toNat, p.1, p.2)) else []
  (x.bte.toList.filter (fun b => b.state == 1)).flatMap (fun b => of_ b.core (s.bteDest b))
    ++ (List.range 8).flatMap (fun i => of_ (8 * k + i) (x.mxq.toList.getD i {}).dest)
    ++ (x.colls.filter (fun c => c.data.isSome)).flatMap (fun c => of_ c.core (s.destParts c.core c.sup (lw c.rcd 192) (collDstLen c.rcd)))

/-- The engines of a cluster stop: work that cores inside started, or all of it, is discarded (step 3). -/
def State.stopEngines (s : State) (whole : Bool) (inside : List Nat) (k : Nat) : State :=
  let x := s.cluster k
  let mine (c : Nat) : Bool := whole || inside.contains c
  let gone := (List.range 8).flatMap (fun i => if mine (8 * k + i) then (x.mxq.toList.getD i {}).handles else [])
    ++ (x.colls.filter (fun c => mine c.core)).map (·.lab)
  let s1 := (s.unrefAll k gone).setCluster k { (s.unrefAll k gone).cluster k with
    mxq := Vector.ofFn (fun i : Fin 8 => if mine (8 * k + i.val) then {} else x.mxq[i]), colls := x.colls.filter (fun c => !mine c.core) }
  (List.range 16).foldl (fun s m =>
    let b := s.bteAt k m
    if whole then (s.unrefAll k b.handles).setBte k m {}
    else
      let dq := b.queued != 0 && mine b.qcore
      let b1 := if dq then { b with queued := 0 } else b
      let s := if dq then (s.unrefC k b.qlab).setBte k m b1 else s
      if b.state == 1 && mine b.core then s.bteEnd k m b1 else s) s1

/-- The handles of write and read tenure that a cluster holds (step 5). -/
def State.heldBy (s : State) (k : Nat) : List Nat := (s.handles.filter (fun p => p.2.kind != 0 && p.2.holder == k)).map (·.1)

/-- A tenure of a cluster inside ends at once: written blocks become POISON, with their RANGE records; what lies in a portion inside has
none (step 5). -/
def State.endTenure (s : State) (inside : List Nat) (sill src : Nat) (time : Time) (i : Nat) : State :=
  let e := s.thandle i
  let lines := e.lines
  let named := lines.filter (fun l => !(isScratch (64 * l) && inside.contains (scratchCore (64 * l))))
  let s1 := s.releaseHandle i (8 * e.holder) e.stamp
  if e.kind = 2 then (s1.rangeRecords sill e.tslot src time named (handleVal i e).toNat).poisonLines e.tslot lines else s1

/-- A core takes the state after reset, together with those inside; what other cores of its cluster own stays theirs. Its slot and PTROOT
follow the tenant record (R377, step 7). In a scanned cluster it stays halted, unless the Shutter holds the whole cluster (R419). -/
def State.resetCore (s : State) (whole : Bool) (inside : List Nat) (c : Nat) : State :=
  let k := s.core c
  let cl := c / 8
  let others := (coresOf cl).foldl (fun m i => if inside.contains i then m else m ||| (s.core i).accmap) 0
  let s1 := (s.unrefAll cl (k.handles ++ (s.ownAccs c).map (·.2.lab) ++ (k.copies ++ k.victims).flatMap (·.labs))).clearScratch c 0 (2 ^ 18)
  let x := s1.cluster cl
  (s1.setCluster cl { x with accs := clearAccs k.accmap x.accs }).setCore c { Core.reset c with
    accmap := (Core.reset c).accmap &&& ~~~others, halted := !whole && x.dbg.scanned, tslot := k.tslot, ptroot := k.ptroot, nextAid := k.nextAid, sendSeq := k.sendSeq
    gatedCycles := k.gatedCycles }

/-- A Shutter closes over a rectangle, for a reason and with the third argument of its record (R395). -/
def State.closeShutter (s : State) (entry : Nat) (rect : Word) (src a2 : Nat) : State :=
  let inside := rectCores rect
  let cls := rectClusters rect
  let whole := rectMask rect == 0xFF
  let e0 := (fget s.plant.shutters entry).getD {}
  let recs := inside.flatMap s.endRecs
  let time (core : Nat) : Time := s.ltimeOf core
  let t0 := time (8 * cls.headD 0)
  let s1 := { s with plant := { s.plant with shutters := fset s.plant.shutters entry { e0 with rect := rect, state := 2 } } }
  let dests := cls.flatMap (fun k => s.stoppedDests whole inside k)
  let s2 := cls.foldl (fun s k => s.stopEngines whole inside k) s1
  let s3 := inside.foldl (fun s c => s.endCore cls c) s2
  let s4 := if whole then cls.foldl (fun s k => (s.heldBy k).foldl (fun s i => s.endTenure inside (sillOf (8 * k)) src (s.ltimeOf (8 * k)) i) s) s3 else s3
  let s5 := dests.foldl (fun s p => s.damage (sillOf (8 * cls.headD 0)) p.1 (damageRcd 1 src p.1 t0 (s.placeForm p.2.1) p.2.2 0)) s4
  let s6 := recs.foldl (fun s r => s.damage (sillOf r.core) r.slot
    (damageRcd 3 src r.slot (time r.core) (r.core + r.chan * 2 ^ 16 + r.ctr * 2 ^ 32) r.entry.toNat r.pc.toNat)) s5
  let s7 := (launchRecs recs).foldl (fun s p => s.damage (sillOf (8 * cls.headD 0)) p.1 (damageRcd 4 src p.1 t0 p.2.1 p.2.2 0)) s6
  let s8 := (dedupNat (inside.map (fun c => (s.core c).tslot.toNat))).foldl (fun s t =>
    s.damage (sillOf (8 * cls.headD 0)) t (damageRcd 5 src t t0 rect.toNat (if entry < 64 then entry else 0xFF) a2)) s7
  let s9 := inside.foldl (fun s c => s.resetCore whole inside c) s8
  let s10 := if whole then cls.foldl (fun s k =>
    s.setCluster k { s.cluster k with dbg := { (s.cluster k).dbg with scanned := false, frozen := false } }) s9 else s9
  s10.released

/-! ### CONTAIN (R343) -/

/-- The bits of sa that name a rectangle and its cores. -/
def rectBits : Word := 0xFF1F3F1F3F

/-- Whether a core of a rectangle lies in another armed entry. -/
def State.armedElsewhere (s : State) (entry : Nat) (rect : Word) : Bool :=
  s.plant.shutters.any (fun p => p.1 != entry && p.2.state == 1 && (rectCores rect).any (fun c => inRect p.2.rect c))

/-- The checks of CONTAIN and the parking until the boundary routers have taken its change; f gives the change of the entry, or
stops it. -/
def State.containRes (s : State) (op : BitVec 2) (f : State → Nat → Shutter → Word → Res State) : Res State :=
  let a := s.act.rd s.ir.a
  let b := s.act.rd s.ir.b
  match s.supOnly with
  | .error e => .error e
  | .ok _ => match s.regs [.s s.ir.a.toNat, .s s.ir.b.toNat] with
    | .error e => .error e
    | .ok _ => match s.asMarker with
      | .error e => .error e
      | .ok _ =>
        if (a.val &&& ~~~rectBits) != 0 || !rectFits a.val then trapped .bounds a.val
        else if (b.val &&& ~~~(0x33F : Word)) != 0 then trapped .bounds b.val
        else
          let n := b.val.toNat % 64
          match f s n ((fget s.plant.shutters n).getD {}) a.val with
          | .error e => .error e
          | .ok t =>
            if t.me.running && t.act.aid == s.act.aid then .error (.final (t.park (.contain op (BitVec.ofNat 6 n) a.val) s.npc)) else .error (.final t)

def State.setShutter (s : State) (n : Nat) (x : Shutter) : State := { s with plant := { s.plant with shutters := fset s.plant.shutters n x } }

/-- ARM: the entry takes the rectangle. -/
def State.contain0 (s : State) (n : Nat) (e : Shutter) (rect : Word) : Res State :=
  if e.state != 0 || s.armedElsewhere n rect then trapped .prot rect else .ok (s.setShutter n { e with rect := rect, state := 1 })
/-- CLOSE: an armed entry closes; another changes nothing. -/
def State.contain1 (s : State) (n : Nat) (e : Shutter) (_rect : Word) : Res State := .ok (if e.state = 1 then s.closeShutter n e.rect 6 0 else s)
/-- OPEN: a closed entry is free again, unless it is permanent. -/
def State.contain2 (s : State) (n : Nat) (e : Shutter) (rect : Word) : Res State :=
  if e.perm then trapped .prot rect else .ok (if e.state = 2 then s.setShutter n {} else s)
/-- PERM. -/
def State.contain3 (s : State) (n : Nat) (e : Shutter) (_rect : Word) : Res State := .ok (s.setShutter n { e with perm := true })

/-- The operation stands in sb: each row is CONTAIN with its own value there, and the meaning of one instruction is that of the
operation it finds. -/
def State.containOp (s : State) : Res State :=
  let op : BitVec 2 := ((s.act.rd s.ir.b).val >>> 8).setWidth 2
  s.containRes op (match op with
    | 0 => State.contain0
    | 1 => State.contain1
    | 2 => State.contain2
    | _ => State.contain3)

def execContainArm (s : State) : Host.Outcome State Fault Refusal := s.run s.containOp
def execContainClose (s : State) : Host.Outcome State Fault Refusal := s.run s.containOp
def execContainOpen (s : State) : Host.Outcome State Fault Refusal := s.run s.containOp
def execContainPerm (s : State) : Host.Outcome State Fault Refusal := s.run s.containOp

/-- Every boundary router has taken the change, and the CONTAIN of core n, slot m retires. -/
def execContainTaken (s : State) : Host.Outcome State Fault Refusal :=
  .next (match s.parkedAt s.arg.n s.arg.m with
    | some a => match a.park with
      | some (.contain _ _ _) => s.resume s.arg.n s.arg.m none none
      | _ => s
    | none => s)

/-! ### Errors (R390 to R394) -/

/-- A field of ERRCNT counts: 0 CE, 1 UE, 2 REPLAY, 3 RESID (R393). -/
def State.countErr (s : State) (k f : Nat) : State := s.setCluster k { s.cluster k with errcnt := bump (s.cluster k).errcnt f }

/-- The slot whose ring takes the record of a granule: the core's for a scratchpad. -/
def State.ownerOf (s : State) (key slot : Nat) : Nat := if isScratch key then (s.core (scratchCore key)).tslot.toNat else slot

/-- The cluster in whose arrays or L2 slice a key lies (R230, R393). -/
def keyCluster (key : Nat) : Nat := if isScratch key then scratchCluster key else homeCluster key

/-- An uncorrectable error of a granule, first found: POISON and its RANGE record (R390, R405). Of a line under write tenure it is a
granule of the working version, where w says so (R234, R255). -/
def State.granuleError (s : State) (w : Bool) (key slot src a2 : Nat) : State :=
  let k := keyCluster key
  let g := key / 16 * 16
  let v : View := w && (match s.tenureAt (key / 64) with | some (_, h) => h.kind == 2 | none => false)
  let s1 := s.countErr k 1
  if s1.rdTag v (g / 16) = hPOISON then s1
  else
    let t := s.ownerOf g slot
    let s2 := s1.damage (sillOf (8 * k)) t (damageRcd 1 src t (s.cluster k).ltime (s.placeForm g) 16 a2)
    if v then s2.setTagH v g hPOISON else (s2.stampLines (s2.dmgRing t).time [g / 64]).1.setTagH v g hPOISON

/-- The head of the chain that an entry of a table belongs to. -/
def headOf (t : LTable) (n : Nat) : Option (Nat × Head) := t.find? (fun p => p.1 == n || p.2.conts.contains n)

/-- An uncorrectable error of a table entry: its head becomes KIND 3 for good (R122, R390). -/
def State.tableError (s : State) (k : Nat) (t : Tab) (n isDlt where_ : Nat) : State :=
  let s1 := s.countErr k 1
  match headOf (s1.tab t) n with
  | none => s1
  | some (i, h) =>
    if h.damaged then s1
    else
      let slot := h.tslot.toNat
      (s1.setTab t (fset (s1.tab t) i { h with damaged := true, rc := 0xFFFFFF })).damage (sillOf (8 * k)) slot
        (damageRcd 8 8 slot (s.cluster k).ltime (isDlt + n * 2 ^ 16 + where_ * 2 ^ 32) 0 0)

/-- The greatest LTIME of the module (R244). -/
def State.maxLtime (s : State) : Time := match s.clusters with
  | [] => 0
  | q :: l => l.foldl (fun t p => tmax t p.2.ltime) q.2.ltime

/-- A home rebuilds the directory entry of a line (R404). -/
def State.rebuild (s : State) (line : Nat) : State :=
  let k := keyCluster (64 * line)
  let m := tmaxO s.plant.fabTime s.maxLtime
  let t : Time := m + 0x40000001
  let hit (e : THandle) : Bool := e.open_ && e.blocks.any (fun b => b.lines.contains line) && (e.kind == 2 || (e.wait && e.want == 2))
  ((s.countErr k 1).handles.filter (fun p => hit p.2)).foldl (fun s p =>
    let e := p.2
    let lines := dedupNat (e.blocks.flatMap (·.lines))
    let s1 := if e.kind = 2 then s.releaseHandle p.1 (8 * e.holder) e.stamp else s.setThandle p.1 { e with taken := 0 }
    (s1.rangeRecords (sillOf (8 * k)) e.tslot 2 (s.cluster k).ltime lines (handleVal p.1 e).toNat).poisonLines e.tslot lines)
    (s.countErr k 1) |>.setStamp line ⟨t, t⟩

/-- A register of a resident activation reads with POISON from now on (R390): 0 to 63 scalar, 64 to 71 mask, 128 + 4 v + q a quad;
192 + a is an accumulator of the cluster, 208 + r shadow register r of a handler (R337). -/
def State.registerError (s : State) (c slot n : Nat) : State :=
  let k := s.core c
  let x := s.cluster (c / 8)
  if 192 ≤ n && n < 208 then
    let acc := x.accs.toList.getD (n - 192) {}
    let s1 := s.unrefC (c / 8) acc.lab
    s1.setCluster (c / 8) { s1.cluster (c / 8) with accs := x.accs.setIfInBounds (n - 192) { acc with lab := hPOISON } }
  else match k.residents.find? (fun a => a.slot == slot) with
  | none => s
  | some a =>
    let put (old : Handle) (b : Act) : State := (s.unrefC (c / 8) old).setCore c (k.putSlot slot b)
    let s6 : BitVec 6 := BitVec.ofNat 6 n
    let m3 : BitVec 3 := BitVec.ofNat 3 n
    let v4 : BitVec 4 := BitVec.ofNat 4 (n / 4)
    if n < 64 then
      let r := a.sregs[s6.toNat]'s6.isLt
      if n = 0 then s else put r.lab { a with sregs := a.sregs.set s6.toNat { r with lab := hPOISON } s6.isLt }
    else if n < 72 then
      let r := a.mregs[m3.toNat]'m3.isLt
      if n = 64 then s else put r.lab { a with mregs := a.mregs.set m3.toNat { r with lab := hPOISON } m3.isLt }
    else if 128 ≤ n && n < 192 then
      let r := a.rdV v4
      let q := n % 4
      put (r.labs.getD q 0) (a.wrV v4 (VReg.ofLabs r.val ((List.range 4).map (fun i => if i = q then hPOISON else r.labs.getD i 0))))
    else match (if 208 < n && n < 224 then a.trap else none) with
      | none => s
      | some t =>
        let i : Fin 16 := ⟨n % 16, Nat.mod_lt _ (by decide)⟩
        put (t.shadow[i]).lab { a with trap := some { t with shadow := t.shadow.set i { t.shadow[i] with lab := hPOISON } } }

/-- A second mismatch of the checker on core c (R392): the armed Shutter that holds the core closes, else one of its own. -/
def State.checker (s : State) (c : Nat) : State :=
  let pc := (s.core c).act.pc.toNat
  if s.shuttered c then s
  else match s.plant.shutters.find? (fun p => p.2.state == 1 && inRect p.2.rect c) with
    | some (i, e) => s.closeShutter i e.rect 4 pc
    | none =>
      let k := c / 8
      s.closeShutter (64 + c) (BitVec.ofNat 64 (k % 48 + k / 48 * 2 ^ 8 + 2 ^ 16 + 2 ^ 24 + 2 ^ (32 + c % 8))) 4 pc

/-- A chunk of the MXE fails its residue: recomputed; failing again, its accumulator is POISON, with an ACC record (R392). -/
def State.residue (s : State) (k acc : Nat) (again : Bool) : State :=
  let s1 := s.countErr k 3
  let x := s1.cluster k
  let a := x.accs.toList.getD acc {}
  if !again || !a.v then s1
  else
    let slot := match (coresOf k).find? (fun c => (s.core c).accmap.getLsbD acc) with | some c => (s.core c).tslot.toNat | none => 0
    let s2 := (s1.unrefC k a.lab)
    (s2.setCluster k { s2.cluster k with accs := (s2.cluster k).accs.setIfInBounds acc { a with lab := hPOISON, pfl := a.pfl ||| 0x100 } }).damage
      (sillOf (8 * k)) slot (damageRcd 7 5 slot x.ltime (k + acc * 2 ^ 16) a.kdone 0)

/-- The scrubber, or a use, finds an error: with the flag it cannot be corrected. The kind is k: 0 a granule, 1 an entry of the CLT of
cluster n or of DLT data, 2 a directory entry, 3 a scale granule of TID data, 4 a register of core n, 5 a checker mismatch of core n, 6 a
residue of accumulator m, 7 a message's flit at place m of the networks. For 0, 2 and 3, word is the key and m the slot; bit 10 of data
names the working version of a granule. -/
def execPatrolScrub (s : State) : Host.Outcome State Fault Refusal :=
  let n := s.arg.n
  let m := s.arg.m
  let key := s.arg.word.toNat
  let slot := m % 64
  .next (match s.arg.k with
    | 0 => if s.arg.flag then s.granuleError (s.arg.data.getLsbD 10) key slot 1 0 else s.countErr (keyCluster key) 0
    | 1 =>
      if !s.arg.flag then s.countErr n 0
      else if s.arg.word = 0 then s.tableError n (.clt n) m 0 n
      else s.tableError n (.dlt s.arg.data.toNat) m 1 s.arg.data.toNat
    | 2 => if s.arg.flag then s.rebuild (key / 64) else s.countErr (keyCluster key) 0
    | 3 => if s.arg.flag then s.granuleError (s.arg.data.getLsbD 10) key slot 3 (s.arg.data.toNat % 1024) else s.countErr (keyCluster key) 0
    | 4 => if s.arg.flag then (s.registerError n m key).countErr (n / 8) 1 else s.countErr (n / 8) 0
    | 5 => if s.arg.flag then s.checker n else s.countErr (n / 8) 2
    | 6 => s.residue n m s.arg.flag
    | 7 => match (if s.arg.flag then s.net[m]? else none) with
      | some x =>
        let s1 := { s with net := s.net.eraseIdx m }
        if x.dmod != s.plant.modId then s1.abroad x 1 else s1.turnBack x 1
      | none => s
    | _ => s)

/-! ### Dead modules (R406) -/

/-- The addresses that an outstanding access names, but for one through a handle. -/
def LOp.reach : LOp → List Word
  | .arith | .tile _ _ _ _ _ _ _ _ => []
  | .load x _ _ _ _ | .loadQ x _ _ | .ldfe x _ _ | .store x _ _ _ | .atom _ x _ _ _ _ _ _ _ | .vload x _ _ _ _ _ | .vstore x _ _ _ _ _
  | .clgo x _ _ | .ringwait x _ _ _ | .syncw x _ _ _ => [x]
  | .vgather xs _ _ _ _ _ _ | .vscatter xs _ _ _ _ _ _ => xs

/-- The address at which a parked activation waits for a word. -/
def Park.reach : Park → List Word
  | .ldfe x _ _ _ _ | .ldfeAgain x | .ringwait x _ _ _ _ _ | .syncw x _ _ _ _ _ | .waitAgain x _ _ => [x]
  | _ => []

/-- Whether an address of a core lies in module m. -/
def State.reaches (s : State) (c : Nat) (sup : Bool) (m : Nat) (x : Word) : Bool :=
  [Kind.rd, .wr].any (fun k => match s.resolve c sup k x with
    | .ok key => isRemote key && remoteModule key == m
    | .error _ => false)

/-- Whether this module holds a lease, a tenure, an outstanding access or a collective with module m (R406). -/
def State.linked (s : State) (m : Nat) : Bool :=
  let far (key : Nat) : Bool := isRemote key && remoteModule key == m
  s.pages.any (fun p => p.2.holders.contains m || far (p.1 * 65536))
    || s.cores.any (fun p => (p.2.copies ++ p.2.victims).any (fun c => far (c.key * 64))
      || p.2.residents.any (fun a => (a.outs.flatMap (·.op.reach) ++ (match a.park with | some k => k.reach | none => [])).any
          (s.reaches p.1 a.sup m)))
    || s.clusters.any (fun p => p.2.colls.any (fun x => match s.collGroup x with
        | .ok g => g.any (fun e => e / 2 ^ 14 == m)
        | .error _ => false))

/-- A heartbeat of module n came, with the flag, or was missed. With a module of which nothing is held any more none are exchanged
(R406, R407). -/
def execHeartbeat (s : State) : Host.Outcome State Fault Refusal :=
  let p := (fget s.plant.peers s.arg.n).getD {}
  .next (if !p.act then s
    else if !s.linked s.arg.n && !p.dead then { s with plant := { s.plant with peers := fset s.plant.peers s.arg.n { p with act := false, missed := 0 } } }
    else { s with plant := { s.plant with peers := fset s.plant.peers s.arg.n { p with
      missed := if s.arg.flag then 0 else p.missed + 1
      missedAt := if !s.arg.flag && p.missed = 2 then s.cycle 0 else p.missedAt } } })

/-- The slots of a mask. -/
def maskSlots (m : Word) : List Nat := (List.range 64).filter (fun i => m.getLsbD i)

/-- Page g was under write tenure of a module that died: POISON, and a PAGE record for each slot of its mask. -/
def State.deadPage (s : State) (m g : Nat) (p : PageTen) : State :=
  let left := p.holders.filter (fun h => h != m)
  let lines := (List.range 1024).map (fun i => g * 1024 + i)
  let s1 := if p.write then
      let slots := maskSlots p.slots
      let r := slots.foldl (fun s t => s.damage (homeDie (g * 65536) / 4) t (damageRcd 2 7 t s.maxLtime (g * 65536) m 0)) s
      (if slots = [] then [0] else slots).foldl (fun s t => s.poisonLines t lines) r
    else s
  { s1 with pages := if left = [] then ferase s1.pages g else fset s1.pages g { p with holders := left, write := false } }

/-- A working version that has no home any more goes, with its tags. -/
def State.dropWorking (s : State) (lines : List Nat) : State :=
  let mine (key : Nat) : Bool := lines.contains (key / 64)
  let tags := s.wtags.filter (fun p => mine (p.1 * 16))
  let s1 := tags.foldl (fun s p => s.setTab (tabOf (p.1 * 16)) (tunref (s.tab (tabOf (p.1 * 16))) p.2)) s
  { s1 with wstamps := s1.wstamps.filter (fun p => !lines.contains p.1), wmem := s1.wmem.filter (fun p => !mine p.1), wtags := s1.wtags.filter (fun p => !mine (p.1 * 16)), wfe := s1.wfe.filter (fun p => !mine (p.1 * 8)) }

/-- Tenure that this module held on the dead module's pages ends; the handles read KIND 0. -/
def State.deadTenure (s : State) (m i : Nat) : State :=
  let e := s.thandle i
  let far (l : Nat) : Bool := isRemote (64 * l) && remoteModule (64 * l) == m
  if e.kind != 0 && (e.blocks.take e.taken).any (fun b => b.lines.any far) then
    (s.dropWorking (dedupNat ((e.blocks.flatMap (·.lines)).filter far))).releaseHandle i (8 * e.holder) e.stamp
  else s

/-- Three heartbeats of module n have been missed. Page tenure that this module held on its pages ends. -/
def execPeerDead (s : State) : Host.Outcome State Fault Refusal :=
  let m := s.arg.n
  let p := (fget s.plant.peers m).getD {}
  .next (if !p.act || p.dead || p.missed < 3 then s
    else
      let s1 := { s with plant := { s.plant with peers := fset s.plant.peers m { p with dead := true, slots := 0 } } }
      let s2 := (s1.pages.filter (fun q => q.2.holders.contains m)).foldl (fun s q => s.deadPage m q.1 q.2) s1
      let s3 := s2.handles.foldl (fun s q => s.deadTenure m q.1) s2
      let far (q : Nat × PageTen) : Bool := isRemote (q.1 * 65536) && remoteModule (q.1 * 65536) == m
      let s4 := { s3 with pages := s3.pages.filter (fun q => !far q) }
      let dests := if p.slots = 0 then [0] else maskSlots p.slots
      (dests.foldl (fun s t => s.damage 0 t (damageRcd 6 7 t s.maxLtime m p.missedAt.toNat 0)) s4).released)

end Sys2Proof.Machine
end

