-- ==== Sys2Proof/Machine/Door.lean ====
section
/-! DEFINITION. The must-save set (R342) and the loss of supply (R408 to R415). -/

namespace Sys2Proof.Machine

/-! ### MSAVE (R342) -/

/-- The parts of a range by 64 KiB page, checked as a load is: address and key of each. -/
def State.msaveParts (s : State) : List (Word × Nat) → Except (Cause × Word) (List (Word × Nat × Nat))
  | [] => .ok []
  | (x, n) :: l =>
    match s.resolve s.cur s.act.sup .rd x with
    | .error e => .error e
    | .ok key =>
      let last := x + BitVec.ofNat 64 (n - 1)
      match s.resolve s.cur s.act.sup .rd last with
      | .error e => .error e
      | .ok _ =>
        match s.tags.find? (fun p => decide (key ≤ p.1 * 16) && decide (p.1 * 16 < key + n) && s.foreignTag false (p.1 * 16) s.slot) with
        | some p => .error (.prot, x + BitVec.ofNat 64 (p.1 * 16 - key))
        | none => match s.msaveParts l with
          | .error e => .error e
          | .ok r => .ok ((x, key, n) :: r)

/-- A range lies in this module's DRAM or the core's own portion. -/
def State.msaveTarget (s : State) (parts : List (Word × Nat × Nat)) : Bool :=
  parts.all (fun p => isDram p.2.1 || (isScratch p.2.1 && scratchCore p.2.1 == s.cur))

/-- The status of an MSAVE and the set it leaves: ALIGN is decided first, then the checks of a load over the range, of which the
first is that its address carries no POISON; a length is no address (R138, R342). -/
def State.msaveStatus (s : State) (sa : Reg) (b : Word) : Except (Cause × Word) (Word × List MustSave) :=
  let a := sa.val
  let set := s.me.mustSave
  if b = 0 then .ok (if a = 0 then (0, []) else if a = 1 then (BitVec.ofNat 64 (charge set * 65536), set) else (3, set))
  else if a.toNat % 64 != 0 || b.toNat % 64 != 0 || decide (2 ^ 32 < b.toNat) then .ok (3, set)
  else if s.poison sa.lab then .error (.poison, a)
  else match s.msaveParts (pageParts a (b.toNat / 65536 + 2) b.toNat) with
    | .error e => .error e
    | .ok parts =>
      let r : MustSave := { addr := a, len := b, frames := parts.map (fun p => p.2.1 - p.1.toNat % 65536), pages := parts.map (fun p => BitVec.ofNat 64 (p.1.toNat / 65536)), tslot := s.slot }
      if !s.msaveTarget parts then .ok (4, set)
      else if set.length = 16 then .ok (2, set)
      else if s.me.msquota.toNat % 2 ^ 11 < charge (set ++ [r]) then .ok (1, set)
      else .ok (0, set ++ [r])

/-- The pages that an MSAVE translates (R342). -/
def msavePages (a b : Word) : List Piece :=
  if b = 0 || a.toNat % 64 != 0 || b.toNat % 64 != 0 || decide (2 ^ 32 < b.toNat) then []
  else (pageParts a (b.toNat / 65536 + 2) b.toNat).map (fun p => { addr := p.1, off := 0, len := 0, key := 0 })

def State.msaveRes (s : State) : Res State :=
  let a := s.act.rd s.ir.a
  let b := s.act.rd s.ir.b
  match s.regs [.s s.ir.d.toNat, .s s.ir.a.toNat, .s s.ir.b.toNat] with
  | .error e => .error e
  | .ok _ => match s.asMarker with
    | .error e => .error e
    | .ok _ => match s.msaveStatus a b.val with
      | .error (c, v) => if c = .poison then trapped c v else .error (.access a.val c v)
      | .ok (code, set) => match s.walks none (msavePages a.val b.val) with
        | .error e => .error e
        | .ok t => .error (.final ((t.setMe { t.me with mustSave := set }).park (.msave code s.ir.d) s.npc))

def execMsave (s : State) : Host.Outcome State Fault Refusal := s.run s.msaveRes

/-- The hold-up engine has recorded the range of the MSAVE of core n, slot m, which writes its status. -/
def execMsaveRecorded (s : State) : Host.Outcome State Fault Refusal :=
  .next (match s.parkedAt s.arg.n s.arg.m with
    | some a => match a.park with
      | some (.msave code d) => s.resume s.arg.n s.arg.m (some (d, code)) none
      | _ => s
    | none => s)

/-! ### The loss of supply (R409) -/

def State.setStorm (s : State) (x : Storm) : State := { s with plant := { s.plant with storm := x } }

/-- PFEN of a core. -/
def Core.pfen (k : Core) : Bool := k.msquota.getLsbD 16

/-- Whether core c has still to raise PFAIL for this loss and stands at an instruction boundary. In the handler of a deferred fault it
waits for the ERET: where such a fault is delivered in its place, PFAIL is raised at the boundary after it (R355, R409; DESIGN CHOICE,
log 65). -/
def State.pfailDue (s : State) (c : Nat) : Bool :=
  let k := s.core c
  s.plant.storm.phase == .failing && k.pfen && !k.pfDone && k.canStop && !(k.act.trap.isSome && k.act.dfr)

/-- One core raises PFAIL at its instruction boundary, once for a loss. -/
def State.pfailCore (s : State) (c : Nat) : State :=
  let k := s.core c
  if !s.pfailDue c then s
  else
    let t := ({ s with cur := c }.setCore c { k with stalled := false, stallSince := none, twait := false }).trapNow
      { cause := .pfail, xval := 0, xpc := k.act.xpcOf }
    { t with cur := s.cur }

/-- The input falls below 48 V, and each core that takes PFAIL and stands at a boundary raises it; one that does not raises it at its next
(stepCore). -/
def execPfail (s : State) : Host.Outcome State Fault Refusal :=
  let st := s.plant.storm
  let s1 := if st.phase = .up then s.setStorm { st with phase := .failing, since := s.clock, loss := s.clock } else s
  .next ((s1.cores.map (·.1)).foldl (fun s c => s.pfailCore c) s1)

/-- Two microseconds of loss. -/
def State.lossHeld (s : State) : Bool := decide (2 * Config.cyclesPerUs ≤ (s.clock - s.plant.storm.since).toNat)

/-- The input returns above 48 V in time. -/
def execSupplyRestored (s : State) : Host.Outcome State Fault Refusal :=
  let st := s.plant.storm
  .next (if st.phase = .failing && !s.lossHeld then
      { s.setStorm { st with phase := .up } with cores := s.cores.map (fun p => (p.1, { p.2 with pfDone := false })) }
    else s)

/-! ### The Storm Door (R410 to R415) -/

/-- Bytes of MRAM. -/
def State.mram (s : State) (sill off n : Nat) : List Byte := Memory.readN s.mem (keyMram sill off) n
def State.putMram (s : State) (sill off : Nat) (b : List Byte) : State := { s with mem := Memory.writeN s.mem (keyMram sill off) b }

/-- The status word of a Sill die (R415). -/
def State.status415 (s : State) (sill : Nat) : Word := wordOf (s.mram sill 0xEFFF000 8)

/-- The loss has held: cores stop issuing, engines stop, ports close. The bank that NEXT names is written, unless OPENED is 1. -/
def execStormDoorOpen (s : State) : Host.Outcome State Fault Refusal :=
  let st := s.plant.storm
  let w := s.status415 0
  .next (if st.phase = .failing && s.lossHeld then
      s.setStorm { st with phase := .doorOpen, doors := st.doors + 1, since := s.clock, writes := !w.getLsbD 0, bank := w.getLsbD 3 }
    else s)

/-- Every write that entered the home network is performed; a store of the model is performed when it issues. -/
def execQuiesce (s : State) : Host.Outcome State Fault Refusal :=
  .next (if s.plant.storm.phase = .doorOpen then s.setStorm { s.plant.storm with phase := .quiesced } else s)

def bankBase (b : Bool) : Nat := if b then 0x5000000 else 0
/-- Core slots of a Sill die: the core identities. -/
def sillCores (sill : Nat) : List Nat := (List.range Config.coreCount).filter (fun c => sillOf c == sill)
/-- Place of a core's header in its bank (R412). -/
def headerOff (c : Nat) : Nat := (c - 4608 * sillOf c) * 0x400

/-- Bank offset of a core's first chunk: chunks lie in order of core identity (R412). -/
def State.chunkOff (s : State) (c : Nat) : Nat :=
  0x480000 + 65536 * (((sillCores (sillOf c)).filter (fun i => decide (i < c))).map (fun i => charge (s.core i).mustSave)).sum

/-- The ranges of a header: address, length, first chunk. -/
def rangeFields : List MustSave → Nat → List Byte
  | [], _ => []
  | r :: l, first => toBytes 8 r.addr.toNat ++ toBytes 8 (r.len.toNat % 2 ^ 32 + first % 2 ^ 10 * 2 ^ 32) ++ rangeFields l (first + (r.len.toNat + 0xFFFF) / 0x10000)

/-- A header before any chunk is written (R413). -/
def State.header413 (s : State) (c : Nat) : List Byte :=
  let k := s.core c
  let n := charge k.mustSave
  toBytes 8 (0x5D01 + c * 2 ^ 16 + s.dtid k.tslot.toNat * 2 ^ 32 + n * 2 ^ 48) ++ toBytes 8 s.plant.storm.doors ++ toBytes 8 (s.chunkOff c)
    ++ List.replicate 40 0 ++ (rangeFields k.mustSave 0 ++ List.replicate (256 - 16 * k.mustSave.length) 0) ++ List.replicate 704 0

/-- The headers of the bank: those of cores with a set are written, the others cleared. -/
def execHeaders (s : State) : Host.Outcome State Fault Refusal :=
  let st := s.plant.storm
  let b := bankBase st.bank
  let clear (mem : List Host.Cell) (sill : Nat) : List Host.Cell :=
    mem.filter (fun p => !(decide (keyMram sill b ≤ p.1) && decide (p.1 < keyMram sill (b + 0x480000))))
  .next (if st.phase != .quiesced then s
    else
      let s0 := s.setStorm { st with phase := .headers }
      if !st.writes then s0
      else (s0.cores.map (·.1)).foldl (fun t c =>
        if (s.core c).mustSave = [] then t else t.putMram (sillOf c) (b + headerOff c) (s.header413 c)) { s0 with mem := clear (clear s0.mem 0) 1 })

/-- The range and the offset in it at which a chunk of a core starts. -/
def chunkAt : List MustSave → Nat → Option (MustSave × Nat)
  | [], _ => none
  | r :: l, i =>
    let n := (r.len.toNat + 0xFFFF) / 0x10000
    if i < n then some (r, i * 65536) else chunkAt l (i - n)

/-- The key of a byte of a range, through the frames that MSAVE recorded. -/
def MustSave.key (r : MustSave) (o : Nat) : Nat :=
  let x := r.addr.toNat + o
  r.frames.getD (x / 65536 - r.addr.toNat / 65536) 0 + x % 65536

/-- The version of a line that the copy reads for a core (R411). -/
def State.copyView (s : State) (c key : Nat) : View := s.writes (c / 8) (key / 64)

/-- One chunk: its bytes with zeros after them, or none when a granule reads POISON; and whether every tag was TRUE (R411). -/
def State.chunkBytes (s : State) (c : Nat) (r : MustSave) (o : Nat) : Option (List Byte) × Bool :=
  let n := Nat.min 65536 (r.len.toNat - o)
  let grans := (List.range (n / 16)).map (fun i => r.key (o + 16 * i))
  let tags := grans.map (fun g => s.tagLab (s.copyView c g) g)
  (if tags.any (fun t => t == none) then none
   else some (grans.flatMap (fun g => s.rdBytes (s.copyView c g) g 16) ++ List.replicate (65536 - n) 0), tags.all (fun t => t == some [0]))

/-- A bit of a header is set. -/
def State.setMramBit (s : State) (sill off i : Nat) : State :=
  s.putMram sill (off + i / 8) [((s.mram sill (off + i / 8) 1).getD 0 0) ||| BitVec.ofNat 8 (2 ^ (i % 8))]

/-- One chunk of a core is copied. An uncorrectable error found in it makes a granule POISON, and the chunk is not written (R390, R411). -/
def State.copyChunk (s : State) (error : Bool) (c i : Nat) : State :=
  let b := bankBase s.plant.storm.bank
  let sill := sillOf c
  match (if s.plant.storm.writes then chunkAt (s.core c).mustSave i else none) with
  | none => s
  | some (r, o) =>
    let s0 := if error then s.setTagH (s.copyView c (r.key o)) (r.key o) hPOISON else s
    let q := s0.chunkBytes c r o
    let s1 := if q.2 then s0.setMramBit sill (b + headerOff c) (2560 + 1024 + i) else s0
    match q.1 with
    | none => s1
    | some bytes => (s1.putMram sill (b + s.chunkOff c + 65536 * i) bytes).setMramBit sill (b + headerOff c) (2560 + i)

/-- Chunk m of core n is copied, with k not 0 for an uncorrectable error found in it; with the flag, every chunk
and the end of the copy. -/
def execCopyPhase (s : State) : Host.Outcome State Fault Refusal :=
  let st := s.plant.storm
  .next (if st.phase != .headers then s
    else if !s.arg.flag then s.copyChunk (s.arg.k != 0) s.arg.n s.arg.m
    else
      let t := (s.cores.map (·.1)).foldl (fun t c => (List.range (charge (s.core c).mustSave)).foldl (fun t i => t.copyChunk false c i) t) s
      t.setStorm { st with phase := .copied })

/-- CRC-64 of R413, reflected: one bit, one byte, a list. -/
def crcBit (c : Word) : Word := if c.getLsbD 0 then (c >>> 1) ^^^ 0xC96C5795D7870F42 else c >>> 1
def crcByte (c : Word) (b : Byte) : Word := (List.range 8).foldl (fun c _ => crcBit c) (c ^^^ b.setWidth 64)
def crc64 (l : List Byte) : Word := ~~~(l.foldl crcByte (BitVec.allOnes 64))

/-- The check code and the commit mark of a core whose chunks are all valid: CHECK before COMMIT (R413). -/
def State.commitCore (s : State) (c : Nat) : State :=
  let b := bankBase s.plant.storm.bank
  let sill := sillOf c
  let h := b + headerOff c
  let n := charge (s.core c).mustSave
  let valid := ofBytes (s.mram sill (h + 320) 128)
  if n = 0 || valid != 2 ^ n - 1 then s
  else
    let data := s.mram sill (b + s.chunkOff c) (65536 * n)
    let check := crc64 (s.mram sill h 1008 ++ data)
    (s.putMram sill (h + 1016) (toBytes 8 check.toNat)).putMram sill (h + 1008) (List.replicate 8 0x5D)

/-- What a Storm Door writes as it ends (R415). -/
def State.doorEnds (s : State) (over_ : Bool) : State :=
  let st := s.plant.storm
  let us := (s.clock - st.since).toNat / Config.cyclesPerUs
  let w (sill : Nat) : List Byte :=
    let next := bitAt ((s.status415 sill).getLsbD 3) 0
    toBytes 8 (1 + bitAt over_ 1 + next * 4 + next * 8 + us % 2 ^ 32 * 2 ^ 8)
  if st.writes then (s.putMram 0 0xEFFF000 (w 0)).putMram 1 0xEFFF000 (w 1) else s

/-- Commit marks, check codes and the status word. -/
def execCommitPhase (s : State) : Host.Outcome State Fault Refusal :=
  let st := s.plant.storm
  .next (if st.phase != .copied then s
    else
      let t := if st.writes then (s.cores.map (·.1)).foldl (fun t c => t.commitCore c) s else s
      (t.doorEnds false).setStorm { st with phase := .committed })

/-- The 20 ms of the budget, which run from the loss, are over: the engines stop where they stand (R410). -/
def execOverrun (s : State) : Host.Outcome State Fault Refusal :=
  let st := s.plant.storm
  let busy := match st.phase with | .doorOpen | .quiesced | .headers | .copied => true | _ => false
  .next (if busy && decide (20000 * Config.cyclesPerUs ≤ (s.clock - st.loss).toNat) then (s.doorEnds true).setStorm { st with phase := .overrun } else s)

/-- The Storm Door has run to its end, and the module takes a full reset (R410). -/
def State.doorEnded (s : State) : Bool := s.plant.storm.phase == .committed || s.plant.storm.phase == .overrun

/-- While the Storm Door is open nothing but its own phases and, at its end, the reset happens (R410). -/
def State.doorShut (s : State) : Bool := match s.plant.storm.phase with | .up | .failing => false | _ => true

end Sys2Proof.Machine
end

