-- ==== Sys2Proof/Machine/Boot.lean ====
section
/-! DEFINITION. Reset and boot (R388, R415, R429), attestation (R389), and the host's accesses (R384, R386, R387). -/

namespace Sys2Proof.Machine

def State.setBoot (s : State) (b : Boot) : State := { s with plant := { s.plant with boot := b } }

/-! ### Boot (R388, R429) -/

/-- The chain and the signature of a blob hold: its root key is the one whose digest the boot ROM holds, that key signs the certificate
of the operator's key, and the operator's key signs header and payload (R388). -/
def blobSigned (x : BootBlob) : Bool :=
  sha384 (pairBytes x.rootKey) == Config.rootDigest && ecVerify x.rootKey (sha384 x.certBody) x.certSig
    && ecVerify x.opKey (sha384 x.body) x.sig

/-- The boot ROM accepts a blob: its chain and signature hold, and its version is not below the floor (R388). A blob whose module
identity names no module is refused too (R21 gives the values and no such check: DESIGN CHOICE, log 50). -/
def Boot.accepts (b : Boot) (x : BootBlob) : Bool :=
  blobSigned x && decide (b.floor.toNat ≤ x.version.toNat) && decide (x.modId.toNat < Config.moduleCount)

/-- What a reset leaves of memory: MRAM, host memory and other modules' memory. -/
def keepMem (m : List Host.Cell) : List Host.Cell :=
  m.filter (fun p => (decide (2 ^ 44 ≤ p.1) && decide (p.1 < 2 ^ 44 + 2 ^ 29)) || decide (2 ^ 52 ≤ p.1))

/-- Every array and register at its reset value; MRAM, flash and the counts kept there stay (step 4). -/
def State.cleared (s : State) : State :=
  let r := State.reset
  { r with
    cur := s.cur, sched := s.sched, arg := s.arg, tick := s.tick, mem := keepMem s.mem
    plant := { r.plant with
      boot := { r.plant.boot with floor := s.plant.boot.floor, flash := s.plant.boot.flash }, storm := { r.plant.storm with doors := s.plant.storm.doors } } }

/-- The status word goes into the boot copy, and a boot that takes records turns NEXT (R415). -/
def State.bootCopy (s : State) (sill : Nat) : State :=
  let w := s.status415 sill
  let s1 := s.putMram sill 0xEFFF008 (toBytes 8 w.toNat)
  if w.getLsbD 0 then s1.putMram sill 0xEFFF000 (toBytes 8 ((w &&& ~~~ (3 : Word)) ^^^ 8).toNat) else s1

/-- The lanes take the thresholds of the configuration, the dies their caps. -/
def configPlant (p : Plant) (x : BootBlob) : Plant :=
  { p with
    modId := x.modId, hostcap := x.hostcap &&& 0x1FFF
    dies := (List.range 10).map (fun d => (d, if d < 8 then { cap := x.cap } else { cap := x.capSill, bmarg := 0xFFFF }))
    lanes := (List.range 72).map (fun l => (l, { hwarn := x.hwarn, vwarn := x.vwarn })) }

/-- Channel 56 of core 0 as step 6 binds it. -/
def bootChan (entry : Word) : Chan :=
  { entry := entry &&& ~~~ (3 : Word), prio := 7, bound := true, en := true, auto := true, rbase := 0, rsize := 128 }

/-- Boot goes on from step 3 with an accepted blob (R429). -/
def State.bootOn (s : State) (x : BootBlob) : State :=
  let b := s.plant.boot
  let s1 := s.setBoot { b with
    floor := if b.floor.toNat < x.minVersion.toNat then x.minVersion else b.floor, used := some x, version := x.version.setWidth 16
    debugOpen := x.debugOpen, reports := 0 }
  let s2 := { s1 with plant := configPlant s1.plant x }
  let s3 := (s2.bootCopy 0).bootCopy 1
  let s4 := { s3 with mem := x.image.foldl (fun m (p : Nat × List Byte) => if p.1 + p.2.length ≤ 2 ^ 38 then Memory.writeN m p.1 p.2 else m) s3.mem }
  let k := s4.core 0
  let s5 := s4.setCore 0 { k with chans := k.chans.set 56 (bootChan x.entry) (by decide) }
  let last := bitAt ((wordOf (s5.mram 0 0xEFFF008 8)).getLsbD 2) 0
  let s6 := s5.post (s5.hwMsg 0 56 ([b.status, BitVec.ofNat 8 last] ++ List.replicate 14 0) (s5.cluster 0).ltime)
  s6.setBoot { s6.plant.boot with status := 0 }

/-- A module reset. Without an accepted blob in flash it stops with boot status 1 (R388). -/
def execModuleReset (s : State) : Host.Outcome State Fault Refusal :=
  let t := s.cleared
  .next (match t.plant.boot.flash with
    | some x => if t.plant.boot.accepts x then t.bootOn x else t.setBoot { t.plant.boot with status := 1 }
    | none => t.setBoot { t.plant.boot with status := 1 })

/-- The bytes that the blob mailbox names, in host memory. -/
def State.mailboxBytes (s : State) : List Byte := Memory.readN s.mem (keyHost s.plant.boot.blobAddr.toNat) s.plant.boot.blobLen.toNat

/-- The boot ROM reads and verifies the blob that a store to 0x0108 has named, of which the event says what its bytes mean. A refused one
leaves status 2; an accepted one is being written to flash, at status 3, until the event comes again: then boot goes on (R388). -/
def execBlobMailbox (s : State) : Host.Outcome State Fault Refusal :=
  let b := s.plant.boot
  .next (match b.pending with
    | some x => (s.setBoot { b with flash := some x, pending := none }).bootOn x
    | none =>
      if b.status != 1 || !b.blobRead then s
      else match s.arg.blob with
        | none => s.setBoot { b with status := 2, blobRead := false }
        | some x =>
          if x.raw != s.mailboxBytes then s
          else if b.accepts x then s.setBoot { b with pending := some x, status := 3, blobRead := false }
          else s.setBoot { b with status := 2, blobRead := false })

/-- The mesh is powered: boot has gone past step 4. -/
def State.powered (s : State) : Bool := s.plant.boot.status = 0

/-! ### Attestation (R389) -/

/-- The private scalar of this module, derived from the response of its physically unclonable function (R389). -/
def identityScalar : Nat := scalarOf (hkdf384 Config.hkdfSalt Config.pufResponse Config.hkdfInfo 72)
/-- Q, its public key. -/
def identityKey : Nat × Nat := (ecG.mul identityScalar).affine

/-- The 160 bytes from 0x1040 that a report covers. -/
def State.reportBody (s : State) (count : Word) : List Byte :=
  let b := s.plant.boot
  sha384 (match b.used with | some x => x.raw | none => [])
    ++ toBytes 4 s.modId ++ toBytes 4 b.floor.toNat ++ toBytes 8 count.toNat ++ pairBytes identityKey

/-- The host has written 1 to the control word: the device signs a report over the nonce that it read then. -/
def execAttestationRequest (s : State) : Host.Outcome State Fault Refusal :=
  let b := s.plant.boot
  let n := b.reports + 1
  let body := s.reportBody n
  let nonce := (b.attNonce ++ List.replicate 48 0).take 48
  let sig := ecSign identityScalar (sha384 (nonce ++ body)) (Config.signNonce s.tick % (ecN - 1) + 1)
  .next (if b.attCtl != 1 then s else s.setBoot { b with attCtl := 2, reports := n, report := body ++ pairBytes sig })

/-! ### The BARs (R386, R387) -/

/-- BAR0 as it reads, from an offset on in the regions that have contents. -/
def State.bar0 (s : State) (o : Nat) : Byte :=
  let b := s.plant.boot
  let at_ (l : List Byte) (base : Nat) : Byte := l.getD (o - base) 0
  if o < 8 then at_ (toBytes 8 (b.status.toNat + b.version.toNat * 2 ^ 16)) 0
  else if 0x100 ≤ o && o < 0x110 then at_ (toBytes 8 b.blobAddr.toNat ++ toBytes 8 b.blobLen.toNat) 0x100
  else if 0x1000 ≤ o && o < 0x1030 then at_ b.nonce 0x1000
  else if 0x1030 ≤ o && o < 0x1038 then at_ (toBytes 8 b.attCtl.toNat) 0x1030
  else if 0x1040 ≤ o && o < 0x1140 then at_ b.report 0x1040
  else if 0x2000 ≤ o && o < 0x2020 then
    at_ (toBytes 8 b.inBase.toNat ++ toBytes 8 b.inLog.toNat ++ toBytes 8 b.inHead.toNat ++ toBytes 8 b.inTail.toNat) 0x2000
  else 0

/-- Bytes of a region from a base on, with a store at an offset in place. -/
def State.bar0Splice (s : State) (base n o : Nat) (bytes : List Byte) : List Byte :=
  (List.range n).map (fun i => if o ≤ base + i && base + i < o + bytes.length then bytes.getD (base + i - o) 0 else s.bar0 (base + i))

/-- A store of the host to BAR0: the mailboxes and the host's part of the inbound ring header. A store to 0x0108 starts the read of a blob
while the boot ROM waits for one, and one of 1 to 0x1030 a report over the nonce as it stands (R386, R388, R389). -/
def State.bar0Store (s : State) (o : Nat) (bytes : List Byte) : State :=
  let b := s.plant.boot
  let hits (x : Nat) : Bool := decide (o ≤ x) && decide (x < o + bytes.length)
  let read := hits 0x108 && (b.status == 1 || b.status == 2)
  let ctl := wordOf (s.bar0Splice 0x1030 8 o bytes)
  let nonce := s.bar0Splice 0x1000 48 o bytes
  let w (base i : Nat) : Word := wordOf ((s.bar0Splice base 32 o bytes).drop (8 * i))
  s.setBoot { b with
    blobAddr := wordOf ((s.bar0Splice 0x100 8 o bytes)), blobLen := (wordOf (s.bar0Splice 0x108 8 o bytes)).setWidth 32
    blobRead := b.blobRead || read, status := if read then 1 else b.status
    nonce := nonce, attCtl := ctl, attNonce := if hits 0x1030 && ctl == 1 then nonce else b.attNonce
    inBase := wordOf (s.bar0Splice 0x2000 8 o bytes), inLog := (w 0x2000 1).setWidth 4, inHead := wordOf (s.bar0Splice 0x2010 8 o bytes) }

/-- A host window: valid, for writes where asked, with the whole access (R387). -/
def windowHas (x : Word × Word) (write : Bool) (a n : Nat) : Bool :=
  let base := x.1.toNat / 2 ^ 16 % 2 ^ 22 * 65536
  x.1.getLsbD 0 && (!write || x.1.getLsbD 1) && decide (base ≤ a) && decide (a + n ≤ base + x.2.toNat % 2 ^ 32 * 65536)

/-- The parts of a host access by granule: key, offset, length. -/
def hostParts (a n : Nat) : List (Nat × Nat × Nat) := (splitRange (BitVec.ofNat 64 a) (n + 1) 0 n).map (fun p => (p.1.toNat, p.2.1, p.2.2))

/-- A part of a host read is performed at its home with floor 0 (R247). -/
def State.hostLoad (s : State) (key : Nat) : State :=
  let st := s.stamp (key / 64)
  let t := tmax 0 st.wts
  s.setStamp (key / 64) { st with rts := tmax st.rts t }

/-- An access unit of 32 bytes of a host write is performed at its home with floor 0 (R240, R247). -/
def State.hostStamp (s : State) (unit : Nat) : State :=
  let t := tmax 0 ((s.stamp (unit / 2)).rts + 1)
  s.setStamp (unit / 2) ⟨t, t⟩

/-- A part of a host write: TRUE for a whole granule; a partial one keeps its tag. -/
def State.hostStore (s : State) (key : Nat) (bytes : List Byte) : State :=
  let s1 := s.wrBytes false key bytes
  if bytes.length = 16 then s1.setTagH false key hTRUE else s1

/-- Whether a host access must wait for a release (R256). -/
def State.hostWaits (s : State) (write : Bool) (key : Nat) : Bool :=
  match s.gOf (key / 64) with
  | some g => write || tle g 0
  | none => write && ((s.tenureAt (key / 64)).isSome || (s.pageAbroad (key / 64)).isSome)

def State.setHostOut (s : State) (x : HostOut) : State := { s with plant := { s.plant with hostOut := x } }

/-- A host read of m bytes at a PA, or, with the flag, a write; with k = 1 of BAR0. Outside every window it is dropped, and a read
returns all ones with Unsupported Request. -/
def execHostAccess (s : State) : Host.Outcome State Fault Refusal :=
  let a := s.arg.word.toNat
  let n := if s.arg.flag then s.arg.bytes.length else s.arg.m
  .next (if s.arg.k = 1 then
      if s.arg.flag then (s.bar0Store a s.arg.bytes).setHostOut {} else s.setHostOut { bytes := (List.range n).map (fun i => s.bar0 (a + i)) }
    else if !s.powered || decide (2 ^ 38 < a + n) || !s.plant.hostwin.any (fun p => windowHas p.2 s.arg.flag a n) then
      s.setHostOut (if s.arg.flag then {} else { bytes := List.replicate n 0xFF, ur := true })
    else
      let ps := hostParts a n
      if ps.any (fun p => s.hostWaits s.arg.flag p.1) then s
      else if s.arg.flag then
        let t := (dedupNat (ps.map (fun p => p.1 / 32))).foldl (fun s u => s.hostStamp u) s
        (ps.foldl (fun s p => s.hostStore p.1 ((s.arg.bytes.drop p.2.1).take p.2.2)) t).setHostOut {}
      else
        (ps.foldl (fun s p => s.hostLoad p.1) s).setHostOut
          { bytes := ps.flatMap (fun p => s.rdBytes false p.1 p.2.2), poison := ps.any (fun p => s.tagLab false p.1 == none) })

/-- An AtomicOp of the host is completed with Unsupported Request (R384). -/
def execHostAtomicop (s : State) : Host.Outcome State Fault Refusal := .next (s.setHostOut { ur := true })

/-- The device reads HEAD of the inbound ring and takes the next entry: it is posted with the supervisor mark, or dropped and
counted in NAKTX of core 0 (R386). -/
def execHostInboundPoll (s : State) : Host.Outcome State Fault Refusal :=
  let b := s.plant.boot
  .next (if !s.powered || b.inBase = 0 || (b.inHead - b.inTail) = 0 || decide (2 ^ 63 ≤ (b.inHead - b.inTail).toNat) then s
    else
      let e := Memory.readN s.mem (keyHost (b.inBase.toNat + b.inTail.toNat % 2 ^ b.inLog.toNat * 512)) 512
      let t := wordOf (e.take 8)
      let len := ofBytes ((e.drop 8).take 2)
      let g := s.target 0 0 t
      let s1 := s.setBoot { b with inTail := b.inTail + 1 }
      if badTarget t || g.badAlias || decide (256 < len) || decide (g.chan.toNat < 56) then
        s1.setCore 0 { s1.core 0 with msgcnt := bump (s1.core 0).msgcnt 2 }
      else
        s1.post { s1.hwMsg g.core g.chan ((e.drop 32).take len) (s1.cluster (g.core / 8)).ltime with
          dmod := g.dmod, smod := g.dmod, sup := true, tslot := 0 })

end Sys2Proof.Machine
end

