-- ==== Sys2Proof/Machine/Clock.lean ====
section
/-! DEFINITION. Logical time (R244), power gating (R41), translations and shootdowns (R238, R239, R344), cache fills, the victim pool and
adaptive carve (R226, R227, R229). -/

namespace Sys2Proof.Machine

/-! ### LTIME and stamps (R244) -/

/-- Core cycles per automatic tick (R245). -/
def Cluster.tickCycles (k : Cluster) : Word := BitVec.ofNat 64 (k.ordcfg.toNat / 2 ^ 16 % 2 ^ 12)

/-- The LTIME of cluster n advances by one every TICK core cycles, while it is powered (R244, R245). -/
def execLtimeTick (s : State) : Host.Outcome State Fault Refusal :=
  let k := s.cluster s.arg.n
  .next (if k.gated || decide (s.clock - k.tickAt < k.tickCycles) then s
    else s.setCluster s.arg.n { k with ltime := k.ltime + 1, tickAt := k.tickAt + k.tickCycles })

/-- Whether a time lags another by more than a bound. -/
def lags (t m : Time) (bound : Nat) : Bool := tle t m && decide (bound < (m - t).toNat)

/-- Copies of core c whose lease ends lag the LTIME of their cluster are dropped. -/
def State.dropOld (s : State) (c : Nat) : State :=
  let k := s.core c
  let t := (s.cluster (c / 8)).ltime
  let old (x : Copy) : Bool := lags x.lease t (2 ^ 44)
  let out := (k.copies ++ k.victims).filter old
  if out = [] then s
  else out.foldl (fun s x => s.dropLabs (c / 8) x)
    (s.setCore c { k with copies := k.copies.filter (fun x => !old x), victims := k.victims.filter (fun x => !old x) })

/-- The broadcast of the greatest LTIME: laggards are raised, and copies that lapsed long ago dropped. -/
def execLtimeBroadcast (s : State) : Host.Outcome State Fault Refusal :=
  let m := s.maxLtime
  let s1 := (List.range Config.clusterCount).foldl (fun t k =>
    let x := t.cluster k
    if !x.gated && lags x.ltime m (2 ^ 40) then t.setCluster k { x with ltime := m - BitVec.ofNat 48 (2 ^ 40) } else t) s
  .next ((s1.cores.map (·.1)).foldl (fun t c => t.dropOld c) s1)

/-- A stamp that lags far behind is raised. -/
def raiseStamp (m t : Time) : Time := if lags t m (2 ^ 44) then m - BitVec.ofNat 48 (2 ^ 44) else t

def Stamp.raised (m : Time) (x : Stamp) : Stamp := ⟨raiseStamp m x.wts, raiseStamp m x.rts⟩

/-- The homes sweep their entries: the stamps of lines and of working versions, G and E of handles and G of pages, and the times of
counters and of retired label instructions. -/
def execStampSweep (s : State) : Host.Outcome State Fault Refusal :=
  let m := s.maxLtime
  let job (j : Job) : Job := { j with
    counters := j.counters.map (fun p => (p.1, { p.2 with time := raiseStamp m p.2.time })), labTime := j.labTime.map (raiseStamp m) }
  .next { s with
    stamps := s.stamps.map (fun p => (p.1, p.2.raised m)), stampBase := raiseStamp m s.stampBase
    wstamps := s.wstamps.map (fun p => (p.1, p.2.raised m))
    handles := s.handles.map (fun p => (p.1, if p.2.kind = 0 then p.2 else { p.2 with stamp := raiseStamp m p.2.stamp }))
    pages := s.pages.map (fun p => (p.1, { p.2 with stamp := raiseStamp m p.2.stamp }))
    jobs := s.jobs.map (fun p => (p.1, job p.2)) }

/-! ### Power gating (R41) -/

/-- A core holds nothing that keeps its cluster powered. -/
def Core.idle (k : Core) : Bool :=
  k.residents.isEmpty && k.queue.isEmpty && k.watches.isEmpty && k.chans.toList.all (fun ch => !ch.bound) && k.sendReq.isEmpty && k.sendRep.isEmpty
/-- The engines of a cluster have no work. -/
def Cluster.workless (k : Cluster) : Bool :=
  k.mxq.toList.all (fun q => q.active.isNone && q.shadow.isNone) && k.bte.toList.all (fun b => b.state != 1) && k.colls.isEmpty

/-- The engines of a cluster have no work, and its trace is drained. -/
def Cluster.idle (k : Cluster) : Bool := k.workless && k.dbg.buffer.isEmpty

/-- A forced gate drops the records not yet drained, and TRDROP counts them (R421). -/
def Debug.dropped (d : Debug) : Debug :=
  if d.buffer.isEmpty then d
  else { d with buffer := [], lost := d.lost + d.buffer.length, trdrop := BitVec.ofNat 64 (min 0xFFFFFFFF (d.trdrop.toNat + d.buffer.length)) }

/-- The GAP record that goes first when the cluster is powered again (R421). -/
def Debug.gapped (d : Debug) (time : Nat) : Debug :=
  if d.lost = 0 then d else { d with buffer := traceRec 7 0 time (BitVec.ofNat 64 d.lost) :: d.buffer, lost := 0 }

/-- The module gates cluster n, when no core and no engine of it has work and its trace is drained; with the argument's flag the
wait for the trace has reached its limit of 4,096 cycles and the gate is forced (R421). The moment is the schedule's (log 1). -/
def execClusterPowerGate (s : State) : Host.Outcome State Fault Refusal :=
  let k := s.cluster s.arg.n
  .next (if k.gated || !k.workless || !(s.arg.flag || k.dbg.buffer.isEmpty) || (coresOf s.arg.n).any (fun c => !(s.core c).idle) then s
    else s.setCluster s.arg.n { k with dbg := k.dbg.dropped, gated := true, gatedAt := s.clock })

/-- Cluster n is powered: its LTIME is raised, and its cores have not counted the time between. -/
def execClusterPowerUp (s : State) : Host.Outcome State Fault Refusal :=
  let n := s.arg.n
  let k := s.cluster n
  .next (if !k.gated then s
    else
      let d := s.clock - k.gatedAt
      (coresOf n).foldl (fun t c => t.setCore c { t.core c with gatedCycles := (t.core c).gatedCycles + d })
        (s.setCluster n { k with dbg := k.dbg.gapped (s.cycle (8 * n)).toNat, gated := false, ltime := tmax k.ltime s.maxLtime, tickAt := s.clock }))

/-! ### Translations (R238) -/

/-- A walk for an address of core n completes: its reads take their times, or wait for a release, and the cluster keeps the translation, in
place of its oldest when it is full (R238, R243, R256). -/
def execTranslationWalk (s : State) : Host.Outcome State Fault Refusal :=
  let c := s.arg.n
  let va := s.arg.word.toNat
  let root := (s.core c).ptroot
  let k := s.cluster (c / 8)
  .next (if !root.getLsbD 0 || decide (2 ^ 48 ≤ va) || (s.cached c va).isSome then s
    else match s.homeReads (c / 8) k.ltime (s.walkPieces c s.arg.word), s.walk (c / 8) ((root >>> 12).toNat % 2 ^ 39 * 4096) va 4 with
      | none, _ => s
      | some (t, _), none => t
      | some (t, _), some (e, sh) =>
        let x : TEntry := ⟨(s.core c).tslot.toNat, sizeCode sh, BitVec.ofNat 64 (va / 2 ^ sh), e⟩
        t.setCluster (c / 8) { k with tcache := (if 2048 ≤ k.tcache.length then k.tcache.drop 1 else k.tcache) ++ [x] })

/-! ### TLBI (R239, R344) -/

/-- Whether a shootdown names a translation: PG the page that holds an address, TN a slot, ALL every one. -/
def tlbiHits (sc : BitVec 2) (x : Word) (slot : Nat) (size : BitVec 2) (e : TEntry) : Bool :=
  let sh := Nat.max (sizeShift size) (sizeShift e.size)
  match sc with
  | 0 => e.tslot == slot && x.toNat / 2 ^ sh == e.page.toNat * 2 ^ sizeShift e.size / 2 ^ sh
  | 1 => e.tslot == slot
  | _ => true

def MustSave.hit (f : TEntry → Bool) (r : MustSave) : Bool := r.pages.any (fun p => p.toNat < 2 ^ 32 && f ⟨r.tslot, 0, p, 0⟩)

/-- Caches drop their entries, handles granted through them are stale, and ranges of must-save sets go (R239, R342). -/
def State.shoot (s : State) (f : TEntry → Bool) : State :=
  { s with
    clusters := s.clusters.map (fun p => (p.1, { p.2 with tcache := p.2.tcache.filter (fun e => !f e) }))
    handles := s.handles.map (fun p => (p.1, if p.2.kind != 0 && (p.2.blocks.take p.2.taken).any (fun b => b.pages.any f) then { p.2 with stale := true } else p.2))
    cores := s.cores.map (fun p => (p.1, { p.2 with mustSave := p.2.mustSave.filter (fun r => !r.hit f) })) }

/-- The walks of waiting acquisitions that met a page of the shootdown end, and the walker translates anew: no grant uses a
translation from before it (R239). -/
def State.rewalkHit (s : State) (f : TEntry → Bool) : State :=
  (s.handles.map (·.1)).foldl (fun s i =>
    let e := s.thandle i
    if e.kind = 0 && e.wait && e.blocks.any (fun b => b.pages.any f) then
      match s.acquirer i with
      | some (c, a, _, _, mode) => s.rewalk i c a mode
      | none => s
    else s) s

/-- A shootdown needs no address but under PG: POISON traps there alone (R138, R344). -/
def State.tlbiRes (s : State) (sc : BitVec 2) : Res State :=
  let a := s.act.rd s.ir.a
  let b := s.act.rd s.ir.b
  match s.supOnly with
  | .error e => .error e
  | .ok _ => match s.regs [.s s.ir.a.toNat, .s s.ir.b.toNat] with
    | .error e => .error e
    | .ok _ => match s.noPoison (if sc = 0 then [a] else []) with
      | .error e => .error e
      | .ok _ => match s.asMarker with
        | .error e => .error e
        | .ok _ =>
          let size : BitVec 2 := (b.val >>> 8).setWidth 2
          if (b.val &&& ~~~(0x33F : Word)) != 0 || size = 3 then trapped .bounds b.val
          else
            let slot := b.val.toNat % 64
            .error (.final (((s.shoot (tlbiHits sc a.val slot size)).rewalkHit (tlbiHits sc a.val slot size)).park (.tlbi sc a.val slot size) s.npc))

def execTlbiPg (s : State) : Host.Outcome State Fault Refusal := s.run (s.tlbiRes 0)
def execTlbiTn (s : State) : Host.Outcome State Fault Refusal := s.run (s.tlbiRes 1)
def execTlbiAll (s : State) : Host.Outcome State Fault Refusal := s.run (s.tlbiRes 2)

/-- The shootdown of core n, slot m completes once no stale handle keeps a translation that it names. -/
def execTlbiComplete (s : State) : Host.Outcome State Fault Refusal :=
  .next (match s.parkedAt s.arg.n s.arg.m with
    | some a => match a.park with
      | some (.tlbi sc x slot size) =>
        let f := tlbiHits sc x slot size
        if s.handles.any (fun p => p.2.stale && p.2.kind != 0 && (p.2.blocks.take p.2.taken).any (fun b => b.pages.any f)) then s
        else s.resume s.arg.n s.arg.m none none
      | _ => s
    | none => s)

/-! ### Cache fills and the victim pool (R226, R227) -/

/-- A copy leaves the cache portion of a core, private or victim, with its references: a member's private line goes into the pool. -/
def State.evict (s : State) (c line : Nat) : State :=
  let k := s.core c
  let t := (k.victims.filter (fun x => x.key == line)).foldl (fun s x => s.dropLabs (c / 8) x)
    (s.setCore c { k with copies := k.copies.filter (fun x => x.key != line), victims := k.victims.filter (fun x => x.key != line) })
  (k.copies.filter (fun x => x.key == line)).foldl (fun s x => s.toPool c x) t

/-- The tags of a line as handles of a cluster, each holding a reference: the LBE takes each label in as R127 says (R124, R126).
None when the table is full or a tag is another slot's: the line is then not copied. -/
def State.fillTags (s : State) (k slot line : Nat) : List Nat → Option (State × List Handle)
  | [] => some (s, [])
  | i :: l =>
    let key := 64 * line + 16 * i
    if s.foreignTag false key slot then none
    else match tintern cltSize (s.cluster k).clt slot (s.arrive slot (dieOf k) (s.tagLab false key)) with
      | none => none
      | some (t, h) =>
        let s1 := if fixedHandle h then s else s.setCluster k { s.cluster k with clt := tref t h }
        match s1.fillTags k slot line l with
        | none => none
        | some (u, hs) => some (u, h :: hs)

/-- A load has its line copied into the cache portion of its core: the 64 bytes, the full bit and the four tags, with the stamp
and the lease that its home has given (R226, R246, R247). The line of an address that translates to DRAM, to coherent host memory
or to another module's memory is one; the holder of a write tenure keeps no copy of its lines (R255). -/
def State.fill (s : State) (c va : Nat) : State :=
  match s.leaf c va with
  | none => s
  | some (e, sh) =>
    let key := leafKey s e sh va
    let line := key / 64
    let p : Piece := { addr := BitVec.ofNat 64 va, key := key, len := 1, off := 0, plain := pteTgt e == 2 }
    if 2 ^ 48 ≤ va || !p.copied || s.writes (c / 8) line || !tle (s.cluster (c / 8)).ltime (s.stamp line).rts then s
    else
      match s.fillTags (c / 8) (s.core c).tslot.toNat line (if isHost key then [] else [0, 1, 2, 3]) with
      | none => s
      | some (t, hs) =>
        let st := t.stamp line
        t.install c { key := line, bytes := t.rdBytes false (64 * line) 64, labs := hs, full := t.full false (64 * line), wts := st.wts, lease := st.rts }

/-- A fill for an address of core n; with k not 0 the copy of a line leaves core n. -/
def execCacheFill (s : State) : Host.Outcome State Fault Refusal :=
  .next (match s.arg.k with
    | 0 => s.fill s.arg.n s.arg.word.toNat
    | _ => s.evict s.arg.n s.arg.word.toNat)

/-! ### Adaptive carve (R229) -/

/-- CUR after an interval with these counts. -/
def carveNext (cur minc maxc lookups added tail : Nat) : Nat :=
  if lookups ≤ 64 * added && decide (cur < maxc) then cur + 1
  else if 256 * tail < lookups && decide (minc < cur) then cur - 1 else cur

/-- Core n has sampled an interval: m lookups, k hits that one more unit would add, tail hits in word, hits in data. -/
def execCarveSample (s : State) : Host.Outcome State Fault Refusal :=
  let c := s.arg.n
  let k := s.core c
  .next (match k.carveRun with
    | none => s
    | some (_, u, minc) =>
      let cur := k.carve.toNat / 2 ^ 16 % 64
      let next := carveNext cur minc.toNat (32 - u.toNat) s.arg.m s.arg.k s.arg.word.toNat
      let hit := if s.arg.m = 0 then 0 else Nat.min 255 (255 * s.arg.data.toNat / s.arg.m)
      s.setCore c { k with
        carve := (k.carve &&& ~~~ (0xFF3F0000 : Word)) ||| BitVec.ofNat 64 (next * 2 ^ 16 + hit * 2 ^ 24) })

end Sys2Proof.Machine
end

