-- ==== Sys2Proof/WellFormed.lean ====
section
/-! DEFINITION. What a well-formed instruction is: the constraints on field values that the encoding states beyond
the fixed bits and the width of a field (R66, R73, R76, R77, R152, R158, R182, R199, R317). -/

namespace Sys2Proof

/-- Elements of a vector register at element width code e (R34, R68). -/
def elemCount (e : BitVec 2) : Nat := 64 / 2 ^ e.toNat

/-- Selectors of SETC that have rows of their own (R37, R338). -/
def setcSpecial (c : Nat) : Bool :=
  decide (c ∈ [0x000, 0x018, 0x081, 0x019, 0x01A, 0x086, 0x083, 0x030, 0x005, 0x08B]) || (decide (0x0C0 ≤ c) && decide (c ≤ 0x13F))

/-- The literal of a shift by immediate has bits [63:6] zero (R152). -/
def shiftOk (o : Ops) : Bool :=
  match o.lit with
  | none => o.imm.toNat < 64
  | some v => v.toNat < 64

/-- The static rounding codes RND 0 to 5 of R158. -/
def rnd5 (o : Ops) : Bool := o.rnd.toNat ≤ 5

/-- GROW and SHRINK take ns/8 from 2 to 8 and nv/4 from 0 to 4 (R182). -/
def allotOk (o : Ops) : Bool := decide (2 ≤ o.d.toNat) && decide (o.d.toNat ≤ 8) && decide (o.a.toNat ≤ 4)

/-- An element index below the element count (R73). -/
def idxOk (o : Ops) : Bool := o.imm.toNat < elemCount o.ew

/-- The field values that the encoding allows to an operation (R66, R73). -/
def Instr.wf (i : Instr) (o : Ops) : Bool :=
  match i with
  | .shli => shiftOk o
  | .shri => shiftOk o
  | .srai => shiftOk o
  | .vext => idxOk o
  | .vins => idxOk o
  | .grow => allotOk o
  | .shrink => allotOk o
  | .fcvt => o.x.toNat < 8 && o.x != o.y.setWidth 4 && !(4 ≤ o.x.toNat && 4 ≤ o.y.toNat) && o.rnd.toNat ≤ 6 && (o.rnd.toNat != 6 || o.y == 2 || o.y == 3)
  | .vcvt => o.x.toNat < 8 && o.x != o.y.setWidth 4
  | .vcmp => o.md.toNat ≤ 9
  | .setc => !setcSpecial o.imm.toNat
  | .ld => o.md.toNat != 4 || (o.d.toNat % 2 == 0 && o.d != 0)
  | .st => o.md.toNat ≤ 4 && (o.md.toNat != 4 || o.d.toNat % 2 == 0)
  | .acas2 => o.d.toNat % 2 == 0 && o.d != 0 && o.b.toNat % 2 == 0
  | .sendx => o.md.toNat ≤ 4 && (1 ≤ o.md.toNat || o.a == 0) && (2 ≤ o.md.toNat || o.b == 0) && (3 ≤ o.md.toNat || o.c == 0) && (4 ≤ o.md.toNat || o.e == 0)
  | .vfcvtnN => o.rnd.toNat ≤ 6 && o.a.toNat % 2 == 0
  | .vfcvtnF => o.rnd.toNat ≤ 6 && o.d.toNat % 2 == 0
  | .faddX => rnd5 o
  | .fsubX => rnd5 o
  | .fmulX => rnd5 o
  | .fdivX => rnd5 o
  | .fsqrtX => rnd5 o
  | .fmaX => rnd5 o
  | .fmsX => rnd5 o
  | .fnmaX => rnd5 o
  | .fnmsX => rnd5 o
  | _ => true

end Sys2Proof
end

