-- ==== Sys2Proof/Decode.lean ====
section
/-! DEFINITION. Decoding words into instructions, total and rejecting by name, and the encoder beside it
(R63 to R86). The table of rows gives, for each operation, its fixed bits and the places of its fields; the word of
bits runs from bit 0 of the first word, with word 1 of an extended form at [63:32] and word 2 at [95:64]. A rejected
encoding is not an instruction: the machine raises ILLEGAL on it (R66). -/

namespace Sys2Proof

/-- Why words are not an instruction (R66). -/
inductive Reject where
  /-- no assigned encoding: an unassigned MAJ, XMAJ, FN, XFN, SZ, SEL or MOD value, or a reserved field that is not zero (R66, R69, R71, R72, R77) -/
  | unassigned
  /-- a literal form where none is defined, or one whose replaced field is not zero (R70, R76) -/
  | literal
  /-- a field value outside the range stated for it (R73, R76) -/
  | range
  /-- fewer or more words than LEN states (R63) -/
  | length
  deriving DecidableEq, Repr

/-- The operand fields by name. -/
inductive FName where
  | sw | d | a | b | c | e | k | ew | t | rnd | x | y | md | imm
  deriving DecidableEq, Repr

/-- A field of an encoding: bits [lo+n-1:lo] go into the named operand. -/
structure Field where
  f : FName
  lo : Nat
  n : Nat
  deriving DecidableEq, Repr

/-- Which literal form a row has: none, format A's B (R70), format I's immediate (R70), or IMM32 of an extended form (R76). -/
inductive LitForm where
  | none | b | imm | ext
  deriving DecidableEq, Repr

/-- One row of the encoding tables: bits under mask equal those of pat (LEN left out). -/
structure Row where
  op : Instr
  pat : BitVec 96
  mask : BitVec 96
  fields : List Field
  lit : LitForm
  deriving DecidableEq, Repr

/-- The value of an operand field. -/
def Ops.get (o : Ops) : FName → Nat
  | .sw => o.sw.toNat
  | .d => o.d.toNat
  | .a => o.a.toNat
  | .b => o.b.toNat
  | .c => o.c.toNat
  | .e => o.e.toNat
  | .k => o.k.toNat
  | .ew => o.ew.toNat
  | .t => o.t.toNat
  | .rnd => o.rnd.toNat
  | .x => o.x.toNat
  | .y => o.y.toNat
  | .md => o.md.toNat
  | .imm => o.imm.toNat

/-- Sets an operand field. -/
def Ops.put (o : Ops) (f : FName) (v : Nat) : Ops :=
  match f with
  | .sw => { o with sw := decide (v ≠ 0) }
  | .d => { o with d := BitVec.ofNat 6 v }
  | .a => { o with a := BitVec.ofNat 6 v }
  | .b => { o with b := BitVec.ofNat 6 v }
  | .c => { o with c := BitVec.ofNat 6 v }
  | .e => { o with e := BitVec.ofNat 6 v }
  | .k => { o with k := BitVec.ofNat 3 v }
  | .ew => { o with ew := BitVec.ofNat 2 v }
  | .t => { o with t := BitVec.ofNat 2 v }
  | .rnd => { o with rnd := BitVec.ofNat 4 v }
  | .x => { o with x := BitVec.ofNat 4 v }
  | .y => { o with y := BitVec.ofNat 3 v }
  | .md => { o with md := BitVec.ofNat 12 v }
  | .imm => { o with imm := BitVec.ofNat 32 v }

/-- SETC of the selectors with rows of their own (R184, R338). -/
def rowsSetc : List Row := [
  ⟨.setcFlags, 0x13800000, 0x1fff03ff, [⟨.sw, 29, 1⟩, ⟨.a, 10, 6⟩], .none⟩,
  ⟨.setcLsplit, 0x13800018, 0x1fff03ff, [⟨.sw, 29, 1⟩, ⟨.a, 10, 6⟩], .none⟩,
  ⟨.setcAccmap, 0x13800081, 0x1fff03ff, [⟨.sw, 29, 1⟩, ⟨.a, 10, 6⟩], .none⟩,
  ⟨.setcVpool, 0x13800019, 0x1fff03ff, [⟨.sw, 29, 1⟩, ⟨.a, 10, 6⟩], .none⟩,
  ⟨.setcCarve, 0x1380001a, 0x1fff03ff, [⟨.sw, 29, 1⟩, ⟨.a, 10, 6⟩], .none⟩,
  ⟨.setcOrdcfg, 0x13800086, 0x1fff03ff, [⟨.sw, 29, 1⟩, ⟨.a, 10, 6⟩], .none⟩,
  ⟨.setcMxwt, 0x13800083, 0x1fff03ff, [⟨.sw, 29, 1⟩, ⟨.a, 10, 6⟩], .none⟩,
  ⟨.setcMsquota, 0x13800030, 0x1fff03ff, [⟨.sw, 29, 1⟩, ⟨.a, 10, 6⟩], .none⟩,
  ⟨.setcPix, 0x13800005, 0x1fff03ff, [⟨.sw, 29, 1⟩, ⟨.a, 10, 6⟩], .none⟩,
  ⟨.xdefrDrop, 0x1380008b, 0x1fff03ff, [⟨.sw, 29, 1⟩, ⟨.a, 10, 6⟩], .none⟩,
  ⟨.xregWrite, 0x138000c0, 0x1fff03c0, [⟨.sw, 29, 1⟩, ⟨.a, 10, 6⟩, ⟨.imm, 0, 6⟩], .none⟩,
  ⟨.xlabWrite, 0x13800100, 0x1fff03c0, [⟨.sw, 29, 1⟩, ⟨.a, 10, 6⟩, ⟨.imm, 0, 6⟩], .none⟩]

/-- MAJ 0x01 (R147). -/
def rowsAlu1 : List Row := [
  ⟨.add, 0x400000, 0x1fc0000f, [⟨.sw, 29, 1⟩, ⟨.d, 16, 6⟩, ⟨.a, 10, 6⟩, ⟨.b, 4, 6⟩], .b⟩,
  ⟨.sub, 0x400001, 0x1fc0000f, [⟨.sw, 29, 1⟩, ⟨.d, 16, 6⟩, ⟨.a, 10, 6⟩, ⟨.b, 4, 6⟩], .b⟩,
  ⟨.and, 0x400002, 0x1fc0000f, [⟨.sw, 29, 1⟩, ⟨.d, 16, 6⟩, ⟨.a, 10, 6⟩, ⟨.b, 4, 6⟩], .b⟩,
  ⟨.or, 0x400003, 0x1fc0000f, [⟨.sw, 29, 1⟩, ⟨.d, 16, 6⟩, ⟨.a, 10, 6⟩, ⟨.b, 4, 6⟩], .b⟩,
  ⟨.xor, 0x400004, 0x1fc0000f, [⟨.sw, 29, 1⟩, ⟨.d, 16, 6⟩, ⟨.a, 10, 6⟩, ⟨.b, 4, 6⟩], .b⟩,
  ⟨.andn, 0x400005, 0x1fc0000f, [⟨.sw, 29, 1⟩, ⟨.d, 16, 6⟩, ⟨.a, 10, 6⟩, ⟨.b, 4, 6⟩], .b⟩,
  ⟨.shl, 0x400006, 0x1fc0000f, [⟨.sw, 29, 1⟩, ⟨.d, 16, 6⟩, ⟨.a, 10, 6⟩, ⟨.b, 4, 6⟩], .b⟩,
  ⟨.shr, 0x400007, 0x1fc0000f, [⟨.sw, 29, 1⟩, ⟨.d, 16, 6⟩, ⟨.a, 10, 6⟩, ⟨.b, 4, 6⟩], .b⟩,
  ⟨.sra, 0x400008, 0x1fc0000f, [⟨.sw, 29, 1⟩, ⟨.d, 16, 6⟩, ⟨.a, 10, 6⟩, ⟨.b, 4, 6⟩], .b⟩,
  ⟨.rot, 0x400009, 0x1fc0000f, [⟨.sw, 29, 1⟩, ⟨.d, 16, 6⟩, ⟨.a, 10, 6⟩, ⟨.b, 4, 6⟩], .b⟩,
  ⟨.min, 0x40000a, 0x1fc0000f, [⟨.sw, 29, 1⟩, ⟨.d, 16, 6⟩, ⟨.a, 10, 6⟩, ⟨.b, 4, 6⟩], .b⟩,
  ⟨.max, 0x40000b, 0x1fc0000f, [⟨.sw, 29, 1⟩, ⟨.d, 16, 6⟩, ⟨.a, 10, 6⟩, ⟨.b, 4, 6⟩], .b⟩,
  ⟨.minu, 0x40000c, 0x1fc0000f, [⟨.sw, 29, 1⟩, ⟨.d, 16, 6⟩, ⟨.a, 10, 6⟩, ⟨.b, 4, 6⟩], .b⟩,
  ⟨.maxu, 0x40000d, 0x1fc0000f, [⟨.sw, 29, 1⟩, ⟨.d, 16, 6⟩, ⟨.a, 10, 6⟩, ⟨.b, 4, 6⟩], .b⟩,
  ⟨.slt, 0x40000e, 0x1fc0000f, [⟨.sw, 29, 1⟩, ⟨.d, 16, 6⟩, ⟨.a, 10, 6⟩, ⟨.b, 4, 6⟩], .b⟩,
  ⟨.sltu, 0x40000f, 0x1fc0000f, [⟨.sw, 29, 1⟩, ⟨.d, 16, 6⟩, ⟨.a, 10, 6⟩, ⟨.b, 4, 6⟩], .b⟩]

/-- MAJ 0x02 (R148). -/
def rowsAlu2 : List Row := [
  ⟨.mul, 0x800000, 0x1fc0000f, [⟨.sw, 29, 1⟩, ⟨.d, 16, 6⟩, ⟨.a, 10, 6⟩, ⟨.b, 4, 6⟩], .b⟩,
  ⟨.mulh, 0x800001, 0x1fc0000f, [⟨.sw, 29, 1⟩, ⟨.d, 16, 6⟩, ⟨.a, 10, 6⟩, ⟨.b, 4, 6⟩], .b⟩,
  ⟨.mulhu, 0x800002, 0x1fc0000f, [⟨.sw, 29, 1⟩, ⟨.d, 16, 6⟩, ⟨.a, 10, 6⟩, ⟨.b, 4, 6⟩], .b⟩,
  ⟨.div, 0x800003, 0x1fc0000f, [⟨.sw, 29, 1⟩, ⟨.d, 16, 6⟩, ⟨.a, 10, 6⟩, ⟨.b, 4, 6⟩], .b⟩,
  ⟨.divu, 0x800004, 0x1fc0000f, [⟨.sw, 29, 1⟩, ⟨.d, 16, 6⟩, ⟨.a, 10, 6⟩, ⟨.b, 4, 6⟩], .b⟩,
  ⟨.rem, 0x800005, 0x1fc0000f, [⟨.sw, 29, 1⟩, ⟨.d, 16, 6⟩, ⟨.a, 10, 6⟩, ⟨.b, 4, 6⟩], .b⟩,
  ⟨.remu, 0x800006, 0x1fc0000f, [⟨.sw, 29, 1⟩, ⟨.d, 16, 6⟩, ⟨.a, 10, 6⟩, ⟨.b, 4, 6⟩], .b⟩,
  ⟨.seq, 0x800007, 0x1fc0000f, [⟨.sw, 29, 1⟩, ⟨.d, 16, 6⟩, ⟨.a, 10, 6⟩, ⟨.b, 4, 6⟩], .b⟩,
  ⟨.csel, 0x800008, 0x1fc0000f, [⟨.sw, 29, 1⟩, ⟨.d, 16, 6⟩, ⟨.a, 10, 6⟩, ⟨.b, 4, 6⟩], .b⟩,
  ⟨.clz, 0x800009, 0x1fc003ff, [⟨.sw, 29, 1⟩, ⟨.d, 16, 6⟩, ⟨.a, 10, 6⟩], .none⟩,
  ⟨.ctz, 0x80000a, 0x1fc003ff, [⟨.sw, 29, 1⟩, ⟨.d, 16, 6⟩, ⟨.a, 10, 6⟩], .none⟩,
  ⟨.popc, 0x80000b, 0x1fc003ff, [⟨.sw, 29, 1⟩, ⟨.d, 16, 6⟩, ⟨.a, 10, 6⟩], .none⟩,
  ⟨.brev, 0x80000c, 0x1fc003ff, [⟨.sw, 29, 1⟩, ⟨.d, 16, 6⟩, ⟨.a, 10, 6⟩], .none⟩,
  ⟨.bswap, 0x80000d, 0x1fc003ff, [⟨.sw, 29, 1⟩, ⟨.d, 16, 6⟩, ⟨.a, 10, 6⟩], .none⟩,
  ⟨.sext, 0x80000e, 0x1fc0000f, [⟨.sw, 29, 1⟩, ⟨.d, 16, 6⟩, ⟨.a, 10, 6⟩, ⟨.b, 4, 6⟩], .b⟩,
  ⟨.zext, 0x80000f, 0x1fc0000f, [⟨.sw, 29, 1⟩, ⟨.d, 16, 6⟩, ⟨.a, 10, 6⟩, ⟨.b, 4, 6⟩], .b⟩]

/-- MAJ 0x03 (R150). -/
def rowsAlu1W : List Row := [
  ⟨.addW, 0xc00000, 0x1fc0000f, [⟨.sw, 29, 1⟩, ⟨.d, 16, 6⟩, ⟨.a, 10, 6⟩, ⟨.b, 4, 6⟩], .b⟩,
  ⟨.subW, 0xc00001, 0x1fc0000f, [⟨.sw, 29, 1⟩, ⟨.d, 16, 6⟩, ⟨.a, 10, 6⟩, ⟨.b, 4, 6⟩], .b⟩,
  ⟨.andW, 0xc00002, 0x1fc0000f, [⟨.sw, 29, 1⟩, ⟨.d, 16, 6⟩, ⟨.a, 10, 6⟩, ⟨.b, 4, 6⟩], .b⟩,
  ⟨.orW, 0xc00003, 0x1fc0000f, [⟨.sw, 29, 1⟩, ⟨.d, 16, 6⟩, ⟨.a, 10, 6⟩, ⟨.b, 4, 6⟩], .b⟩,
  ⟨.xorW, 0xc00004, 0x1fc0000f, [⟨.sw, 29, 1⟩, ⟨.d, 16, 6⟩, ⟨.a, 10, 6⟩, ⟨.b, 4, 6⟩], .b⟩,
  ⟨.andnW, 0xc00005, 0x1fc0000f, [⟨.sw, 29, 1⟩, ⟨.d, 16, 6⟩, ⟨.a, 10, 6⟩, ⟨.b, 4, 6⟩], .b⟩,
  ⟨.shlW, 0xc00006, 0x1fc0000f, [⟨.sw, 29, 1⟩, ⟨.d, 16, 6⟩, ⟨.a, 10, 6⟩, ⟨.b, 4, 6⟩], .b⟩,
  ⟨.shrW, 0xc00007, 0x1fc0000f, [⟨.sw, 29, 1⟩, ⟨.d, 16, 6⟩, ⟨.a, 10, 6⟩, ⟨.b, 4, 6⟩], .b⟩,
  ⟨.sraW, 0xc00008, 0x1fc0000f, [⟨.sw, 29, 1⟩, ⟨.d, 16, 6⟩, ⟨.a, 10, 6⟩, ⟨.b, 4, 6⟩], .b⟩,
  ⟨.rotW, 0xc00009, 0x1fc0000f, [⟨.sw, 29, 1⟩, ⟨.d, 16, 6⟩, ⟨.a, 10, 6⟩, ⟨.b, 4, 6⟩], .b⟩,
  ⟨.minW, 0xc0000a, 0x1fc0000f, [⟨.sw, 29, 1⟩, ⟨.d, 16, 6⟩, ⟨.a, 10, 6⟩, ⟨.b, 4, 6⟩], .b⟩,
  ⟨.maxW, 0xc0000b, 0x1fc0000f, [⟨.sw, 29, 1⟩, ⟨.d, 16, 6⟩, ⟨.a, 10, 6⟩, ⟨.b, 4, 6⟩], .b⟩,
  ⟨.minuW, 0xc0000c, 0x1fc0000f, [⟨.sw, 29, 1⟩, ⟨.d, 16, 6⟩, ⟨.a, 10, 6⟩, ⟨.b, 4, 6⟩], .b⟩,
  ⟨.maxuW, 0xc0000d, 0x1fc0000f, [⟨.sw, 29, 1⟩, ⟨.d, 16, 6⟩, ⟨.a, 10, 6⟩, ⟨.b, 4, 6⟩], .b⟩,
  ⟨.sltW, 0xc0000e, 0x1fc0000f, [⟨.sw, 29, 1⟩, ⟨.d, 16, 6⟩, ⟨.a, 10, 6⟩, ⟨.b, 4, 6⟩], .b⟩,
  ⟨.sltuW, 0xc0000f, 0x1fc0000f, [⟨.sw, 29, 1⟩, ⟨.d, 16, 6⟩, ⟨.a, 10, 6⟩, ⟨.b, 4, 6⟩], .b⟩]

/-- MAJ 0x04 (R150). -/
def rowsAlu2W : List Row := [
  ⟨.mulW, 0x1000000, 0x1fc0000f, [⟨.sw, 29, 1⟩, ⟨.d, 16, 6⟩, ⟨.a, 10, 6⟩, ⟨.b, 4, 6⟩], .b⟩,
  ⟨.mulhW, 0x1000001, 0x1fc0000f, [⟨.sw, 29, 1⟩, ⟨.d, 16, 6⟩, ⟨.a, 10, 6⟩, ⟨.b, 4, 6⟩], .b⟩,
  ⟨.mulhuW, 0x1000002, 0x1fc0000f, [⟨.sw, 29, 1⟩, ⟨.d, 16, 6⟩, ⟨.a, 10, 6⟩, ⟨.b, 4, 6⟩], .b⟩,
  ⟨.divW, 0x1000003, 0x1fc0000f, [⟨.sw, 29, 1⟩, ⟨.d, 16, 6⟩, ⟨.a, 10, 6⟩, ⟨.b, 4, 6⟩], .b⟩,
  ⟨.divuW, 0x1000004, 0x1fc0000f, [⟨.sw, 29, 1⟩, ⟨.d, 16, 6⟩, ⟨.a, 10, 6⟩, ⟨.b, 4, 6⟩], .b⟩,
  ⟨.remW, 0x1000005, 0x1fc0000f, [⟨.sw, 29, 1⟩, ⟨.d, 16, 6⟩, ⟨.a, 10, 6⟩, ⟨.b, 4, 6⟩], .b⟩,
  ⟨.remuW, 0x1000006, 0x1fc0000f, [⟨.sw, 29, 1⟩, ⟨.d, 16, 6⟩, ⟨.a, 10, 6⟩, ⟨.b, 4, 6⟩], .b⟩,
  ⟨.seqW, 0x1000007, 0x1fc0000f, [⟨.sw, 29, 1⟩, ⟨.d, 16, 6⟩, ⟨.a, 10, 6⟩, ⟨.b, 4, 6⟩], .b⟩,
  ⟨.cselW, 0x1000008, 0x1fc0000f, [⟨.sw, 29, 1⟩, ⟨.d, 16, 6⟩, ⟨.a, 10, 6⟩, ⟨.b, 4, 6⟩], .b⟩,
  ⟨.clzW, 0x1000009, 0x1fc003ff, [⟨.sw, 29, 1⟩, ⟨.d, 16, 6⟩, ⟨.a, 10, 6⟩], .none⟩,
  ⟨.ctzW, 0x100000a, 0x1fc003ff, [⟨.sw, 29, 1⟩, ⟨.d, 16, 6⟩, ⟨.a, 10, 6⟩], .none⟩,
  ⟨.popcW, 0x100000b, 0x1fc003ff, [⟨.sw, 29, 1⟩, ⟨.d, 16, 6⟩, ⟨.a, 10, 6⟩], .none⟩,
  ⟨.brevW, 0x100000c, 0x1fc003ff, [⟨.sw, 29, 1⟩, ⟨.d, 16, 6⟩, ⟨.a, 10, 6⟩], .none⟩,
  ⟨.bswapW, 0x100000d, 0x1fc003ff, [⟨.sw, 29, 1⟩, ⟨.d, 16, 6⟩, ⟨.a, 10, 6⟩], .none⟩,
  ⟨.sextW, 0x100000e, 0x1fc0000f, [⟨.sw, 29, 1⟩, ⟨.d, 16, 6⟩, ⟨.a, 10, 6⟩, ⟨.b, 4, 6⟩], .b⟩,
  ⟨.zextW, 0x100000f, 0x1fc0000f, [⟨.sw, 29, 1⟩, ⟨.d, 16, 6⟩, ⟨.a, 10, 6⟩, ⟨.b, 4, 6⟩], .b⟩]

/-- MAJ 0x05 and format I (R151, R152). -/
def rowsImm : List Row := [
  ⟨.bfx, 0x1400000, 0x1fc0000f, [⟨.sw, 29, 1⟩, ⟨.d, 16, 6⟩, ⟨.a, 10, 6⟩, ⟨.b, 4, 6⟩], .b⟩,
  ⟨.bfi, 0x1400001, 0x1fc0000f, [⟨.sw, 29, 1⟩, ⟨.d, 16, 6⟩, ⟨.a, 10, 6⟩, ⟨.b, 4, 6⟩], .b⟩,
  ⟨.lea, 0x1400004, 0x1fc0000c, [⟨.sw, 29, 1⟩, ⟨.d, 16, 6⟩, ⟨.a, 10, 6⟩, ⟨.b, 4, 6⟩, ⟨.t, 0, 2⟩], .b⟩,
  ⟨.addi, 0x2000000, 0x1fc00000, [⟨.sw, 29, 1⟩, ⟨.d, 16, 6⟩, ⟨.a, 10, 6⟩, ⟨.imm, 0, 10⟩], .imm⟩,
  ⟨.andi, 0x2400000, 0x1fc00000, [⟨.sw, 29, 1⟩, ⟨.d, 16, 6⟩, ⟨.a, 10, 6⟩, ⟨.imm, 0, 10⟩], .imm⟩,
  ⟨.ori, 0x2800000, 0x1fc00000, [⟨.sw, 29, 1⟩, ⟨.d, 16, 6⟩, ⟨.a, 10, 6⟩, ⟨.imm, 0, 10⟩], .imm⟩,
  ⟨.xori, 0x2c00000, 0x1fc00000, [⟨.sw, 29, 1⟩, ⟨.d, 16, 6⟩, ⟨.a, 10, 6⟩, ⟨.imm, 0, 10⟩], .imm⟩,
  ⟨.shli, 0x3000000, 0x1fc00000, [⟨.sw, 29, 1⟩, ⟨.d, 16, 6⟩, ⟨.a, 10, 6⟩, ⟨.imm, 0, 10⟩], .imm⟩,
  ⟨.shri, 0x3400000, 0x1fc00000, [⟨.sw, 29, 1⟩, ⟨.d, 16, 6⟩, ⟨.a, 10, 6⟩, ⟨.imm, 0, 10⟩], .imm⟩,
  ⟨.srai, 0x3800000, 0x1fc00000, [⟨.sw, 29, 1⟩, ⟨.d, 16, 6⟩, ⟨.a, 10, 6⟩, ⟨.imm, 0, 10⟩], .imm⟩,
  ⟨.slti, 0x3c00000, 0x1fc00000, [⟨.sw, 29, 1⟩, ⟨.d, 16, 6⟩, ⟨.a, 10, 6⟩, ⟨.imm, 0, 10⟩], .imm⟩,
  ⟨.sltiu, 0x4000000, 0x1fc00000, [⟨.sw, 29, 1⟩, ⟨.d, 16, 6⟩, ⟨.a, 10, 6⟩, ⟨.imm, 0, 10⟩], .imm⟩,
  ⟨.li, 0x4400000, 0x1fc0fc00, [⟨.sw, 29, 1⟩, ⟨.d, 16, 6⟩, ⟨.imm, 0, 10⟩], .imm⟩]

/-- Scalar floating point (R153, R157, R159). -/
def rowsFp : List Row := [
  ⟨.fadd, 0x6000000, 0x1f00000f, [⟨.sw, 29, 1⟩, ⟨.t, 22, 2⟩, ⟨.d, 16, 6⟩, ⟨.a, 10, 6⟩, ⟨.b, 4, 6⟩], .b⟩,
  ⟨.fsub, 0x6000001, 0x1f00000f, [⟨.sw, 29, 1⟩, ⟨.t, 22, 2⟩, ⟨.d, 16, 6⟩, ⟨.a, 10, 6⟩, ⟨.b, 4, 6⟩], .b⟩,
  ⟨.fmul, 0x6000002, 0x1f00000f, [⟨.sw, 29, 1⟩, ⟨.t, 22, 2⟩, ⟨.d, 16, 6⟩, ⟨.a, 10, 6⟩, ⟨.b, 4, 6⟩], .b⟩,
  ⟨.fdiv, 0x6000003, 0x1f00000f, [⟨.sw, 29, 1⟩, ⟨.t, 22, 2⟩, ⟨.d, 16, 6⟩, ⟨.a, 10, 6⟩, ⟨.b, 4, 6⟩], .b⟩,
  ⟨.fsqrt, 0x6000004, 0x1f0003ff, [⟨.sw, 29, 1⟩, ⟨.t, 22, 2⟩, ⟨.d, 16, 6⟩, ⟨.a, 10, 6⟩], .none⟩,
  ⟨.fmin, 0x6000005, 0x1f00000f, [⟨.sw, 29, 1⟩, ⟨.t, 22, 2⟩, ⟨.d, 16, 6⟩, ⟨.a, 10, 6⟩, ⟨.b, 4, 6⟩], .b⟩,
  ⟨.fmax, 0x6000006, 0x1f00000f, [⟨.sw, 29, 1⟩, ⟨.t, 22, 2⟩, ⟨.d, 16, 6⟩, ⟨.a, 10, 6⟩, ⟨.b, 4, 6⟩], .b⟩,
  ⟨.fsgnj, 0x6000007, 0x1f00000f, [⟨.sw, 29, 1⟩, ⟨.t, 22, 2⟩, ⟨.d, 16, 6⟩, ⟨.a, 10, 6⟩, ⟨.b, 4, 6⟩], .b⟩,
  ⟨.fsgnjn, 0x6000008, 0x1f00000f, [⟨.sw, 29, 1⟩, ⟨.t, 22, 2⟩, ⟨.d, 16, 6⟩, ⟨.a, 10, 6⟩, ⟨.b, 4, 6⟩], .b⟩,
  ⟨.fsgnjx, 0x6000009, 0x1f00000f, [⟨.sw, 29, 1⟩, ⟨.t, 22, 2⟩, ⟨.d, 16, 6⟩, ⟨.a, 10, 6⟩, ⟨.b, 4, 6⟩], .b⟩,
  ⟨.fclass, 0x600000a, 0x1f0003ff, [⟨.sw, 29, 1⟩, ⟨.t, 22, 2⟩, ⟨.d, 16, 6⟩, ⟨.a, 10, 6⟩], .none⟩,
  ⟨.frece, 0x600000b, 0x1f0003ff, [⟨.sw, 29, 1⟩, ⟨.t, 22, 2⟩, ⟨.d, 16, 6⟩, ⟨.a, 10, 6⟩], .none⟩,
  ⟨.frsqe, 0x600000c, 0x1f0003ff, [⟨.sw, 29, 1⟩, ⟨.t, 22, 2⟩, ⟨.d, 16, 6⟩, ⟨.a, 10, 6⟩], .none⟩,
  ⟨.fcmpeq, 0x600000d, 0x1f00000f, [⟨.sw, 29, 1⟩, ⟨.t, 22, 2⟩, ⟨.d, 16, 6⟩, ⟨.a, 10, 6⟩, ⟨.b, 4, 6⟩], .b⟩,
  ⟨.fcmplt, 0x600000e, 0x1f00000f, [⟨.sw, 29, 1⟩, ⟨.t, 22, 2⟩, ⟨.d, 16, 6⟩, ⟨.a, 10, 6⟩, ⟨.b, 4, 6⟩], .b⟩,
  ⟨.fcmple, 0x600000f, 0x1f00000f, [⟨.sw, 29, 1⟩, ⟨.t, 22, 2⟩, ⟨.d, 16, 6⟩, ⟨.a, 10, 6⟩, ⟨.b, 4, 6⟩], .b⟩,
  ⟨.fma, 0x7000000, 0x1fc00003, [⟨.sw, 29, 1⟩, ⟨.d, 16, 6⟩, ⟨.a, 10, 6⟩, ⟨.b, 4, 6⟩, ⟨.t, 2, 2⟩], .b⟩,
  ⟨.fms, 0x7000001, 0x1fc00003, [⟨.sw, 29, 1⟩, ⟨.d, 16, 6⟩, ⟨.a, 10, 6⟩, ⟨.b, 4, 6⟩, ⟨.t, 2, 2⟩], .b⟩,
  ⟨.fnma, 0x7000002, 0x1fc00003, [⟨.sw, 29, 1⟩, ⟨.d, 16, 6⟩, ⟨.a, 10, 6⟩, ⟨.b, 4, 6⟩, ⟨.t, 2, 2⟩], .b⟩,
  ⟨.fnms, 0x7000003, 0x1fc00003, [⟨.sw, 29, 1⟩, ⟨.d, 16, 6⟩, ⟨.a, 10, 6⟩, ⟨.b, 4, 6⟩, ⟨.t, 2, 2⟩], .b⟩,
  ⟨.fcvt, 0x7400000, 0x1fc00000, [⟨.sw, 29, 1⟩, ⟨.d, 16, 6⟩, ⟨.a, 10, 6⟩, ⟨.x, 7, 3⟩, ⟨.y, 4, 3⟩, ⟨.rnd, 0, 4⟩], .none⟩]

/-- VINT (R163). -/
def rowsVint : List Row := [
  ⟨.vadd, 0x8000000, 0x1fc0001f, [⟨.sw, 29, 1⟩, ⟨.d, 18, 4⟩, ⟨.a, 14, 4⟩, ⟨.b, 10, 4⟩, ⟨.k, 7, 3⟩, ⟨.ew, 5, 2⟩], .none⟩,
  ⟨.vsub, 0x8000001, 0x1fc0001f, [⟨.sw, 29, 1⟩, ⟨.d, 18, 4⟩, ⟨.a, 14, 4⟩, ⟨.b, 10, 4⟩, ⟨.k, 7, 3⟩, ⟨.ew, 5, 2⟩], .none⟩,
  ⟨.vmul, 0x8000002, 0x1fc0001f, [⟨.sw, 29, 1⟩, ⟨.d, 18, 4⟩, ⟨.a, 14, 4⟩, ⟨.b, 10, 4⟩, ⟨.k, 7, 3⟩, ⟨.ew, 5, 2⟩], .none⟩,
  ⟨.vmulh, 0x8000003, 0x1fc0001f, [⟨.sw, 29, 1⟩, ⟨.d, 18, 4⟩, ⟨.a, 14, 4⟩, ⟨.b, 10, 4⟩, ⟨.k, 7, 3⟩, ⟨.ew, 5, 2⟩], .none⟩,
  ⟨.vmin, 0x8000004, 0x1fc0001f, [⟨.sw, 29, 1⟩, ⟨.d, 18, 4⟩, ⟨.a, 14, 4⟩, ⟨.b, 10, 4⟩, ⟨.k, 7, 3⟩, ⟨.ew, 5, 2⟩], .none⟩,
  ⟨.vmax, 0x8000005, 0x1fc0001f, [⟨.sw, 29, 1⟩, ⟨.d, 18, 4⟩, ⟨.a, 14, 4⟩, ⟨.b, 10, 4⟩, ⟨.k, 7, 3⟩, ⟨.ew, 5, 2⟩], .none⟩,
  ⟨.vminu, 0x8000006, 0x1fc0001f, [⟨.sw, 29, 1⟩, ⟨.d, 18, 4⟩, ⟨.a, 14, 4⟩, ⟨.b, 10, 4⟩, ⟨.k, 7, 3⟩, ⟨.ew, 5, 2⟩], .none⟩,
  ⟨.vmaxu, 0x8000007, 0x1fc0001f, [⟨.sw, 29, 1⟩, ⟨.d, 18, 4⟩, ⟨.a, 14, 4⟩, ⟨.b, 10, 4⟩, ⟨.k, 7, 3⟩, ⟨.ew, 5, 2⟩], .none⟩,
  ⟨.vand, 0x8000008, 0x1fc0001f, [⟨.sw, 29, 1⟩, ⟨.d, 18, 4⟩, ⟨.a, 14, 4⟩, ⟨.b, 10, 4⟩, ⟨.k, 7, 3⟩, ⟨.ew, 5, 2⟩], .none⟩,
  ⟨.vor, 0x8000009, 0x1fc0001f, [⟨.sw, 29, 1⟩, ⟨.d, 18, 4⟩, ⟨.a, 14, 4⟩, ⟨.b, 10, 4⟩, ⟨.k, 7, 3⟩, ⟨.ew, 5, 2⟩], .none⟩,
  ⟨.vxor, 0x800000a, 0x1fc0001f, [⟨.sw, 29, 1⟩, ⟨.d, 18, 4⟩, ⟨.a, 14, 4⟩, ⟨.b, 10, 4⟩, ⟨.k, 7, 3⟩, ⟨.ew, 5, 2⟩], .none⟩,
  ⟨.vshl, 0x800000b, 0x1fc0001f, [⟨.sw, 29, 1⟩, ⟨.d, 18, 4⟩, ⟨.a, 14, 4⟩, ⟨.b, 10, 4⟩, ⟨.k, 7, 3⟩, ⟨.ew, 5, 2⟩], .none⟩,
  ⟨.vshr, 0x800000c, 0x1fc0001f, [⟨.sw, 29, 1⟩, ⟨.d, 18, 4⟩, ⟨.a, 14, 4⟩, ⟨.b, 10, 4⟩, ⟨.k, 7, 3⟩, ⟨.ew, 5, 2⟩], .none⟩,
  ⟨.vsra, 0x800000d, 0x1fc0001f, [⟨.sw, 29, 1⟩, ⟨.d, 18, 4⟩, ⟨.a, 14, 4⟩, ⟨.b, 10, 4⟩, ⟨.k, 7, 3⟩, ⟨.ew, 5, 2⟩], .none⟩,
  ⟨.vadds, 0x800000e, 0x1fc0001f, [⟨.sw, 29, 1⟩, ⟨.d, 18, 4⟩, ⟨.a, 14, 4⟩, ⟨.b, 10, 4⟩, ⟨.k, 7, 3⟩, ⟨.ew, 5, 2⟩], .none⟩,
  ⟨.vsubs, 0x800000f, 0x1fc0001f, [⟨.sw, 29, 1⟩, ⟨.d, 18, 4⟩, ⟨.a, 14, 4⟩, ⟨.b, 10, 4⟩, ⟨.k, 7, 3⟩, ⟨.ew, 5, 2⟩], .none⟩,
  ⟨.vabs, 0x8000010, 0x1fc03c1f, [⟨.sw, 29, 1⟩, ⟨.d, 18, 4⟩, ⟨.a, 14, 4⟩, ⟨.k, 7, 3⟩, ⟨.ew, 5, 2⟩], .none⟩,
  ⟨.vneg, 0x8000011, 0x1fc03c1f, [⟨.sw, 29, 1⟩, ⟨.d, 18, 4⟩, ⟨.a, 14, 4⟩, ⟨.k, 7, 3⟩, ⟨.ew, 5, 2⟩], .none⟩]

/-- VFP (R164). -/
def rowsVfp : List Row := [
  ⟨.vfadd, 0x8400000, 0x1fc0001f, [⟨.sw, 29, 1⟩, ⟨.d, 18, 4⟩, ⟨.a, 14, 4⟩, ⟨.b, 10, 4⟩, ⟨.k, 7, 3⟩, ⟨.ew, 5, 2⟩], .none⟩,
  ⟨.vfsub, 0x8400001, 0x1fc0001f, [⟨.sw, 29, 1⟩, ⟨.d, 18, 4⟩, ⟨.a, 14, 4⟩, ⟨.b, 10, 4⟩, ⟨.k, 7, 3⟩, ⟨.ew, 5, 2⟩], .none⟩,
  ⟨.vfmul, 0x8400002, 0x1fc0001f, [⟨.sw, 29, 1⟩, ⟨.d, 18, 4⟩, ⟨.a, 14, 4⟩, ⟨.b, 10, 4⟩, ⟨.k, 7, 3⟩, ⟨.ew, 5, 2⟩], .none⟩,
  ⟨.vfdiv, 0x8400003, 0x1fc0001f, [⟨.sw, 29, 1⟩, ⟨.d, 18, 4⟩, ⟨.a, 14, 4⟩, ⟨.b, 10, 4⟩, ⟨.k, 7, 3⟩, ⟨.ew, 5, 2⟩], .none⟩,
  ⟨.vfsqrt, 0x8400004, 0x1fc03c1f, [⟨.sw, 29, 1⟩, ⟨.d, 18, 4⟩, ⟨.a, 14, 4⟩, ⟨.k, 7, 3⟩, ⟨.ew, 5, 2⟩], .none⟩,
  ⟨.vfmin, 0x8400005, 0x1fc0001f, [⟨.sw, 29, 1⟩, ⟨.d, 18, 4⟩, ⟨.a, 14, 4⟩, ⟨.b, 10, 4⟩, ⟨.k, 7, 3⟩, ⟨.ew, 5, 2⟩], .none⟩,
  ⟨.vfmax, 0x8400006, 0x1fc0001f, [⟨.sw, 29, 1⟩, ⟨.d, 18, 4⟩, ⟨.a, 14, 4⟩, ⟨.b, 10, 4⟩, ⟨.k, 7, 3⟩, ⟨.ew, 5, 2⟩], .none⟩,
  ⟨.vfma, 0x8400007, 0x1fc0001f, [⟨.sw, 29, 1⟩, ⟨.d, 18, 4⟩, ⟨.a, 14, 4⟩, ⟨.b, 10, 4⟩, ⟨.k, 7, 3⟩, ⟨.ew, 5, 2⟩], .none⟩,
  ⟨.vfms, 0x8400008, 0x1fc0001f, [⟨.sw, 29, 1⟩, ⟨.d, 18, 4⟩, ⟨.a, 14, 4⟩, ⟨.b, 10, 4⟩, ⟨.k, 7, 3⟩, ⟨.ew, 5, 2⟩], .none⟩,
  ⟨.vfnma, 0x8400009, 0x1fc0001f, [⟨.sw, 29, 1⟩, ⟨.d, 18, 4⟩, ⟨.a, 14, 4⟩, ⟨.b, 10, 4⟩, ⟨.k, 7, 3⟩, ⟨.ew, 5, 2⟩], .none⟩,
  ⟨.vfrece, 0x840000a, 0x1fc03c1f, [⟨.sw, 29, 1⟩, ⟨.d, 18, 4⟩, ⟨.a, 14, 4⟩, ⟨.k, 7, 3⟩, ⟨.ew, 5, 2⟩], .none⟩,
  ⟨.vfrsqe, 0x840000b, 0x1fc03c1f, [⟨.sw, 29, 1⟩, ⟨.d, 18, 4⟩, ⟨.a, 14, 4⟩, ⟨.k, 7, 3⟩, ⟨.ew, 5, 2⟩], .none⟩,
  ⟨.vfabs, 0x840000c, 0x1fc03c1f, [⟨.sw, 29, 1⟩, ⟨.d, 18, 4⟩, ⟨.a, 14, 4⟩, ⟨.k, 7, 3⟩, ⟨.ew, 5, 2⟩], .none⟩,
  ⟨.vfneg, 0x840000d, 0x1fc03c1f, [⟨.sw, 29, 1⟩, ⟨.d, 18, 4⟩, ⟨.a, 14, 4⟩, ⟨.k, 7, 3⟩, ⟨.ew, 5, 2⟩], .none⟩]

/-- VCMP to VCVT (R165 to R169). -/
def rowsVmove : List Row := [
  ⟨.vcmp, 0x8800000, 0x1fe00000, [⟨.sw, 29, 1⟩, ⟨.d, 18, 3⟩, ⟨.a, 14, 4⟩, ⟨.b, 10, 4⟩, ⟨.k, 7, 3⟩, ⟨.ew, 5, 2⟩, ⟨.md, 0, 5⟩], .none⟩,
  ⟨.vsel, 0x8c00000, 0x1fc0001f, [⟨.sw, 29, 1⟩, ⟨.d, 18, 4⟩, ⟨.a, 14, 4⟩, ⟨.b, 10, 4⟩, ⟨.k, 7, 3⟩, ⟨.ew, 5, 2⟩], .none⟩,
  ⟨.vperm, 0x8c00001, 0x1fc0001f, [⟨.sw, 29, 1⟩, ⟨.d, 18, 4⟩, ⟨.a, 14, 4⟩, ⟨.b, 10, 4⟩, ⟨.k, 7, 3⟩, ⟨.ew, 5, 2⟩], .none⟩,
  ⟨.vslideup, 0x8c00002, 0x1fc0001f, [⟨.sw, 29, 1⟩, ⟨.d, 18, 4⟩, ⟨.a, 14, 4⟩, ⟨.b, 10, 4⟩, ⟨.k, 7, 3⟩, ⟨.ew, 5, 2⟩], .none⟩,
  ⟨.vslidedn, 0x8c00003, 0x1fc0001f, [⟨.sw, 29, 1⟩, ⟨.d, 18, 4⟩, ⟨.a, 14, 4⟩, ⟨.b, 10, 4⟩, ⟨.k, 7, 3⟩, ⟨.ew, 5, 2⟩], .none⟩,
  ⟨.viota, 0x8c00004, 0x1fc3fc1f, [⟨.sw, 29, 1⟩, ⟨.d, 18, 4⟩, ⟨.k, 7, 3⟩, ⟨.ew, 5, 2⟩], .none⟩,
  ⟨.vcomp, 0x8c00005, 0x1fc03c1f, [⟨.sw, 29, 1⟩, ⟨.d, 18, 4⟩, ⟨.a, 14, 4⟩, ⟨.k, 7, 3⟩, ⟨.ew, 5, 2⟩], .none⟩,
  ⟨.vmov, 0x8c00006, 0x1fc03c1f, [⟨.sw, 29, 1⟩, ⟨.d, 18, 4⟩, ⟨.a, 14, 4⟩, ⟨.k, 7, 3⟩, ⟨.ew, 5, 2⟩], .none⟩,
  ⟨.vredadd, 0x9000000, 0x1fc0001f, [⟨.sw, 29, 1⟩, ⟨.d, 18, 4⟩, ⟨.a, 14, 4⟩, ⟨.b, 10, 4⟩, ⟨.k, 7, 3⟩, ⟨.ew, 5, 2⟩], .none⟩,
  ⟨.vredmin, 0x9000001, 0x1fc0001f, [⟨.sw, 29, 1⟩, ⟨.d, 18, 4⟩, ⟨.a, 14, 4⟩, ⟨.b, 10, 4⟩, ⟨.k, 7, 3⟩, ⟨.ew, 5, 2⟩], .none⟩,
  ⟨.vredmax, 0x9000002, 0x1fc0001f, [⟨.sw, 29, 1⟩, ⟨.d, 18, 4⟩, ⟨.a, 14, 4⟩, ⟨.b, 10, 4⟩, ⟨.k, 7, 3⟩, ⟨.ew, 5, 2⟩], .none⟩,
  ⟨.vredminu, 0x9000003, 0x1fc0001f, [⟨.sw, 29, 1⟩, ⟨.d, 18, 4⟩, ⟨.a, 14, 4⟩, ⟨.b, 10, 4⟩, ⟨.k, 7, 3⟩, ⟨.ew, 5, 2⟩], .none⟩,
  ⟨.vredmaxu, 0x9000004, 0x1fc0001f, [⟨.sw, 29, 1⟩, ⟨.d, 18, 4⟩, ⟨.a, 14, 4⟩, ⟨.b, 10, 4⟩, ⟨.k, 7, 3⟩, ⟨.ew, 5, 2⟩], .none⟩,
  ⟨.vredand, 0x9000005, 0x1fc0001f, [⟨.sw, 29, 1⟩, ⟨.d, 18, 4⟩, ⟨.a, 14, 4⟩, ⟨.b, 10, 4⟩, ⟨.k, 7, 3⟩, ⟨.ew, 5, 2⟩], .none⟩,
  ⟨.vredor, 0x9000006, 0x1fc0001f, [⟨.sw, 29, 1⟩, ⟨.d, 18, 4⟩, ⟨.a, 14, 4⟩, ⟨.b, 10, 4⟩, ⟨.k, 7, 3⟩, ⟨.ew, 5, 2⟩], .none⟩,
  ⟨.vfredadd, 0x9000007, 0x1fc0001f, [⟨.sw, 29, 1⟩, ⟨.d, 18, 4⟩, ⟨.a, 14, 4⟩, ⟨.b, 10, 4⟩, ⟨.k, 7, 3⟩, ⟨.ew, 5, 2⟩], .none⟩,
  ⟨.vfredmin, 0x9000008, 0x1fc0001f, [⟨.sw, 29, 1⟩, ⟨.d, 18, 4⟩, ⟨.a, 14, 4⟩, ⟨.b, 10, 4⟩, ⟨.k, 7, 3⟩, ⟨.ew, 5, 2⟩], .none⟩,
  ⟨.vfredmax, 0x9000009, 0x1fc0001f, [⟨.sw, 29, 1⟩, ⟨.d, 18, 4⟩, ⟨.a, 14, 4⟩, ⟨.b, 10, 4⟩, ⟨.k, 7, 3⟩, ⟨.ew, 5, 2⟩], .none⟩,
  ⟨.vbcast, 0x9400000, 0x1fc00fcf, [⟨.sw, 29, 1⟩, ⟨.d, 18, 4⟩, ⟨.a, 12, 6⟩, ⟨.ew, 4, 2⟩], .none⟩,
  ⟨.vext, 0x9400001, 0x1fc0000f, [⟨.sw, 29, 1⟩, ⟨.d, 18, 4⟩, ⟨.a, 12, 6⟩, ⟨.imm, 6, 6⟩, ⟨.ew, 4, 2⟩], .none⟩,
  ⟨.vins, 0x9400002, 0x1fc0000f, [⟨.sw, 29, 1⟩, ⟨.d, 18, 4⟩, ⟨.a, 12, 6⟩, ⟨.imm, 6, 6⟩, ⟨.ew, 4, 2⟩], .none⟩,
  ⟨.vcvt, 0x9800000, 0x1fc00078, [⟨.sw, 29, 1⟩, ⟨.d, 18, 4⟩, ⟨.a, 14, 4⟩, ⟨.x, 10, 4⟩, ⟨.k, 7, 3⟩, ⟨.y, 0, 3⟩], .none⟩]

/-- MASK and vector memory (R176, R170, R171). -/
def rowsMask : List Row := [
  ⟨.mand, 0xa000000, 0x1ff8e38f, [⟨.sw, 29, 1⟩, ⟨.d, 16, 3⟩, ⟨.a, 10, 3⟩, ⟨.b, 4, 3⟩], .none⟩,
  ⟨.mor, 0xa000001, 0x1ff8e38f, [⟨.sw, 29, 1⟩, ⟨.d, 16, 3⟩, ⟨.a, 10, 3⟩, ⟨.b, 4, 3⟩], .none⟩,
  ⟨.mxor, 0xa000002, 0x1ff8e38f, [⟨.sw, 29, 1⟩, ⟨.d, 16, 3⟩, ⟨.a, 10, 3⟩, ⟨.b, 4, 3⟩], .none⟩,
  ⟨.mandn, 0xa000003, 0x1ff8e38f, [⟨.sw, 29, 1⟩, ⟨.d, 16, 3⟩, ⟨.a, 10, 3⟩, ⟨.b, 4, 3⟩], .none⟩,
  ⟨.mnot, 0xa000004, 0x1ff8e3ff, [⟨.sw, 29, 1⟩, ⟨.d, 16, 3⟩, ⟨.a, 10, 3⟩], .none⟩,
  ⟨.mpopc, 0xa000005, 0x1fc0e3ff, [⟨.sw, 29, 1⟩, ⟨.d, 16, 6⟩, ⟨.a, 10, 3⟩], .none⟩,
  ⟨.mfirst, 0xa000006, 0x1fc0e3ff, [⟨.sw, 29, 1⟩, ⟨.d, 16, 6⟩, ⟨.a, 10, 3⟩], .none⟩,
  ⟨.mtos, 0xa000007, 0x1fc0e3ff, [⟨.sw, 29, 1⟩, ⟨.d, 16, 6⟩, ⟨.a, 10, 3⟩], .none⟩,
  ⟨.stom, 0xa000008, 0x1ff803ff, [⟨.sw, 29, 1⟩, ⟨.d, 16, 3⟩, ⟨.a, 10, 6⟩], .none⟩,
  ⟨.vld, 0xb000000, 0x1fc00000, [⟨.sw, 29, 1⟩, ⟨.d, 18, 4⟩, ⟨.a, 12, 6⟩, ⟨.k, 9, 3⟩, ⟨.ew, 7, 2⟩, ⟨.imm, 0, 7⟩], .none⟩,
  ⟨.vst, 0xb400000, 0x1fc00000, [⟨.sw, 29, 1⟩, ⟨.d, 18, 4⟩, ⟨.a, 12, 6⟩, ⟨.k, 9, 3⟩, ⟨.ew, 7, 2⟩, ⟨.imm, 0, 7⟩], .none⟩,
  ⟨.vlds, 0xb800000, 0x1fc00001, [⟨.sw, 29, 1⟩, ⟨.d, 18, 4⟩, ⟨.a, 12, 6⟩, ⟨.b, 6, 6⟩, ⟨.k, 3, 3⟩, ⟨.ew, 1, 2⟩], .none⟩,
  ⟨.vsts, 0xb800001, 0x1fc00001, [⟨.sw, 29, 1⟩, ⟨.d, 18, 4⟩, ⟨.a, 12, 6⟩, ⟨.b, 6, 6⟩, ⟨.k, 3, 3⟩, ⟨.ew, 1, 2⟩], .none⟩]

/-- LBL and LBL2 (R185). -/
def rowsLabel : List Row := [
  ⟨.lget, 0xc000000, 0x1fc003ff, [⟨.sw, 29, 1⟩, ⟨.d, 16, 6⟩, ⟨.a, 10, 6⟩], .none⟩,
  ⟨.lset, 0xc000001, 0x1fc0000f, [⟨.sw, 29, 1⟩, ⟨.d, 16, 6⟩, ⟨.a, 10, 6⟩, ⟨.b, 4, 6⟩], .b⟩,
  ⟨.lenv, 0xc000002, 0x1fc0000f, [⟨.sw, 29, 1⟩, ⟨.d, 16, 6⟩, ⟨.a, 10, 6⟩, ⟨.b, 4, 6⟩], .b⟩,
  ⟨.ljoin, 0xc000003, 0x1fc0000f, [⟨.sw, 29, 1⟩, ⟨.d, 16, 6⟩, ⟨.a, 10, 6⟩, ⟨.b, 4, 6⟩], .b⟩,
  ⟨.lclr, 0xc000004, 0x1fc003ff, [⟨.sw, 29, 1⟩, ⟨.d, 16, 6⟩, ⟨.a, 10, 6⟩], .none⟩,
  ⟨.lhold, 0xc000005, 0x1fc003ff, [⟨.sw, 29, 1⟩, ⟨.d, 16, 6⟩, ⟨.a, 10, 6⟩], .none⟩,
  ⟨.lsel, 0xc000006, 0x1fc0000f, [⟨.sw, 29, 1⟩, ⟨.d, 16, 6⟩, ⟨.a, 10, 6⟩, ⟨.b, 4, 6⟩], .b⟩,
  ⟨.lcount, 0xc000007, 0x1fc003ff, [⟨.sw, 29, 1⟩, ⟨.d, 16, 6⟩, ⟨.a, 10, 6⟩], .none⟩,
  ⟨.lenvn, 0xc000008, 0x1fc0000f, [⟨.sw, 29, 1⟩, ⟨.d, 16, 6⟩, ⟨.a, 10, 6⟩, ⟨.b, 4, 6⟩], .b⟩,
  ⟨.lprod, 0xc000009, 0x1fc0000f, [⟨.sw, 29, 1⟩, ⟨.d, 16, 6⟩, ⟨.a, 10, 6⟩, ⟨.b, 4, 6⟩], .b⟩,
  ⟨.lfocus, 0xc00000a, 0x1fc003ff, [⟨.sw, 29, 1⟩, ⟨.d, 16, 6⟩, ⟨.a, 10, 6⟩], .none⟩,
  ⟨.lcpush, 0xc00000b, 0x1fff03ff, [⟨.sw, 29, 1⟩, ⟨.a, 10, 6⟩], .none⟩,
  ⟨.lcpop, 0xc00000c, 0x1fffffff, [⟨.sw, 29, 1⟩], .none⟩,
  ⟨.assume, 0xc00000d, 0x1fc003ff, [⟨.sw, 29, 1⟩, ⟨.d, 16, 6⟩, ⟨.a, 10, 6⟩], .none⟩,
  ⟨.retire, 0xc00000e, 0x1fc003ff, [⟨.sw, 29, 1⟩, ⟨.d, 16, 6⟩, ⟨.a, 10, 6⟩], .none⟩,
  ⟨.nogood, 0xc00000f, 0x1fc003ff, [⟨.sw, 29, 1⟩, ⟨.d, 16, 6⟩, ⟨.a, 10, 6⟩], .none⟩,
  ⟨.commit, 0xc400000, 0x1fc003ff, [⟨.sw, 29, 1⟩, ⟨.d, 16, 6⟩, ⟨.a, 10, 6⟩], .none⟩,
  ⟨.lscrub, 0xc400001, 0x1fc003ff, [⟨.sw, 29, 1⟩, ⟨.d, 16, 6⟩, ⟨.a, 10, 6⟩], .none⟩,
  ⟨.lwait, 0xc400002, 0x1fc0000f, [⟨.sw, 29, 1⟩, ⟨.d, 16, 6⟩, ⟨.a, 10, 6⟩, ⟨.b, 4, 6⟩], .b⟩,
  ⟨.lstat, 0xc400003, 0x1fc003ff, [⟨.sw, 29, 1⟩, ⟨.d, 16, 6⟩, ⟨.a, 10, 6⟩], .none⟩]

/-- Loads, stores, atomics, fences (R268 to R273). -/
def rowsMem : List Row := [
  ⟨.ld, 0xe000000, 0x1fc00000, [⟨.sw, 29, 1⟩, ⟨.d, 16, 6⟩, ⟨.a, 10, 6⟩, ⟨.md, 7, 3⟩, ⟨.imm, 0, 7⟩], .none⟩,
  ⟨.st, 0xe400000, 0x1fc00000, [⟨.sw, 29, 1⟩, ⟨.d, 16, 6⟩, ⟨.a, 10, 6⟩, ⟨.md, 7, 3⟩, ⟨.imm, 0, 7⟩], .none⟩,
  ⟨.ldfe, 0xe800180, 0x1fc00380, [⟨.sw, 29, 1⟩, ⟨.d, 16, 6⟩, ⟨.a, 10, 6⟩, ⟨.imm, 0, 7⟩], .none⟩,
  ⟨.stfe, 0xec00180, 0x1fc00380, [⟨.sw, 29, 1⟩, ⟨.d, 16, 6⟩, ⟨.a, 10, 6⟩, ⟨.imm, 0, 7⟩], .none⟩,
  ⟨.feset, 0xf000000, 0x1fff03ff, [⟨.sw, 29, 1⟩, ⟨.a, 10, 6⟩], .none⟩,
  ⟨.feclr, 0xf000001, 0x1fff03ff, [⟨.sw, 29, 1⟩, ⟨.a, 10, 6⟩], .none⟩,
  ⟨.aadd, 0xf400000, 0x1fc0000f, [⟨.sw, 29, 1⟩, ⟨.d, 16, 6⟩, ⟨.a, 10, 6⟩, ⟨.b, 4, 6⟩], .b⟩,
  ⟨.aand, 0xf400001, 0x1fc0000f, [⟨.sw, 29, 1⟩, ⟨.d, 16, 6⟩, ⟨.a, 10, 6⟩, ⟨.b, 4, 6⟩], .b⟩,
  ⟨.aor, 0xf400002, 0x1fc0000f, [⟨.sw, 29, 1⟩, ⟨.d, 16, 6⟩, ⟨.a, 10, 6⟩, ⟨.b, 4, 6⟩], .b⟩,
  ⟨.axor, 0xf400003, 0x1fc0000f, [⟨.sw, 29, 1⟩, ⟨.d, 16, 6⟩, ⟨.a, 10, 6⟩, ⟨.b, 4, 6⟩], .b⟩,
  ⟨.amin, 0xf400004, 0x1fc0000f, [⟨.sw, 29, 1⟩, ⟨.d, 16, 6⟩, ⟨.a, 10, 6⟩, ⟨.b, 4, 6⟩], .b⟩,
  ⟨.amax, 0xf400005, 0x1fc0000f, [⟨.sw, 29, 1⟩, ⟨.d, 16, 6⟩, ⟨.a, 10, 6⟩, ⟨.b, 4, 6⟩], .b⟩,
  ⟨.aminu, 0xf400006, 0x1fc0000f, [⟨.sw, 29, 1⟩, ⟨.d, 16, 6⟩, ⟨.a, 10, 6⟩, ⟨.b, 4, 6⟩], .b⟩,
  ⟨.amaxu, 0xf400007, 0x1fc0000f, [⟨.sw, 29, 1⟩, ⟨.d, 16, 6⟩, ⟨.a, 10, 6⟩, ⟨.b, 4, 6⟩], .b⟩,
  ⟨.aswap, 0xf400008, 0x1fc0000f, [⟨.sw, 29, 1⟩, ⟨.d, 16, 6⟩, ⟨.a, 10, 6⟩, ⟨.b, 4, 6⟩], .b⟩,
  ⟨.afaddd, 0xf400009, 0x1fc0000f, [⟨.sw, 29, 1⟩, ⟨.d, 16, 6⟩, ⟨.a, 10, 6⟩, ⟨.b, 4, 6⟩], .b⟩,
  ⟨.afadds, 0xf40000a, 0x1fc0000f, [⟨.sw, 29, 1⟩, ⟨.d, 16, 6⟩, ⟨.a, 10, 6⟩, ⟨.b, 4, 6⟩], .b⟩,
  ⟨.acas, 0xf800000, 0x1fc0000f, [⟨.sw, 29, 1⟩, ⟨.d, 16, 6⟩, ⟨.a, 10, 6⟩, ⟨.b, 4, 6⟩], .b⟩,
  ⟨.acas2, 0xf800001, 0x1fc0000f, [⟨.sw, 29, 1⟩, ⟨.d, 16, 6⟩, ⟨.a, 10, 6⟩, ⟨.b, 4, 6⟩], .none⟩,
  ⟨.fenceE, 0xfc00000, 0x1fffffff, [⟨.sw, 29, 1⟩], .none⟩,
  ⟨.fenceEw, 0xfc00001, 0x1fffffff, [⟨.sw, 29, 1⟩], .none⟩,
  ⟨.fenceSys, 0xfc00002, 0x1fffffff, [⟨.sw, 29, 1⟩], .none⟩,
  ⟨.fenceI, 0xfc00003, 0x1fffffff, [⟨.sw, 29, 1⟩], .none⟩]

/-- Control transfers and SYS (R177 to R184, R331). -/
def rowsFlow : List Row := [
  ⟨.j, 0x12000000, 0x1fc00000, [⟨.sw, 29, 1⟩, ⟨.imm, 0, 22⟩], .none⟩,
  ⟨.call, 0x12400000, 0x1fc00000, [⟨.sw, 29, 1⟩, ⟨.imm, 0, 22⟩], .none⟩,
  ⟨.beq, 0x10000000, 0x1fc00000, [⟨.sw, 29, 1⟩, ⟨.a, 16, 6⟩, ⟨.b, 10, 6⟩, ⟨.imm, 0, 10⟩], .none⟩,
  ⟨.bne, 0x10400000, 0x1fc00000, [⟨.sw, 29, 1⟩, ⟨.a, 16, 6⟩, ⟨.b, 10, 6⟩, ⟨.imm, 0, 10⟩], .none⟩,
  ⟨.blt, 0x10800000, 0x1fc00000, [⟨.sw, 29, 1⟩, ⟨.a, 16, 6⟩, ⟨.b, 10, 6⟩, ⟨.imm, 0, 10⟩], .none⟩,
  ⟨.bge, 0x10c00000, 0x1fc00000, [⟨.sw, 29, 1⟩, ⟨.a, 16, 6⟩, ⟨.b, 10, 6⟩, ⟨.imm, 0, 10⟩], .none⟩,
  ⟨.bltu, 0x11000000, 0x1fc00000, [⟨.sw, 29, 1⟩, ⟨.a, 16, 6⟩, ⟨.b, 10, 6⟩, ⟨.imm, 0, 10⟩], .none⟩,
  ⟨.bgeu, 0x11400000, 0x1fc00000, [⟨.sw, 29, 1⟩, ⟨.a, 16, 6⟩, ⟨.b, 10, 6⟩, ⟨.imm, 0, 10⟩], .none⟩,
  ⟨.bmany, 0x11800000, 0x1ff8fc00, [⟨.sw, 29, 1⟩, ⟨.a, 16, 3⟩, ⟨.imm, 0, 10⟩], .none⟩,
  ⟨.bmnone, 0x11c00000, 0x1ff8fc00, [⟨.sw, 29, 1⟩, ⟨.a, 16, 3⟩, ⟨.imm, 0, 10⟩], .none⟩,
  ⟨.jr, 0x12800000, 0x1fc003ff, [⟨.sw, 29, 1⟩, ⟨.d, 16, 6⟩, ⟨.a, 10, 6⟩], .none⟩,
  ⟨.loop, 0x12c00000, 0x1fc0fc00, [⟨.sw, 29, 1⟩, ⟨.a, 16, 6⟩, ⟨.imm, 0, 10⟩], .none⟩,
  ⟨.done, 0x13000000, 0x1fffffff, [⟨.sw, 29, 1⟩], .none⟩,
  ⟨.yield, 0x13000001, 0x1fffffff, [⟨.sw, 29, 1⟩], .none⟩,
  ⟨.nop, 0x13000002, 0x1fffffff, [⟨.sw, 29, 1⟩], .none⟩,
  ⟨.tfence, 0x13000003, 0x1fffffff, [⟨.sw, 29, 1⟩], .none⟩,
  ⟨.eret, 0x13000004, 0x1fffffff, [⟨.sw, 29, 1⟩], .none⟩,
  ⟨.halt, 0x13000005, 0x1fffffff, [⟨.sw, 29, 1⟩], .none⟩,
  ⟨.sleep, 0x13000006, 0x1fff03ff, [⟨.sw, 29, 1⟩, ⟨.a, 10, 6⟩], .none⟩,
  ⟨.bar, 0x13000007, 0x1fc0ffff, [⟨.sw, 29, 1⟩, ⟨.d, 16, 6⟩], .none⟩,
  ⟨.trap, 0x13000008, 0x1fff03ff, [⟨.sw, 29, 1⟩, ⟨.a, 10, 6⟩], .none⟩,
  ⟨.grow, 0x13000009, 0x1fc003ff, [⟨.sw, 29, 1⟩, ⟨.d, 16, 6⟩, ⟨.a, 10, 6⟩], .none⟩,
  ⟨.shrink, 0x1300000a, 0x1fc003ff, [⟨.sw, 29, 1⟩, ⟨.d, 16, 6⟩, ⟨.a, 10, 6⟩], .none⟩,
  ⟨.getc, 0x13400000, 0x1fc0fc00, [⟨.sw, 29, 1⟩, ⟨.d, 16, 6⟩, ⟨.imm, 0, 10⟩], .none⟩,
  ⟨.setc, 0x13800000, 0x1fff0000, [⟨.sw, 29, 1⟩, ⟨.a, 10, 6⟩, ⟨.imm, 0, 10⟩], .none⟩]

/-- MSG and ELECT (R313, R74). -/
def rowsMsg : List Row := [
  ⟨.send, 0x14000000, 0x1fc0000f, [⟨.sw, 29, 1⟩, ⟨.d, 16, 6⟩, ⟨.a, 10, 6⟩, ⟨.b, 4, 6⟩], .b⟩,
  ⟨.sendv, 0x14000001, 0x1fc0c00f, [⟨.sw, 29, 1⟩, ⟨.d, 16, 6⟩, ⟨.a, 10, 4⟩, ⟨.b, 4, 6⟩], .b⟩,
  ⟨.reply, 0x14000002, 0x1fc0000f, [⟨.sw, 29, 1⟩, ⟨.d, 16, 6⟩, ⟨.a, 10, 6⟩, ⟨.b, 4, 6⟩], .b⟩,
  ⟨.hostq, 0x14000003, 0x1fc0000f, [⟨.sw, 29, 1⟩, ⟨.d, 16, 6⟩, ⟨.a, 10, 6⟩, ⟨.b, 4, 6⟩], .b⟩,
  ⟨.chset, 0x14000004, 0x1fc0fc0f, [⟨.sw, 29, 1⟩, ⟨.d, 16, 6⟩, ⟨.b, 4, 6⟩], .b⟩,
  ⟨.chbind, 0x14000005, 0x1fc0000f, [⟨.sw, 29, 1⟩, ⟨.d, 16, 6⟩, ⟨.a, 10, 6⟩, ⟨.b, 4, 6⟩], .b⟩,
  ⟨.watch, 0x14000006, 0x1fc0000f, [⟨.sw, 29, 1⟩, ⟨.d, 16, 6⟩, ⟨.a, 10, 6⟩, ⟨.b, 4, 6⟩], .b⟩,
  ⟨.unwatch, 0x14000007, 0x1fc003ff, [⟨.sw, 29, 1⟩, ⟨.d, 16, 6⟩, ⟨.a, 10, 6⟩], .none⟩,
  ⟨.launch, 0x14000008, 0x1fc003ff, [⟨.sw, 29, 1⟩, ⟨.d, 16, 6⟩, ⟨.a, 10, 6⟩], .none⟩,
  ⟨.ccwait, 0x14000009, 0x1fc003ff, [⟨.sw, 29, 1⟩, ⟨.d, 16, 6⟩, ⟨.a, 10, 6⟩], .none⟩,
  ⟨.ccancel, 0x1400000a, 0x1fc003ff, [⟨.sw, 29, 1⟩, ⟨.d, 16, 6⟩, ⟨.a, 10, 6⟩], .none⟩,
  ⟨.ccread, 0x1400000b, 0x1fc003ff, [⟨.sw, 29, 1⟩, ⟨.d, 16, 6⟩, ⟨.a, 10, 6⟩], .none⟩,
  ⟨.elect, 0x16000000, 0x3fffffff, [], .none⟩]

/-- Extended floating point, VFCVTN, gathers and tile vectors (R77). -/
def rowsExtFp : List Row := [
  ⟨.faddX, 0x800000, 0xfffffffffffe0fff1fc0000f, [⟨.sw, 29, 1⟩, ⟨.d, 16, 6⟩, ⟨.a, 10, 6⟩, ⟨.b, 4, 6⟩, ⟨.ew, 47, 2⟩, ⟨.rnd, 44, 3⟩], .none⟩,
  ⟨.fsubX, 0x800001, 0xfffffffffffe0fff1fc0000f, [⟨.sw, 29, 1⟩, ⟨.d, 16, 6⟩, ⟨.a, 10, 6⟩, ⟨.b, 4, 6⟩, ⟨.ew, 47, 2⟩, ⟨.rnd, 44, 3⟩], .none⟩,
  ⟨.fmulX, 0x800002, 0xfffffffffffe0fff1fc0000f, [⟨.sw, 29, 1⟩, ⟨.d, 16, 6⟩, ⟨.a, 10, 6⟩, ⟨.b, 4, 6⟩, ⟨.ew, 47, 2⟩, ⟨.rnd, 44, 3⟩], .none⟩,
  ⟨.fdivX, 0x800003, 0xfffffffffffe0fff1fc0000f, [⟨.sw, 29, 1⟩, ⟨.d, 16, 6⟩, ⟨.a, 10, 6⟩, ⟨.b, 4, 6⟩, ⟨.ew, 47, 2⟩, ⟨.rnd, 44, 3⟩], .none⟩,
  ⟨.fsqrtX, 0x800004, 0xfffffffffffe0fff1fc003ff, [⟨.sw, 29, 1⟩, ⟨.d, 16, 6⟩, ⟨.a, 10, 6⟩, ⟨.ew, 47, 2⟩, ⟨.rnd, 44, 3⟩], .none⟩,
  ⟨.fmaX, 0x800005, 0xffffffff03fe0fff1fc0000f, [⟨.sw, 29, 1⟩, ⟨.d, 16, 6⟩, ⟨.a, 10, 6⟩, ⟨.b, 4, 6⟩, ⟨.c, 58, 6⟩, ⟨.ew, 47, 2⟩, ⟨.rnd, 44, 3⟩], .none⟩,
  ⟨.fmsX, 0x800006, 0xffffffff03fe0fff1fc0000f, [⟨.sw, 29, 1⟩, ⟨.d, 16, 6⟩, ⟨.a, 10, 6⟩, ⟨.b, 4, 6⟩, ⟨.c, 58, 6⟩, ⟨.ew, 47, 2⟩, ⟨.rnd, 44, 3⟩], .none⟩,
  ⟨.fnmaX, 0x800007, 0xffffffff03fe0fff1fc0000f, [⟨.sw, 29, 1⟩, ⟨.d, 16, 6⟩, ⟨.a, 10, 6⟩, ⟨.b, 4, 6⟩, ⟨.c, 58, 6⟩, ⟨.ew, 47, 2⟩, ⟨.rnd, 44, 3⟩], .none⟩,
  ⟨.fnmsX, 0x800008, 0xffffffff03fe0fff1fc0000f, [⟨.sw, 29, 1⟩, ⟨.d, 16, 6⟩, ⟨.a, 10, 6⟩, ⟨.b, 4, 6⟩, ⟨.c, 58, 6⟩, ⟨.ew, 47, 2⟩, ⟨.rnd, 44, 3⟩], .none⟩,
  ⟨.vfcvtnN, 0x2000000, 0xfffffc00fff18fff1ff0c00f, [⟨.sw, 29, 1⟩, ⟨.d, 16, 4⟩, ⟨.a, 10, 4⟩, ⟨.b, 4, 6⟩, ⟨.k, 49, 3⟩, ⟨.rnd, 44, 3⟩, ⟨.imm, 64, 10⟩], .none⟩,
  ⟨.vfcvtnF, 0x2000001, 0xfffffc00fff18fff1ff0c00f, [⟨.sw, 29, 1⟩, ⟨.d, 16, 4⟩, ⟨.a, 10, 4⟩, ⟨.b, 4, 6⟩, ⟨.k, 49, 3⟩, ⟨.rnd, 44, 3⟩, ⟨.imm, 64, 10⟩], .none⟩,
  ⟨.vgath, 0x2400000, 0xfff07ffc1ff0030f, [⟨.sw, 29, 1⟩, ⟨.d, 16, 4⟩, ⟨.a, 10, 6⟩, ⟨.b, 4, 4⟩, ⟨.k, 49, 3⟩, ⟨.ew, 47, 2⟩, ⟨.md, 32, 2⟩, ⟨.imm, 64, 32⟩], .ext⟩,
  ⟨.vscat, 0x2800000, 0xfff07ffc1ff0030f, [⟨.sw, 29, 1⟩, ⟨.d, 16, 4⟩, ⟨.a, 10, 6⟩, ⟨.b, 4, 4⟩, ⟨.k, 49, 3⟩, ⟨.ew, 47, 2⟩, ⟨.md, 32, 2⟩, ⟨.imm, 64, 32⟩], .ext⟩,
  ⟨.vldt, 0x2c00000, 0xffffffff03f07fff1ff0000f, [⟨.sw, 29, 1⟩, ⟨.d, 16, 4⟩, ⟨.a, 10, 6⟩, ⟨.b, 4, 6⟩, ⟨.c, 58, 6⟩, ⟨.k, 49, 3⟩, ⟨.ew, 47, 2⟩], .none⟩,
  ⟨.vstt, 0x2c00001, 0xffffffff03f07fff1ff0000f, [⟨.sw, 29, 1⟩, ⟨.d, 16, 4⟩, ⟨.a, 10, 6⟩, ⟨.b, 4, 6⟩, ⟨.c, 58, 6⟩, ⟨.k, 49, 3⟩, ⟨.ew, 47, 2⟩], .none⟩]

/-- The other extended forms (R77). The row of SENDX has the MOD field that R317 gives it; R77 lists none for it, which would make
the field reserved (DESIGN CHOICE, log 47). -/
def rowsExt : List Row := [
  ⟨.topen, 0x4000000, 0xffffffff03ffffff1fc0000f, [⟨.sw, 29, 1⟩, ⟨.d, 16, 6⟩, ⟨.a, 10, 6⟩, ⟨.b, 4, 6⟩, ⟨.c, 58, 6⟩], .none⟩,
  ⟨.tclose, 0x4400000, 0xffffffffffffffff1fff03ff, [⟨.sw, 29, 1⟩, ⟨.a, 10, 6⟩], .none⟩,
  ⟨.tacqRd, 0x4800000, 0xffffffffffffffff1fc003ff, [⟨.sw, 29, 1⟩, ⟨.d, 16, 6⟩, ⟨.a, 10, 6⟩], .none⟩,
  ⟨.tacqWr, 0x4800001, 0xffffffffffffffff1fc003ff, [⟨.sw, 29, 1⟩, ⟨.d, 16, 6⟩, ⟨.a, 10, 6⟩], .none⟩,
  ⟨.trel, 0x4c00000, 0xffffffffffffffff1fff03ff, [⟨.sw, 29, 1⟩, ⟨.a, 10, 6⟩], .none⟩,
  ⟨.tsplit, 0x5000000, 0xfffffffffffffffc1fc0000f, [⟨.sw, 29, 1⟩, ⟨.d, 16, 6⟩, ⟨.a, 10, 6⟩, ⟨.b, 4, 6⟩, ⟨.md, 32, 2⟩], .none⟩,
  ⟨.tgive, 0x5400000, 0xffffffffffffffff1fff000f, [⟨.sw, 29, 1⟩, ⟨.a, 10, 6⟩, ⟨.b, 4, 6⟩], .none⟩,
  ⟨.trenew, 0x5800000, 0xffffffffffffffff1fc0000f, [⟨.sw, 29, 1⟩, ⟨.d, 16, 6⟩, ⟨.a, 10, 6⟩, ⟨.b, 4, 6⟩], .none⟩,
  ⟨.tstat, 0x5c00000, 0xffffffffffffffff1fc003ff, [⟨.sw, 29, 1⟩, ⟨.d, 16, 6⟩, ⟨.a, 10, 6⟩], .none⟩,
  ⟨.tidw, 0x6000000, 0xffffffffffffffff1fff000f, [⟨.sw, 29, 1⟩, ⟨.a, 10, 6⟩, ⟨.b, 4, 6⟩], .none⟩,
  ⟨.tidr, 0x6400000, 0xffffffffffffffff1fff000f, [⟨.sw, 29, 1⟩, ⟨.a, 10, 6⟩, ⟨.b, 4, 6⟩], .none⟩,
  ⟨.mma, 0x8000000, 0xffffffff03ffffff1ff0000f, [⟨.sw, 29, 1⟩, ⟨.d, 16, 4⟩, ⟨.a, 10, 6⟩, ⟨.b, 4, 6⟩, ⟨.c, 58, 6⟩], .none⟩,
  ⟨.mmas, 0x8400000, 0xffffffff000fffff1ff0000f, [⟨.sw, 29, 1⟩, ⟨.d, 16, 4⟩, ⟨.a, 10, 6⟩, ⟨.b, 4, 6⟩, ⟨.c, 58, 6⟩, ⟨.e, 52, 6⟩], .none⟩,
  ⟨.mzero, 0x8800000, 0xffffffffffffffff1ff0ffff, [⟨.sw, 29, 1⟩, ⟨.d, 16, 4⟩], .none⟩,
  ⟨.mload, 0x8c00000, 0xffffffffffffffff1ff003ff, [⟨.sw, 29, 1⟩, ⟨.d, 16, 4⟩, ⟨.a, 10, 6⟩], .none⟩,
  ⟨.mstore, 0x9000000, 0xffffffffffffffff1ff003ff, [⟨.sw, 29, 1⟩, ⟨.d, 16, 4⟩, ⟨.a, 10, 6⟩], .none⟩,
  ⟨.mwait, 0x9400000, 0xffffffffffffffff1ff0ffff, [⟨.sw, 29, 1⟩, ⟨.d, 16, 4⟩], .none⟩,
  ⟨.btgo, 0xa000000, 0xffffffffffffffff1fff000f, [⟨.sw, 29, 1⟩, ⟨.a, 10, 6⟩, ⟨.b, 4, 6⟩], .none⟩,
  ⟨.ringwait, 0xa400000, 0xffffffffffffffff1fc0000f, [⟨.sw, 29, 1⟩, ⟨.d, 16, 6⟩, ⟨.a, 10, 6⟩, ⟨.b, 4, 6⟩], .none⟩,
  ⟨.syncw, 0xa800000, 0xffffffffffffffff1fc003ff, [⟨.sw, 29, 1⟩, ⟨.d, 16, 6⟩, ⟨.a, 10, 6⟩], .none⟩,
  ⟨.clgo, 0xac00000, 0xffffffffffffffff1fc003ff, [⟨.sw, 29, 1⟩, ⟨.d, 16, 6⟩, ⟨.a, 10, 6⟩], .none⟩,
  ⟨.sendx, 0xc000000, 0xffffffff000ffff81fc0000f, [⟨.sw, 29, 1⟩, ⟨.d, 16, 6⟩, ⟨.a, 10, 6⟩, ⟨.b, 4, 6⟩, ⟨.c, 58, 6⟩, ⟨.e, 52, 6⟩, ⟨.md, 32, 3⟩], .none⟩,
  ⟨.msave, 0xe000000, 0xffffffffffffffff1fc0000f, [⟨.sw, 29, 1⟩, ⟨.d, 16, 6⟩, ⟨.a, 10, 6⟩, ⟨.b, 4, 6⟩], .none⟩,
  ⟨.containArm, 0xe800000, 0xffffffffffffffff1fff000f, [⟨.sw, 29, 1⟩, ⟨.a, 10, 6⟩, ⟨.b, 4, 6⟩], .none⟩,
  ⟨.tlbiPg, 0xec00000, 0xffffffffffffffff1fff000f, [⟨.sw, 29, 1⟩, ⟨.a, 10, 6⟩, ⟨.b, 4, 6⟩], .none⟩,
  ⟨.tlbiTn, 0x10ec00000, 0xffffffffffffffff1fff000f, [⟨.sw, 29, 1⟩, ⟨.a, 10, 6⟩, ⟨.b, 4, 6⟩], .none⟩,
  ⟨.tlbiAll, 0x20ec00000, 0xffffffffffffffff1fff000f, [⟨.sw, 29, 1⟩, ⟨.a, 10, 6⟩, ⟨.b, 4, 6⟩], .none⟩]

/-- The base rows; those of SETC with a selector of their own stand before SETC. -/
def baseRows : List Row :=
  rowsSetc ++ rowsAlu1 ++ rowsAlu2 ++ rowsAlu1W ++ rowsAlu2W ++ rowsImm ++ rowsFp ++ rowsVint ++ rowsVfp ++ rowsVmove ++ rowsMask ++ rowsLabel ++ rowsMem ++ rowsFlow ++ rowsMsg

/-- The extended rows. -/
def extRows : List Row := rowsExtFp ++ rowsExt

/-- Bits [lo+n-1:lo] of the word of bits. -/
def bits (w : BitVec 96) (lo n : Nat) : Nat := w.toNat / 2 ^ lo % 2 ^ n

/-- How many words an instruction with first word w0 has (R63). -/
def wordCount (w0 : BitVec 32) : Nat :=
  match w0.toNat / 2 ^ 30 with
  | 0 => 1
  | 3 => 5
  | _ => 3

/-- The row matches the bits. -/
def Row.hit (r : Row) (w : BitVec 96) : Bool := w &&& r.mask == r.pat

/-- The operands that the row's fields take from the bits. -/
def Row.take (r : Row) (w : BitVec 96) : Ops :=
  r.fields.foldl (fun o f => o.put f.f (bits w f.lo f.n)) {}

/-- The operands of the row with the literal, where the row has one and the field that it replaces is zero (R70, R76). -/
def Row.withLit (r : Row) (o : Ops) (v : Word) : Except Reject Ops :=
  match r.lit with
  | .none => .error .literal
  | .b => if o.b = 0 then .ok { o with lit := some v } else .error .literal
  | .imm | .ext => if o.imm = 0 then .ok { o with lit := some v } else .error .literal

/-- Decode the bits by the first row that matches, with the literal words where LEN states them. -/
def decodeBits (rows : List Row) (w : BitVec 96) (lit : Option Word) : Except Reject Insn :=
  match rows.find? (·.hit w) with
  | none => .error .unassigned
  | some r =>
    match (match lit with
      | none => Except.ok (r.take w)
      | some v => r.withLit (r.take w) v) with
    | .error e => .error e
    | .ok o => if r.op.wf o then .ok ⟨r.op, o⟩ else .error .range

/-- The first word without its LEN bits, which choose the table. -/
def noLen (w : BitVec 32) : BitVec 96 := BitVec.ofNat 96 (w.toNat % 2 ^ 30)

/-- Decode the words of one instruction, as many as LEN states (R63, R64, R75). -/
def decode (ws : List (BitVec 32)) : Except Reject Insn :=
  match ws with
  | [w] =>
    if w.toNat / 2 ^ 30 = 0 then decodeBits baseRows (noLen w) none else .error .length
  | [w, x, y] =>
    if w.toNat / 2 ^ 30 = 1 then decodeBits extRows (BitVec.ofNat 96 (y.toNat * 2 ^ 64 + x.toNat * 2 ^ 32 + w.toNat % 2 ^ 30)) none
    else if w.toNat / 2 ^ 30 = 2 then decodeBits baseRows (noLen w) (some (y ++ x))
    else .error .length
  | [w, x, y, lo, hi] =>
    if w.toNat / 2 ^ 30 = 3 then decodeBits extRows (BitVec.ofNat 96 (y.toNat * 2 ^ 64 + x.toNat * 2 ^ 32 + w.toNat % 2 ^ 30)) (some (hi ++ lo))
    else .error .length
  | _ => .error .length

/-- The words of an instruction held in nbits bits, bit 0 the least significant bit of the first word, with zero bits
above nbits: as many words as the first word's LEN states (R63). -/
def tableWords (nbits w : Nat) : List (BitVec 32) :=
  let v := w % 2 ^ nbits
  let word (k : Nat) : BitVec 32 := BitVec.ofNat 32 (v / 2 ^ (32 * k))
  (List.range (wordCount (word 0))).map word

/-- The operation that the decoder reads from an instruction whose bits are w. -/
def decodeTableWord (nbits w : Nat) : Option Instr :=
  match decode (tableWords nbits w) with
  | .ok i => some i.op
  | .error _ => none

/-! The encoder: the fields put into their places over the fixed bits of the row (R67, R75). -/

/-- The bits of an instruction by its row. -/
def Row.bitsOf (r : Row) (o : Ops) : Nat :=
  r.fields.foldl (fun n f => n + (o.get f.f % 2 ^ f.n) * 2 ^ f.lo) r.pat.toNat

/-- The literal words, the lower-addressed first (R64). -/
def litWords (v : Word) : List (BitVec 32) := [v.extractLsb' 0 32, v.extractLsb' 32 32]

/-- The row of an operation in a table. -/
def rowOf (rows : List Row) (i : Instr) : Option Row := rows.find? (·.op = i)

/-- The words of an instruction; none for the events, which no word encodes, and for the rows of CONTAIN that share the
word of the ARM row, since the operation of a CONTAIN is in its operand sb (R343). -/
def encode (i : Insn) : List (BitVec 32) :=
  match rowOf baseRows i.op with
  | some r =>
    let n := r.bitsOf i.ops
    match i.ops.lit with
    | none => [BitVec.ofNat 32 n]
    | some v => BitVec.ofNat 32 (n + 2 ^ 31) :: litWords v
  | none =>
    match rowOf extRows i.op with
    | some r =>
      let n := r.bitsOf i.ops
      let word (k : Nat) : BitVec 32 := BitVec.ofNat 32 (n / 2 ^ (32 * k))
      match i.ops.lit with
      | none => [word 0 + 2 ^ 30, word 1, word 2]
      | some v => (word 0 + 2 ^ 31 + 2 ^ 30) :: word 1 :: word 2 :: litWords v
    | none => []

/-- The operands an encoding can carry: every field that the operation's row does not have is zero, every value fits its
field, the literal stands only where the row has one and its field is then zero, and the ranges hold. -/
def Insn.wf (i : Insn) : Bool :=
  match (rowOf baseRows i.op).orElse (fun _ => rowOf extRows i.op) with
  | none => false
  | some r =>
    let o := i.ops
    let fieldOk (f : FName) : Bool :=
      match r.fields.find? (·.f = f) with
      | some g => o.get f < 2 ^ g.n
      | none => o.get f = 0
    let litOk : Bool :=
      match o.lit, r.lit with
      | none, _ => true
      | some _, .none => false
      | some _, .b => o.b = 0
      | some _, _ => o.imm = 0
    [.sw, .d, .a, .b, .c, .e, .k, .ew, .t, .rnd, .x, .y, .md, .imm].all fieldOk && litOk && i.op.wf o

end Sys2Proof
end

