-- ==== Sys2Proof/Machine/Fetch.lean ====
section
/-! DEFINITION. Fetching and decoding (R25, R63 to R66, R84), what lets a core issue, the advance of the clock, and the
placing of one instruction where the next fetch finds it. -/

namespace Sys2Proof.Machine

/-- One instruction word at an address of space 0x0, or the fault with the address of the word (R25, R65). The
fetch itself takes no time of the memory order: R243 lists none. -/
def State.fetchWord (s : State) (x : Word) : Except (Cause × Word) (BitVec 32) :=
  match s.resolve s.cur s.act.sup .fetch x with
  | .error e => .error e
  | .ok key => .ok (BitVec.ofNat 32 (ofBytes (Memory.readN s.mem key 4)))

def State.fetchFrom (s : State) : Word → Nat → Except (Cause × Word) (List (BitVec 32))
  | _, 0 => .ok []
  | x, n + 1 =>
    match s.fetchWord x with
    | .error e => .error e
    | .ok w =>
      match s.fetchFrom (x + 4) n with
      | .error e => .error e
      | .ok ws => .ok (w :: ws)

/-- The words of the instruction at the pc; the first word says how many there are (R63, R65). -/
def State.fetchWords (s : State) : Except (Cause × Word) (List (BitVec 32)) :=
  let pc := s.act.pc
  if (pc &&& 3) != 0 then .error (.xlate, pc)
  else match s.fetchWord pc with
    | .error e => .error e
    | .ok w => s.fetchFrom pc (wordCount w)

/-- A core issues when an activation runs on it, it is not halted, does not stall and no trap waits (R26, R81, R335). -/
def Core.canIssue (k : Core) : Bool := k.running && !k.halted && !k.stalled && k.act.pend.isNone

/-- Time passes (R41, log 2). -/
def State.advance (s : State) : State :=
  { s with clock := s.clock + 1 + BitVec.ofNat 64 (Config.freeCycles s.tick), tick := s.tick + 1 }

/-- A single step of a debugger: the core is halted while this instruction executes, so that it takes no other (R418). -/
def State.stepHalt (s : State) : State := if s.me.stepping then s.setMe { s.me with halted := true } else s

/-- After the single step the core halts, which fires the cross-trigger (R417, R418). -/
def State.stepEnd (s : State) (c : Nat) : State := (s.setCore c { s.core c with halted := false, stepping := false }).haltCore true c

/-- What a core did while it is stepped: an instruction that stalled has not executed, and is still to be stepped; after any other the core
halts (R418). -/
def State.stepOver (s : State) (c : Nat) : State :=
  if (s.core c).running && (s.core c).stalled then s.setCore c { s.core c with halted := false } else s.stepEnd c

/-- The outcome of what a core did, with the halt after a single step. -/
def State.stepped (s : State) (o : Host.Outcome State Fault Refusal) : Host.Outcome State Fault Refusal :=
  if s.me.stepping then (match o with | .next t => .next (t.stepOver s.cur) | o => o) else o

/-- The instruction is in the instruction register. -/
def State.loaded (s : State) (i : Insn) (ws : List (BitVec 32)) : State := { s.stepHalt with ir := i.ops, raw := ws }

/-- The reads of the walks for the words of an instruction, one for each 64 KiB that they lie in: they take their times before the
instruction has its effect, and may wait as loads do (R238, R243, R256). -/
def State.fetchWalked (s : State) (n : Nat) : Res State :=
  let x := s.act.pc
  let y := x + BitVec.ofNat 64 (4 * (n - 1))
  match s.walked x with
  | .error e => .error e
  | .ok t => if x.toNat / 65536 = y.toNat / 65536 then .ok t else t.walked y

/-- What the acting core does next: the trap or the wait of a fetch, the trap of an encoding, or an instruction, in the state in which the
fetch has taken its times (R84, steps 1 and 2). -/
def State.front (s : State) : Except (Host.Outcome State Fault Refusal) (State × Insn × List (BitVec 32)) :=
  match s.fetchWords with
  | .error (c, v) => .error (.next (if (s.act.pc &&& 3) != 0 then s.stepHalt.raise c v else s.stepHalt.raiseAt s.act.pc c v))
  | .ok ws =>
    match s.fetchWalked ws.length with
    | .error e => .error (s.run (.error e))
    | .ok t =>
      match decode ws with
      | .error _ => .error (.next ({ t.stepHalt with raw := ws }.raise .illegal ({ t with raw := ws }.rawVal)))
      | .ok i => .ok (t, i, ws)

/-! ### Placing an instruction -/

/-- The bytes of an instruction whose bits are w, zeros above them, 20 bytes in all (R63). -/
def placeBytes (nbits w : Nat) : List Byte := toBytes 20 (w % 2 ^ nbits)

/-- Supervisor text at PA 0x1_0000, mapped by a page of 1 GiB at VA 0 through tables at PA 0x1000 and 0x2000. -/
def placePc : Word := 0x10000
def placeTables (m : List Host.Cell) : List Host.Cell :=
  Memory.writeN (Memory.writeN m 0x1000 (toBytes 8 0x2001)) 0x2000 (toBytes 8 0x3F)

/-- The state with a supervisor activation about to fetch at placePc. -/
def State.placeSetup (s : State) : State :=
  let k := s.me
  ({ s with sched := [], mem := placeTables s.mem }).setMe
    { k with ptroot := 0x1001, running := true, halted := false, stalled := false, stopReq := false, stepping := false
             act := { (if k.running then k.act else Act.blank) with pc := placePc, sup := true, pend := none } }

/-- Whether the acting core fetches its next instruction from one known place. -/
def State.fetchKey (s : State) : Option Nat :=
  if s.sched = [] && s.me.canIssue && (s.act.pc &&& 3) == 0 && !s.me.stepping then
    match s.resolve s.cur s.act.sup .fetch s.act.pc, s.resolve s.cur s.act.sup .fetch (s.act.pc + 16) with
    | .ok k, .ok l => if l = k + 16 then some k else none
    | _, _ => none
  else none

def State.placeAt (s : State) (nbits w : Nat) : State :=
  match s.fetchKey with
  | some k => { s with mem := Memory.writeN s.mem k (placeBytes nbits w) }
  | none => { s.placeSetup with mem := Memory.writeN s.placeSetup.mem 0x10000 (placeBytes nbits w) }

end Sys2Proof.Machine
end

