-- ==== Sys2Proof/Machine/Elect.lean ====
section
/-! DEFINITION. The ELECT prefix (R83, R330). -/

namespace Sys2Proof.Machine

/-- The registers that an instruction with exactly one register result, a scalar one named by D, names; none for an
instruction that may not follow ELECT (R83). -/
def electUses (i : Insn) : Option (List RU) :=
  match i.op with
  | .add | .sub | .and | .or | .xor | .andn | .shl | .shr | .sra | .rot | .min | .max | .minu | .maxu | .slt | .sltu
  | .mul | .mulh | .mulhu | .div | .divu | .rem | .remu | .seq | .csel | .sext | .zext | .addW | .subW | .andW | .orW
  | .xorW | .andnW | .shlW | .shrW | .sraW | .rotW | .minW | .maxW | .minuW | .maxuW | .sltW | .sltuW | .mulW | .mulhW
  | .mulhuW | .divW | .divuW | .remW | .remuW | .seqW | .cselW | .sextW | .zextW | .bfx | .bfi | .lea | .fadd | .fsub
  | .fmul | .fdiv | .fmin | .fmax | .fsgnj | .fsgnjn | .fsgnjx | .fcmpeq | .fcmplt | .fcmple | .fma | .fms | .fnma
  | .fnms | .lset | .lenv | .ljoin | .lsel | .lenvn | .lprod | .lwait | .aadd | .aand | .aor | .axor | .amin | .amax
  | .aminu | .amaxu | .aswap | .afaddd | .afadds | .acas | .hostq | .chbind | .watch => some (.s i.ops.d.toNat :: .s i.ops.a.toNat :: i.ops.bRU)
  | .clz | .ctz | .popc | .brev | .bswap | .clzW | .ctzW | .popcW | .brevW | .bswapW | .addi | .andi | .ori | .xori
  | .shli | .shri | .srai | .slti | .sltiu | .fsqrt | .fclass | .frece | .frsqe | .fcvt | .fsqrtX | .lget | .lclr
  | .lhold | .lcount | .lfocus | .assume | .retire | .nogood | .commit | .lscrub | .lstat | .ld | .ldfe | .unwatch
  | .launch | .ccwait | .ccancel | .ccread | .tacqRd | .tacqWr | .tstat | .syncw | .clgo => some ([.s i.ops.d.toNat, .s i.ops.a.toNat])
  | .li => some ([.s i.ops.d.toNat])
  | .faddX | .fsubX | .fmulX | .fdivX | .tsplit | .trenew | .ringwait | .msave => some ([.s i.ops.d.toNat, .s i.ops.a.toNat, .s i.ops.b.toNat])
  | .fmaX | .fmsX | .fnmaX | .fnmsX | .topen => some ([.s i.ops.d.toNat, .s i.ops.a.toNat, .s i.ops.b.toNat, .s i.ops.c.toNat])
  | .mpopc | .mfirst | .mtos => some ([.s i.ops.d.toNat])
  | .getc => some ([.s i.ops.d.toNat])
  | _ => none

/-- LD.Q has two register results (R268). -/
def electable (i : Insn) : Option (List RU) := if i.op = .ld && i.ops.md = 4 then none else electUses i

/-- The lowest-numbered member that has not executed DONE (R330). -/
def Gang.elected (g : Gang) : Option Nat := (List.range 8).find? (fun i => g.mask.getLsbD i && !g.done.getLsbD i)

/-- A member has taken the result of a generation. -/
def State.electTaken (s : State) (k key gen member : Nat) : State :=
  let x := s.cluster k
  match fget x.gangs key with
  | none => s
  | some g =>
    match fget g.results gen with
    | none => s
    | some (v, l, t, rest) =>
      let left := rest &&& ~~~ (BitVec.ofNat 8 (2 ^ member))
      let res := if left = 0 then ferase g.results gen else fset g.results gen (v, l, t, left)
      let s1 := s.setCluster k { x with gangs := fset x.gangs key { g with results := res } }
      if left = 0 then s1.unrefC k l else s1

/-- The checks of R84 on the instruction after a prefix, from the second on: a GETC of an unlisted selector is an ILLEGAL encoding,
which is a failure of the prefix (R66, R83, R86); of the instructions that may follow it GETC alone has a form reserved to
supervisor mode, and that is checked before the registers. -/
def State.electCheck (s : State) (i : Insn) (w0 : BitVec 32) : Except (Cause × Word) Unit :=
  let bad : Except (Cause × Word) Unit := .error (.illegal, (w0.setWidth 64 <<< 32) ||| 0x16000000)
  match electable i with
  | none => bad
  | some ru =>
    let n := i.ops.imm.toNat
    if i.op = .getc && !selKnown s.act.trap.isSome n then bad
    else if i.op = .getc && selPriv n && !s.act.sup then .error (.priv, w0.setWidth 64)
    else match s.regs (if i.op = .getc && 0xC0 ≤ n && decide (8 * s.act.sa.toNat ≤ n % 64) then ru ++ [.s (n % 64)] else ru) with
      | .error (.trap c v) => .error (c, v)
      | _ => .ok ()

/-- The prefix: alone, the instruction executes as if there were none; in a gang, the elected member executes it, and every
other takes its result or waits for it (R330). The elected member does not wait for members that have not come yet, as the steps of R330
have it; its last sentence could be read otherwise (DESIGN CHOICE, log 62). -/
def State.electRes (s : State) : Except (Cause × Word) State :=
  let a := s.act
  let bad (w : Word) : Except (Cause × Word) State := .error (.illegal, (w <<< 32) ||| 0x16000000)
  match s.fetchWord (a.pc + 4) with
  | .error e => .error e
  | .ok w0 =>
    match s.fetchFrom (a.pc + 4) (wordCount w0) with
    | .error e => .error e
    | .ok ws =>
      match decode ws with
      | .error _ => bad (w0.setWidth 64)
      | .ok i =>
        match s.electCheck i w0 with
        | .error e => .error e
        | .ok _ =>
            let go (p : Option Nat) : State := s.setAct { a with pc := a.pc + 4, elect := some p }
            match a.gang with
            | none => .ok (go none)
            | some key =>
              match s.asMarker with
              | .error (.final t) => .ok t
              | .error _ => .ok s
              | .ok _ =>
                match fget s.myCluster.gangs key with
                | none => .ok (go none)
                | some g =>
                  let npc := a.pc + 4 + BitVec.ofNat 64 (4 * ws.length)
                  match fget g.results a.electGen with
                  | some (v, l, t, _) =>
                    let s1 := s.setAct { a with floor := tmax a.floor t, electGen := a.electGen + 1, pc := npc }
                    .ok ((s1.writeS i.ops.d v l).electTaken s.cl key a.electGen (s.cur % 8))
                  | none =>
                    if g.elected = some (s.cur % 8) then .ok (go (some key))
                    else .ok (s.park (.elect i.ops.d) npc)

def execElect (s : State) : Host.Outcome State Fault Refusal :=
  match s.electRes with
  | .ok t => .next t
  | .error (c, v) => .next (s.raise c v)

/-- Member k of the gang of key m on cluster n, parked at ELECT: it takes the result of its generation; or, elected, it
executes the prefixed instruction next (R330). -/
def execElectExecute (s : State) : Host.Outcome State Fault Refusal :=
  let c := 8 * s.arg.n + s.arg.k % 8
  .next (match fget (s.cluster s.arg.n).gangs s.arg.m,
      (s.core c).parked.find? (fun a => a.gang == some s.arg.m && (match a.park with | some (.elect _) => true | _ => false)) with
    | some g, some a =>
      match fget g.results a.electGen, a.park with
      | some (v, l, t, _), some (.elect d) =>
        let s1 := (s.setCore c ((s.core c).putSlot a.slot { a with elect := none, electGen := a.electGen + 1 })).resumeWith false c a.slot (some (d, v, l)) (some t)
        s1.electTaken s.arg.n s.arg.m a.electGen (c % 8)
      | _, _ =>
        if g.elected = some (c % 8) && a.electGen = g.electGen then
          s.wake c a.slot (fun b => { b with pc := b.pc + 4, elect := some (some s.arg.m) })
        else s
    | _, _ => s)

end Sys2Proof.Machine
end

