-- ==== Sys2Proof/Machine/Eret.lean ====
section
/-! DEFINITION. The return from a trap handler (R339, R357, R363). -/

namespace Sys2Proof.Machine

/-- A recorded access is performed again, with the conditions of its issue (R355, R357). A vector load from an element on may
land in part, with the fault of the next element. -/
def State.perform (s : State) (op : LOp) (iss : Issue) : Res (State × List RegWrite × Word × Option (Cause × Word × Nat)) :=
  let whole (r : Res (State × List RegWrite × Word)) : Res (State × List RegWrite × Word × Option (Cause × Word × Nat)) :=
    match r with
    | .ok (t, ws, f) => .ok (t, ws, f, none)
    | .error e => .error e
  match op with
  | .arith => .ok (s, [], 0, none)
  | .load x n sext d la => whole (s.doLoad iss x n sext d la)
  | .loadQ x d la => whole (s.doLoadQ iss x d la)
  | .ldfe x d la => whole (s.doLdfe iss x d la)
  | .store x bytes l fe => whole (s.doStore x bytes l fe)
  | .atom o x d b b1 e e1 la ls => whole (s.doAtom iss o x d b b1 e e1 la ls)
  | .vload x ew mask d pre mkl => whole (s.doVload iss x ew mask d pre mkl)
  | .vgather xs ew mask d pre mkl j => s.doGather iss xs ew mask d pre mkl j
  | .vscatter xs ew mask data pre mkl j => s.doScatter iss xs ew mask data pre mkl j
  | .vstore x ew mask data pre mkl => whole (s.doVstore iss x ew mask data pre mkl)
  | .tile h offs dim ew mask d pre mkl => whole (s.doVldt iss h offs dim ew mask d pre mkl)
  | .clgo x d la => whole (s.doClgo iss x d la)
  | .ringwait x _ d ls => whole (s.waitLoad iss (x + 16) 8 d ls)
  | .syncw x _ d ls => whole (s.waitLoad iss (x + 8) 4 d ls)

/-- The rest of a long vector access whose element j has faulted. -/
def LOp.from_ (op : LOp) (j : Nat) : LOp :=
  match op with
  | .vgather xs ew mask d pre mkl _ => .vgather xs ew mask d pre mkl j
  | .vscatter xs ew mask data pre mkl _ => .vscatter xs ew mask data pre mkl j
  | o => o

/-- Completion of a long vector access sets PIX to 0 (R175, R359). -/
def State.setPix0 (s : State) (op : LOp) : State :=
  match op with
  | .vgather .. | .vscatter .. => s.setAct { s.act with pix := 0 }
  | _ => s

/-- The entries of the list in program order: what lands is left outstanding, what faults again stays (R357). None: an access
waits for a release (R256). -/
def State.reperform (s : State) : List Deferred → Option State
  | [] => some s
  | d :: l =>
    match s.perform d.op d.iss with
    | .error e =>
      match s.faulted e (fun t c v => .ok (t.setAct { t.act with deferred := t.act.deferred ++ [{ d with cause := c, xval := v }] })) with
      | .ok t => t.reperform l
      | .error _ => none
    | .ok (t, ws, f, none) => (((t.leave ⟨d.op, d.iss, ws, f⟩).setPix0 d.op).unrefAll s.cl d.labs).reperform l
    | .ok (t, ws, f, some (c, v, j)) =>
      let t1 := t.refAll t.cl (ws.flatMap RegWrite.labs)
      (t1.setAct { t1.act with deferred := t1.act.deferred ++
        [{ d with op := d.op.from_ j, cause := c, xval := v, part := ws.head?, pflags := f }] }).reperform l

/-- The wait of a recorded LDFE whose word is empty, or of a recorded RINGWAIT or SYNCW whose word has not changed: its re-performance
waits as the instruction did (R270, R288). -/
def State.emptyWait (s : State) (sup : Bool) (ds : List Deferred) : Option Park :=
  let same (x : Word) (n old : Nat) : Option Park := match s.peek s.cur sup x n with
    | .ok h => if h = old then some (.waitAgain x n old) else none
    | .error _ => none
  ds.findSome? (fun d => match d.op with
    | .ldfe x _ _ => (match s.feState s.cur sup x with | .ok false => some (.ldfeAgain x) | _ => none)
    | .ringwait x old _ _ => same (x + 16) 8 old.toNat
    | .syncw x old _ _ => same (x + 8) 4 old.toNat
    | _ => none)

/-- The entry that was delivered goes on from the element that PIX names when the handler returns (R175, R184, R359). -/
def atPix (j : Nat) : List Deferred → List Deferred
  | [] => []
  | d :: l => { d with op := d.op.from_ j } :: l

/-- The handler's own state goes, and the activation has its mode, control label and stack again (R339). -/
def State.leaveHandler (s : State) (t : TrapSave) : State :=
  let a := s.act
  (s.unrefAll s.cl (t.shadow.toList.map (·.lab) ++ (a.clab :: a.cstack))).setAct
    { a with sup := t.sup, clab := t.clab, cstack := t.cstack, trap := none, dfr := false, deferred := [] }

/-- The return from a trap (R339, R357). -/
def State.eretRes (s : State) : Res State :=
  match s.act.trap with
  | none => s.illegal
  | some t =>
    match s.asMarker with
    | .error e => .error e
    | .ok _ =>
      match (if s.act.dfr then s.emptyWait t.sup t.deferred else none) with
      | some p => .error (.final (s.park p s.act.pc))
      | none =>
      let u := (s.setMe { s.me with stallSince := none, twait := false }).leaveHandler t
      if s.act.dfr then
        let u1 := u.setMe { u.me with twait := s.me.twait }
        match u1.reperform (atPix s.pixElem t.deferred) with
        | none => .error .stall
        | some v => .error (.final ((v.setMe { v.me with twait := false, act := { v.act with pc := s.me.xrpc } }).marker))
      else
        let v := u.setAct { u.act with pc := s.me.xpc, deferred := t.deferred }
        .error (.final (if s.inStop then v.marker else v))

def execEret (s : State) : Host.Outcome State Fault Refusal := s.run s.eretRes

end Sys2Proof.Machine
end

