-- ==== Sys2Proof/Machine/Flow.lean ====
section
/-! DEFINITION. Masks (R176), branches, jumps and loops (R177 to R180). -/

namespace Sys2Proof.Machine

/-! ### Masks (R176) -/

/-- A mask result: its label is the product of the source labels and CLAB. -/
def State.maskTo (s : State) (srcs : List Reg) (v : Word) : Res State :=
  match s.product (srcs.map (·.lab) ++ [s.act.clab]) with
  | .error e => .error e
  | .ok (t, l, lf) => .ok ((t.writeM s.ir.kd v l).orFlags lf)

def State.mask2 (s : State) (f : Word → Word → Word) : Res State :=
  s.maskTo [s.act.rdM s.ir.ka, s.act.rdM s.ir.kb] (f (s.act.rdM s.ir.ka).val (s.act.rdM s.ir.kb).val)

/-- A scalar result from one mask. -/
def State.maskS (s : State) (f : Word → Word) : Res State :=
  s.scalar [] [s.act.rdM s.ir.ka] (f (s.act.rdM s.ir.ka).val, 0)

/-- The index of the lowest set bit, or 64 (R176). -/
def firstBit (a : Word) : Nat := ((List.range 64).find? (fun i => a.getLsbD i)).getD 64

def execMand (s : State) : Host.Outcome State Fault Refusal := s.run (s.mask2 (fun a b => a &&& b))
def execMor (s : State) : Host.Outcome State Fault Refusal := s.run (s.mask2 (fun a b => a ||| b))
def execMxor (s : State) : Host.Outcome State Fault Refusal := s.run (s.mask2 (fun a b => a ^^^ b))
def execMandn (s : State) : Host.Outcome State Fault Refusal := s.run (s.mask2 (fun a b => a &&& ~~~ b))
def execMnot (s : State) : Host.Outcome State Fault Refusal :=
  s.run (s.maskTo [s.act.rdM s.ir.ka] (~~~ (s.act.rdM s.ir.ka).val))
def execMpopc (s : State) : Host.Outcome State Fault Refusal := s.run (s.maskS (fun a => BitVec.ofNat 64 (popCount a)))
def execMfirst (s : State) : Host.Outcome State Fault Refusal := s.run (s.maskS (fun a => BitVec.ofNat 64 (firstBit a)))
def execMtos (s : State) : Host.Outcome State Fault Refusal := s.run (s.maskS (fun a => a))
def execStom (s : State) : Host.Outcome State Fault Refusal :=
  s.run (match s.regs [.s s.ir.a.toNat] with
    | .error e => .error e
    | .ok _ => s.maskTo [s.act.rd s.ir.a] (s.act.rd s.ir.a).val)

/-! ### Branches (R137, R177) -/

/-- The labels that decide a transfer enter CLAB (R137). -/
def State.joinClab (s : State) (hs : List Handle) : Res State :=
  match s.product hs with
  | .error e => .error e
  | .ok (t, p, f) =>
    if p = hTRUE then .ok s
    else match t.product [t.act.clab, p] with
      | .error e => .error e
      | .ok (u, c, g) => .ok (((u.writeClab c).dropTmp p).orFlags ((f ||| g) &&& flagLW))

/-- A conditional transfer: it goes to PC + 4 OFF10 when the condition holds, and its labels enter CLAB either way. -/
def State.branch (s : State) (ru : List RU) (srcs : List Reg) (taken : Bool) : Res (State × Word) :=
  match s.regs ru with
  | .error e => .error e
  | .ok _ =>
    match s.noPoison srcs with
    | .error e => .error e
    | .ok _ =>
      match s.joinClab (srcs.map (·.lab)) with
      | .error e => .error e
      | .ok t => .ok (t, if taken then s.act.pc + s.ir.off10 else s.npc)

def State.branch2 (s : State) (c : Word → Word → Bool) : Res (State × Word) :=
  s.branch [.s s.ir.a.toNat, .s s.ir.b.toNat] [s.act.rd s.ir.a, s.act.rd s.ir.b] (c (s.act.rd s.ir.a).val (s.act.rd s.ir.b).val)

def execBeq (s : State) : Host.Outcome State Fault Refusal := s.runTo (s.branch2 (fun a b => a == b))
def execBne (s : State) : Host.Outcome State Fault Refusal := s.runTo (s.branch2 (fun a b => a != b))
def execBlt (s : State) : Host.Outcome State Fault Refusal := s.runTo (s.branch2 (fun a b => a.slt b))
def execBge (s : State) : Host.Outcome State Fault Refusal := s.runTo (s.branch2 (fun a b => !a.slt b))
def execBltu (s : State) : Host.Outcome State Fault Refusal := s.runTo (s.branch2 (fun a b => a.ult b))
def execBgeu (s : State) : Host.Outcome State Fault Refusal := s.runTo (s.branch2 (fun a b => !a.ult b))
def execBmany (s : State) : Host.Outcome State Fault Refusal :=
  s.runTo (s.branch [] [s.act.rdM s.ir.ka] ((s.act.rdM s.ir.ka).val != 0))
def execBmnone (s : State) : Host.Outcome State Fault Refusal :=
  s.runTo (s.branch [] [s.act.rdM s.ir.ka] ((s.act.rdM s.ir.ka).val == 0))

/-! ### Jumps (R178, R179) -/

def execJ (s : State) : Host.Outcome State Fault Refusal := s.runTo (.ok (s, s.act.pc + s.ir.off22))

/-- A register takes the address after the transfer, with CLAB as its label. -/
def State.link (s : State) (d : BitVec 6) : State := (s.writeS d (s.act.pc + 4) s.act.clab).orFlags (s.psOf s.act.clab)

/-- CALL writes s63 (R32, R178). -/
def execCall (s : State) : Host.Outcome State Fault Refusal :=
  s.runTo (match s.regs [.s 63] with
    | .error e => .error e
    | .ok _ =>
      match s.freeS 63 with
      | .error e => .error e
      | .ok _ => .ok (s.link 63, s.act.pc + s.ir.off22))

def execJr (s : State) : Host.Outcome State Fault Refusal :=
  s.runTo (match s.regs [.s s.ir.d.toNat, .s s.ir.a.toNat] with
    | .error e => .error e
    | .ok _ =>
      match s.freeS s.ir.d with
      | .error e => .error e
      | .ok _ =>
        match s.notPoison (s.act.rd s.ir.a) with
        | .error e => .error e
        | .ok _ =>
          match s.joinClab [(s.act.rd s.ir.a).lab] with
          | .error e => .error e
          | .ok t => .ok (t.link s.ir.d, (s.act.rd s.ir.a).val))

/-- LOOP (R180). -/
def State.loopRes (s : State) : Res (State × Word) :=
  let a := s.act.rd s.ir.a
  match s.regs [.s s.ir.a.toNat] with
  | .error e => .error e
  | .ok _ =>
    match s.freeS s.ir.a with
    | .error e => .error e
    | .ok _ =>
      match s.notPoison a with
      | .error e => .error e
      | .ok _ =>
        match s.joinClab [a.lab] with
        | .error e => .error e
        | .ok t =>
          if a.val = 0 then .ok (t, s.npc)
          else match t.product [a.lab, t.act.clab] with
            | .error e => .error e
            | .ok (u, l, f) =>
              .ok ((u.writeS s.ir.a (a.val - 1) l).orFlags f, if a.val - 1 != 0 then s.act.pc + s.ir.off10 else s.npc)

def execLoop (s : State) : Host.Outcome State Fault Refusal := s.runTo s.loopRes

end Sys2Proof.Machine
end

