-- ==== Sys2Proof/Machine/Mxe.lean ====
section
/-! DEFINITION. The matrix engine of a cluster (R203 to R217, R109 to R113): acceptance, grants by chunks, completion, faults and
MWAIT. -/

namespace Sys2Proof.Machine

/-! ### The geometry of a command (R208) -/

def MxCmd.k0 (m : MxCmd) : Nat := m.ctl.toNat % 2 ^ 24
def MxCmd.kn (m : MxCmd) : Nat := m.ctl.toNat / 2 ^ 24 % 2 ^ 24
/-- Dimension of K and of the rows of A, of K and of the columns of B. -/
def MxCmd.ka (m : MxCmd) : Nat := if m.ctl.getLsbD 48 then 1 else 0
def MxCmd.ra (m : MxCmd) : Nat := 1 - m.ka
def MxCmd.kb (m : MxCmd) : Nat := if m.ctl.getLsbD 49 then 0 else 1
def MxCmd.cb (m : MxCmd) : Nat := 1 - m.kb

/-- Extent of a box along a dimension; an absent one has extent 1. -/
def bExt1 (o : Operand) (i : Nat) : Nat := if tExt o.rcd i = 0 then 1 else bExt o.box i
/-- Rows of A and columns of B that the command uses. -/
def MxCmd.rows (m : MxCmd) : Nat := Nat.min 32 (bExt1 m.a m.ra)
def MxCmd.cols (m : MxCmd) : Nat := Nat.min 32 (bExt1 m.b m.cb)

/-- Offsets into a box: row or column r, K position p. -/
def mxOffs (kd : Nat) (k0 p r : Nat) : List Int := (List.range 4).map (fun i => if i = kd then (k0 + p : Int) else if i = 1 - kd then (r : Int) else 0)

def MxCmd.coordA (m : MxCmd) (p r : Nat) : List Int := boxAt m.a.box (mxOffs m.ka m.k0 p r)
def MxCmd.coordB (m : MxCmd) (p r : Nat) : List Int := boxAt m.b.box (mxOffs m.kb m.k0 p r)

/-- Operands of narrow and INT8 formats are taken by chunks (R110). -/
def MxCmd.chunked (m : MxCmd) : Bool := tFmt m.a.rcd == 6 || tFmt m.a.rcd == 4
/-- The K coordinate of A at a position. -/
def MxCmd.kCoord (m : MxCmd) (p : Nat) : Int := bOrg m.a.box m.ka + (m.k0 + p)

/-- The end of the chunk, or of the single position, that begins at p. -/
def MxCmd.unitEnd (m : MxCmd) (p : Nat) : Nat :=
  if m.chunked then Nat.min m.kn (p + (12 - (m.kCoord p).emod 12).toNat) else p + 1

/-- The end of the grant that begins at p (R204). -/
def MxCmd.grantEnd (m : MxCmd) (p : Nat) : Nat :=
  if m.kn ≤ p + 48 then m.kn
  else if m.chunked then p + 48 - ((m.kCoord (p + 48)).emod 12).toNat
  else p + 48

/-! ### Acceptance (R203, R209) -/

/-- The first position of a box that lies outside the tensor, as the offsets of R274. -/
def firstOutside (o : Operand) (at_ : Nat → Nat → List Int) (offs : Nat → Nat → List Int) (kn rows : Nat) : Option Word :=
  if tPermit o.rcd then none
  else (List.range kn).findSome? (fun p => (List.range rows).findSome? (fun r =>
    if (tInside o.rcd (at_ p r)).isNone then some (packOffsets (offs p r)) else none))

/-- The pairs of formats that the MXE takes (R209). -/
def mxFormats (a b : Line) : Bool := tFmt a == tFmt b && [1, 2, 3, 4, 6].contains (tFmt a)

/-- The handle of an operand with the tenure that R209 asks for. -/
def State.mxHandle (s : State) (h : Word) : Res Operand :=
  match s.useHandle h with
  | .error e => .error e
  | .ok (i, e) => .ok { rcd := e.rcd, box := e.box, handle := some i }
def State.mxTenure (s : State) (h : Word) (o : Operand) : Res Unit :=
  match o.handle with
  | none => .ok ()
  | some i => let e := s.thandle i; if e.kind = 0 || e.holder != s.cl then trapped .prot h else .ok ()

/-- The checks of R209 after those of the handles. -/
def State.mxChecks (s : State) (m : MxCmd) (sparse : Bool) : Res Unit :=
  let a := m.a.rcd
  let b := m.b.rcd
  let sa := tKeep a != 0
  let sb := tKeep b != 0
  let scaled := tBlockLen a != 0 || tBlockLen b != 0
  if (m.ctl >>> 50) != 0 || m.kn = 0 || a = 0 || b = 0 || !mxFormats a b then s.illegal
  else if !sparse && (sa || sb) then s.illegal
  else if sparse && (sa == sb || (sa && tSpdim a != m.ka) || (sb && tSpdim b != m.kb)) then s.illegal
  else if m.chunked && (scaled || sa || sb) && (bOrg m.a.box m.ka - bOrg m.b.box m.kb).emod 12 != 0 then s.illegal
  else if bExt1 m.a m.ka < m.k0 + m.kn || bExt1 m.b m.kb < m.k0 + m.kn then trapped .bounds m.ctl
  else match firstOutside m.a m.coordA (mxOffs m.ka m.k0) m.kn m.rows with
    | some x => trapped .bounds x
    | none => match firstOutside m.b m.coordB (mxOffs m.kb m.k0) m.kn m.cols with
      | some x => trapped .bounds x
      | none => .ok ()

/-- Whether a command is an MMA or MMAS. -/
def MxCmd.multiplies (m : MxCmd) : Bool := m.kind == .mma || m.kind == .mmas

/-- A command is discarded after the fault of an earlier one: the fault's XVAL counts it in its eight bits; what a count
above 255 shows is open, and the model keeps it modulo 2^8 (R216; DESIGN CHOICE, log 52). -/
def Accum.discarded (a : Accum) : Accum :=
  let add (v : Word) : Word :=
    let n : Word := (v >>> 32) + 1
    (v &&& ~~~ (0xFF00000000 : Word)) ||| ((n &&& 0xFF) <<< 32)
  { a with pend := a.pend.map (fun p => (p.1, add p.2)) }

def State.acc (s : State) (k : Nat) (i : BitVec 4) : Accum := (s.cluster k).accs[i.toNat]'i.isLt
def State.setAcc (s : State) (k : Nat) (i : BitVec 4) (a : Accum) : State :=
  let c := s.cluster k
  s.setCluster k { c with accs := c.accs.set i.toNat a i.isLt }

def State.mxq (s : State) (k q : Nat) : MxQueue := (s.cluster k).mxq.toList.getD q {}
def State.setMxq (s : State) (k q : Nat) (x : MxQueue) : State :=
  let c := s.cluster k
  s.setCluster k { c with mxq := c.mxq.setIfInBounds q x }

/-- A command enters the core's queue with references to its labels; with the shadow full the core stalls (R203). A queue that
holds a fault discards it, and so is a cancelled activation's, which leaves V at 1 (R216, R306). -/
def State.mxAccept (s : State) (m : MxCmd) : Res State :=
  let q := s.mxq s.cl (s.cur % 8)
  let held : State := (s.refC s.cl m.lab).refC s.cl m.lab2
  match q.fault with
  | some i => .ok (s.setAcc s.cl i (s.acc s.cl i).discarded)
  | none =>
    if s.act.cancelled then .ok (s.setAcc s.cl m.acc { s.acc s.cl m.acc with v := true })
    else match q.active, q.shadow with
      | none, _ => .ok (held.setMxq s.cl (s.cur % 8) { q with active := some m })
      | some _, none => .ok (held.setMxq s.cl (s.cur % 8) { q with shadow := some m })
      | some _, some _ => .error .stall

/-- A command of the running activation on the accumulator of D. -/
def State.mxNew (s : State) (kind : MxKind) : MxCmd :=
  { kind := kind, acc := s.ir.acc, core := s.cur, aid := s.act.aid, tslot := s.me.tslot, sup := s.act.sup }

def State.mmaRes (s : State) (sparse : Bool) : Res State :=
  let a := s.act.rd s.ir.a
  let b := s.act.rd s.ir.b
  let c := s.act.rd s.ir.c
  let e := s.act.rd s.ir.e
  let useE := sparse && s.ir.e != 0
  match s.regs ([.a s.ir.d.toNat, .s s.ir.a.toNat, .s s.ir.b.toNat, .s s.ir.c.toNat] ++ (if useE then [.s s.ir.e.toNat] else [])) with
  | .error x => .error x
  | .ok _ => match s.noPoison ([a, b] ++ (if useE then [e] else [])) with
    | .error x => .error x
    | .ok _ => match s.mxHandle a.val with
      | .error x => .error x
      | .ok oa => match s.mxHandle b.val with
        | .error x => .error x
        | .ok ob => match s.mxTenure a.val oa with
          | .error x => .error x
          | .ok _ => match s.mxTenure b.val ob with
            | .error x => .error x
            | .ok _ =>
              let m := { s.mxNew (if sparse then .mmas else .mma) with a := oa, b := ob, ctl := c.val, metaW := if useE then some e.val else none }
              match s.mxChecks m sparse with
              | .error x => .error x
              | .ok _ => match s.product ([a.lab, b.lab, c.lab] ++ (if useE then [e.lab] else []) ++ [s.act.clab]) with
                | .error x => .error x
                | .ok (t, l, f) => match t.mxAccept { m with lab := l } with
                  | .error x => .error x
                  | .ok u => .ok (u.orFlags (f &&& flagLW))

def execMma (s : State) : Host.Outcome State Fault Refusal := s.run (s.mmaRes false)
def execMmas (s : State) : Host.Outcome State Fault Refusal := s.run (s.mmaRes true)

def execMzero (s : State) : Host.Outcome State Fault Refusal :=
  s.run (match s.regs [.a s.ir.d.toNat] with
    | .error e => .error e
    | .ok _ => s.mxAccept { s.mxNew .mzero with lab := s.act.clab })

/-- MLOAD and MSTORE: the range is translated at issue, by walks that take their times (R213, R238). -/
def State.mxMem (s : State) (kind : MxKind) (k : Kind) : Res State :=
  let a := s.act.rd s.ir.a
  match s.regs [.a s.ir.d.toNat, .s s.ir.a.toNat] with
  | .error e => .error e
  | .ok _ => match s.noPoison [a] with
    | .error e => .error e
    | .ok _ => match s.pieces s.cur s.act.sup k a.val 4096 with
      | .error (c, v) => .error (.access a.val c v)
      | .ok ps => match s.walks none ps with
        | .error e => .error e
        | .ok t => t.mxAccept { s.mxNew kind with
          addr := a.val, lab := a.lab, lab2 := s.act.clab, spans := ps.map (fun p => (p.key, p.off, p.len)), lines := stampedLines ps }

def execMload (s : State) : Host.Outcome State Fault Refusal := s.run (s.mxMem .mload .rd)
def execMstore (s : State) : Host.Outcome State Fault Refusal := s.run (s.mxMem .mstore .wr)

/-! ### Sums (R109 to R111) -/

/-- The value of a narrow element; one under the NaR scale is NaR (R102). -/
def narrowVal (r : Line) (e : Elem) : FVal :=
  if !e.inside || e.pruned then .num false 0 0 else if e.scale = 0xFF then .nan false else (tNarrow r).decode e.code

/-- What the elements of a chunk come to before their scales: the accumulator's new value where the scales do not matter, or the
exact sum v as an integer and the exponent of its unit (R110). -/
inductive Chunk where
  | done (acc : Nat)
  | sum (v : Int) (e : Int)
  deriving DecidableEq, Repr

/-- One chunk of R110 on one accumulator element: the pairs of values at the kept positions. -/
def chunkForm (acc : Nat) (ps : List (FVal × FVal)) : Chunk :=
  let S := fmtOf .s
  let prods := ps.map (fun p => match p.1, p.2 with
    | .num n1 m1 e1, .num n2 m2 e2 => some (n1 != n2, m1 * m2, e1 + e2)
    | _, _ => none)
  if (S.decode acc).isNan then .done acc
  else if prods.any (·.isNone) then .done S.canonNan
  else
    let nz := (prods.filterMap id).filter (fun p => p.2.1 != 0)
    match nz.map (fun p => (nlog2 p.2.1 : Int) + p.2.2) with
    | [] => .done acc
    | t :: ts =>
      let top := ts.foldl (fun a b => if a < b then b else a) t
      let parts := nz.map (fun p =>
        let (q, rem, _) := scaleTo p.2.1 p.2.2 (top - 64)
        ((if p.1 then -(q : Int) else (q : Int)), rem != 0))
      let sum : Int := (parts.map (·.1)).sum
      if sum = 0 then .done acc
      else
        let st : Int := if parts.any (·.2) then 1 else 0
        .sum (2 * sum + (if sum < 0 then -st else st)) (top - 65)

/-- The accumulator after a chunk under the scale codes of A and B, with one rounding, and the flags (R110). -/
def chunkSum (acc : Nat) (ps : List (FVal × FVal)) (sa sb : Nat) : Nat × Word :=
  match chunkForm acc ps with
  | .done a => (a, 0)
  | .sum v e =>
    let S := fmtOf .s
    let r := fAdd 0 (S.decode acc) (.num (decide (v < 0)) v.natAbs (e + ((sa : Int) - 127) + ((sb : Int) - 127)))
    let y := S.round 0 0 r.1
    (y.1, r.2 ||| y.2)

/-- The scale code of a row over a chunk; none when the chunk's elements do not share one (log 28). -/
def chunkScale (es : List Elem) : Option Nat :=
  match es.filter (fun e => e.inside) with
  | [] => some 0x7F
  | e :: l => if l.all (fun x => x.scale == e.scale) then some e.scale else none

/-- A value and its scale code, as Config takes it. -/
def mixedKey (v : FVal) (scale : Nat) : Bool × Nat × Int × Nat :=
  match v with
  | .num n k e => (n, k, e, scale)
  | _ => (false, 0, 0, scale)

/-- One accumulator element over the positions of a unit: a row of A's elements and a column of B's. Where the elements of a chunk
do not share one scale code, R110 gives what does not depend on the scales, a NaN, a NaR and a sum of zero; any other sum and its
flags are a free function of the operands, so that every run gives the same (R5; DESIGN CHOICE, log 28). -/
def mxElem (m : MxCmd) (acc : Nat) (ea eb : List Elem) : Nat × Word :=
  let kept := (ea.zip eb).filter (fun p => !p.1.pruned && !p.2.pruned)
  match tFmt m.a.rcd with
  | 4 =>
    let sum : Int := (kept.map (fun p => (BitVec.ofNat 8 p.1.code).toInt * (BitVec.ofNat 8 p.2.code).toInt)).sum
    (((acc : Int) + sum).emod (2 ^ 32) |>.toNat, 0)
  | 6 =>
    let ps := kept.map (fun p => (narrowVal m.a.rcd p.1, narrowVal m.b.rcd p.2))
    match chunkScale ea, chunkScale eb with
    | some sa, some sb => chunkSum acc ps sa sb
    | _, _ => match chunkForm acc ps with
      | .done a => (a, 0)
      | .sum _ _ =>
        let r := Config.mixedChunk (BitVec.ofNat 32 acc) ((kept.zip ps).map (fun q => (mixedKey q.2.1 q.1.1.scale, mixedKey q.2.2 q.1.2.scale)))
        (r.1.toNat, r.2.setWidth 64 <<< 10)
  | f =>
    let w := fmtOf (if f = 1 then .s else if f = 2 then .h else .bf)
    kept.foldl (fun a p =>
      let x := fMulAdd 0 false false (if p.1.inside then w.decode p.1.code else .num false 0 0) (if p.2.inside then w.decode p.2.code else .num false 0 0) ((fmtOf .s).decode a.1)
      let y := (fmtOf .s).round 0 0 x.1
      (y.1, a.2 ||| x.2 ||| y.2)) (acc, 0)

/-! ### Grants (R204, R210, R212) -/

/-- The elements of one position: every row of A, or every column of B. -/
def State.mxLine (s : State) (m : MxCmd) (o : Operand) (metaW : Option Word) (at_ : Nat → List Int) : List Nat → Except (Cause × Word) (List Elem)
  | [] => .ok []
  | r :: l => match s.elemOf m.core m.sup m.tslot.toNat o metaW (at_ r) with
    | .error e => .error e
    | .ok x => match s.mxLine m o metaW at_ l with
      | .error e => .error e
      | .ok xs => .ok (x :: xs)

def State.mxBlock (s : State) (m : MxCmd) : List Nat → Except (Cause × Word) (List (List Elem × List Elem))
  | [] => .ok []
  | p :: l =>
    match s.mxLine m m.a (if tKeep m.a.rcd = 0 then none else m.metaW) (m.coordA p) (List.range m.rows) with
    | .error e => .error e
    | .ok a => match s.mxLine m m.b (if tKeep m.b.rcd = 0 then none else m.metaW) (m.coordB p) (List.range m.cols) with
      | .error e => .error e
      | .ok b => match s.mxBlock m l with
        | .error e => .error e
        | .ok t => .ok ((a, b) :: t)

/-- Granules in rising address order, each once. -/
def sortGrans (l : List (Word × Nat × View)) : List (Word × Nat × View) :=
  l.foldl (fun acc g => if acc.any (fun h => h.2.1 == g.2.1) then acc
    else acc.takeWhile (fun h => h.1.toNat < g.1.toNat) ++ g :: acc.dropWhile (fun h => h.1.toNat < g.1.toNat)) []

/-- The tags of the positions in the order of R212. -/
def State.mxTags (s : State) (ps : List (List Elem × List Elem)) : List LSrc :=
  ps.flatMap (fun p => (sortGrans (p.1.flatMap (·.grans)) ++ sortGrans (p.2.flatMap (·.grans))).map (fun g => s.tagSrc g.2.2 (g.2.1 * 16)))

/-- An accumulator's label changes (R124). -/
def State.accLab (s : State) (k : Nat) (i : BitVec 4) (l : Handle) : State :=
  let s1 := (s.refC k l).unrefC k (s.acc k i).lab
  s1.setAcc k i { s1.acc k i with lab := l }

/-- Flags go to the pending flags of an accumulator (R206). -/
def State.pendFlags (s : State) (k : Nat) (i : BitVec 4) (f : Word) : State :=
  let a := s.acc k i
  s.setAcc k i { a with pfl := a.pfl ||| (f >>> 8).setWidth 9 }

/-- An accumulator takes the label of a result, and the label flags go to its pending flags: LW, and PS where it is POISON (R142, R212). -/
def State.accResult (s : State) (k : Nat) (i : BitVec 4) (l : Handle) (f : Word) : State :=
  (s.accLab k i l).pendFlags k i (f ||| (if s.poisonAt k l then flagPS else 0))

/-- Element (i, j) of an accumulator. -/
def Accum.elem (a : Accum) (i j : Nat) : Nat := (a.vals.getD (32 * i + j) 0).toNat

/-- One unit of a command, whole: its sums and its label, or the fault (R110, R112, R212, R216). -/
def State.mxUnit (s : State) (m : MxCmd) (p : Nat) : Except (Cause × Word) State :=
  let k := m.core / 8
  match s.mxBlock m ((List.range (m.unitEnd p - p)).map (fun i => p + i)) with
  | .error e => .error e
  | .ok ps =>
    let a := s.acc k m.acc
    let first := if p = 0 then [LSrc.h m.lab] else []
    match (s.on m.core).productW (.h a.lab :: first ++ (s.on m.core).mxTags ps) with
    | none => .error (.ltfull, 0)
    | some (t, l, lf) =>
      let res := (List.range 1024).map (fun x =>
        let i := x / 32
        let j := x % 32
        if i < m.rows && j < m.cols then
          mxElem m (a.elem i j) (ps.map (fun q => q.1.getD i {})) (ps.map (fun q => q.2.getD j {}))
        else (a.elem i j, 0))
      let u := t.accResult k m.acc l (res.foldl (fun f r => f ||| r.2) lf)
      .ok ((u.setAcc k m.acc { u.acc k m.acc with vals := res.map (fun r => BitVec.ofNat 32 r.1), kdone := m.unitEnd p, v := true }).on s.cur)

/-- A core's pending releases of accumulators take effect once no command names them (R43). -/
def State.accFree (s : State) (c : Nat) : State :=
  let k := s.core c
  let free : BitVec 16 := BitVec.ofNat 16 (((List.range 16).filter (fun i =>
    k.accRel.getLsbD i && !(s.cluster (c / 8)).names c (BitVec.ofNat 4 i))).map (2 ^ ·)).sum
  if free = 0 then s else s.setCore c { k with accmap := k.accmap &&& ~~~ free, accRel := k.accRel &&& ~~~ free }

/-- A command leaves its queue. -/
def State.mxDrop (s : State) (m : MxCmd) : State := ((s.unrefC (m.core / 8) m.lab).unrefC (m.core / 8) m.lab2)

/-- The grant in progress, when it is queue q's, is over: its pins are released (R211). -/
def State.grantOver (s : State) (k q : Nat) : State :=
  if (s.cluster k).mxTurn = q then s.setCluster k { s.cluster k with mxEnd := 0 } else s

/-- The active command of a queue ends; the shadow becomes active, and stalled cores try again (R203). -/
def State.mxSwap (s : State) (k q : Nat) (m : MxCmd) : State :=
  (((s.mxDrop m).setMxq k q { s.mxq k q with active := (s.mxq k q).shadow, shadow := none }).grantOver k q).accFree m.core |>.unstall

/-- A fault after acceptance: the queue's later commands are discarded, those accepted before the MWAIT too, and the next MWAIT that
names the accumulator raises it (R216). V is 1, and KDONE is what this command has done: nothing for one that does not multiply. -/
def State.mxFault (s : State) (k q : Nat) (m : MxCmd) (c : Cause) : State :=
  let x := s.mxq k q
  let gone := match x.shadow with | some n => (if n.discard then 0 else 1) | none => 0
  let s1 := match x.shadow with | some n => s.mxDrop n | none => s
  let a0 := s1.acc k m.acc
  let a := { a0 with v := true, kdone := if m.multiplies then a0.kdone else 0 }
  let xval : Word := BitVec.ofNat 64 (a.kdone % 2 ^ 24 + m.acc.toNat * 2 ^ 24 + gone * 2 ^ 32)
  let s2 := (s1.setAcc k m.acc { a with pend := some (c, xval) }).mxDrop m
  ((s2.setMxq k q { active := none, shadow := none, fault := some m.acc }).grantOver k q).accFree m.core |>.unstall

/-- Whether a queue waits for a grant. -/
def MxQueue.waits (q : MxQueue) : Bool :=
  match q.active with
  | some m => m.multiplies && !m.discard && decide (m.done < m.kn)
  | none => false

/-- The queue that the arbiter grants next, with the grants of its turn (R204, R205). -/
def Cluster.pick (k : Cluster) (stopped : Nat → Bool) : Option (Nat × Nat) :=
  let w (q : Nat) : Nat := k.mxwt.toNat / 16 ^ q % 16
  let act := (List.range 8).filter (fun q => (k.mxq.toList.getD q {}).waits && !stopped q)
  let el := if act.any (fun q => w q != 0) then act.filter (fun q => w q != 0) else act
  if el.contains k.mxTurn && decide (k.mxUsed < Nat.max (w k.mxTurn) 1) then some (k.mxTurn, k.mxUsed + 1)
  else (((List.range 8).map (fun d => (k.mxTurn + 1 + d) % 8)).find? (fun q => el.contains q)).map (fun q => (q, 1))

/-- The lines of DRAM that hold the elements of the unit that begins at p. -/
def State.unitLines (s : State) (m : MxCmd) (p : Nat) : List Nat :=
  match s.mxBlock m ((List.range (m.unitEnd p - p)).map (fun i => p + i)) with
  | .error _ => []
  | .ok ps => (ps.flatMap (fun q => (q.1 ++ q.2).flatMap (·.grans))).map (fun g => g.2.1 / 4)

/-- Lines that one slice cannot pin: more than 256 KiB of them (R211). -/
def overPinned (ls : List Nat) : Bool :=
  let at_ := (ls.filter (fun l => isDram (64 * l))).map (fun l => (homeDie (64 * l), homeSlice (64 * l)))
  at_.any (fun x => decide (4096 < (at_.filter (fun y => y == x)).length))

/-- The end of a grant whose units so far end at p with the lines that they pin: the last boundary up to its stop that every slice can
pin (R211). -/
def State.pinnedEnd (s : State) (m : MxCmd) (stop : Nat) : Nat → Nat → List Nat → Nat
  | 0, p, _ => p
  | fuel + 1, p, ls =>
    if stop ≤ p then p
    else
      let all := dedupNat (ls ++ s.unitLines m p)
      if overPinned all then p else s.pinnedEnd m stop fuel (m.unitEnd p) all

/-- The end of the grant that a command takes at p (R204, R211). -/
def State.grantStop (s : State) (m : MxCmd) (p : Nat) : Nat := s.pinnedEnd m (m.grantEnd p) 48 (m.unitEnd p) (dedupNat (s.unitLines m p))

/-- One unit of the active command of queue q: its chunk, or its one position of a wide format. The grant ends at its last. -/
def State.mxStep (s : State) (n q : Nat) (m : MxCmd) : State :=
  let a := s.acc n m.acc
  let s1 := if m.begun then s else s.setAcc n m.acc { a with kdone := 0, v := true }
  match s1.mxUnit m m.done with
  | .error (c, _) => s1.mxFault n q m c
  | .ok t =>
    let u := t.setMxq n q { t.mxq n q with active := some { m with begun := true, done := m.unitEnd m.done } }
    if (u.cluster n).mxEnd ≤ m.unitEnd m.done then u.grantOver n q else u

/-- The MXE of cluster n does one unit of the grant in progress; with none, or when its command stands still, the arbiter grants the
next step first (R204). A stop can so fall at any chunk boundary, or at any K of a wide format (R112, R217). -/
def execMxeGrant (s : State) : Host.Outcome State Fault Refusal :=
  let n := s.arg.n
  let k := s.cluster n
  let stopped (q : Nat) : Bool := s.engStopped n (8 * n + q)
  let busy : Bool := k.mxEnd != 0 && (s.mxq n k.mxTurn).waits && !stopped k.mxTurn
  .next (match (if busy then some (k.mxTurn, k.mxUsed) else k.pick stopped) with
    | none => s.setCluster n { k with mxEnd := 0 }
    | some (q, used) =>
      match (s.mxq n q).active with
      | none => s
      | some m =>
        if busy then s.mxStep n q m
        else
          let stop := s.grantStop m m.done
          let t := (s.setCluster n { k with mxTurn := q, mxUsed := used, mxEnd := stop }).trace (8 * n + q) 5
            (BitVec.ofNat 64 ((stop - m.done) % 2 ^ 24 + m.acc.toNat * 2 ^ 24))
          t.mxStep n q m)

/-! ### Completion (R203, R213) -/

/-- A fault of the scratchpad that a key lies in, as it stands when an engine's access arrives there: the split in force, and a closed
Shutter (R24, R225, R396). -/
def State.spanFault (s : State) (key : Nat) : Option Cause :=
  if !isScratch key then none
  else if (s.core (scratchCore key)).scratchSize ≤ (key - 2 ^ 39) % 2 ^ 18 then some .xlate
  else if s.shuttered (scratchCore key) then some .nakfenced
  else none

/-- What stops an MLOAD or MSTORE when it accesses its range. -/
def State.mxRange (s : State) (m : MxCmd) : Option Cause := m.spans.findSome? (fun p => s.spanFault p.1)

/-- MLOAD reads its 4 KiB at the home (R213). -/
def State.mxLoad (s : State) (k q : Nat) (m : MxCmd) : State :=
  match (match s.mxRange m with
    | some c => some c
    | none => if m.spans.any (fun p => s.foreignTag false p.1 m.tslot.toNat) then some .prot else none) with
  | some c => s.mxFault k q m c
  | none =>
    let bytes := m.spans.flatMap (fun p => s.rdBytes false p.1 p.2.2)
    let o := s.on m.core
    match o.productW (.h m.lab :: m.spans.map (fun p => o.tagSrc false p.1) ++ [.h m.lab2]) with
    | none => s.mxFault k q m .ltfull
    | some (t, l, f) =>
      let u := (t.accResult k m.acc l f).on s.cur
      let vals := (List.range 1024).map (fun i => BitVec.ofNat 32 (ofBytes ((bytes.drop (4 * i)).take 4)))
      (u.setAcc k m.acc { u.acc k m.acc with vals := vals, kdone := 0, v := false }).mxSwap k q m

/-- The parts of an MSTORE, granule by granule: each takes the product of the accumulator's label and that of the command, a partial one
the product of its old tag and that (R129, R213). -/
def State.mxStoreParts (s : State) (m : MxCmd) (bytes : List Byte) (lab : Lab) : List (Nat × Nat × Nat) → Except Cause (State × Word)
  | [] => .ok (s, 0)
  | (key, off, len) :: l =>
    match (s.engWrite false key ((bytes.drop off).take len)).engTag false m.tslot.toNat key (len == 16) [] lab with
    | .error e => .error e
    | .ok (t, f) => match t.mxStoreParts m bytes lab l with
      | .error e => .error e
      | .ok (u, g) => .ok (u, f ||| g)

/-- MSTORE writes the elements at the home, once no tenure stands in the way (R213, R256, R260). -/
def State.mxStore (s : State) (k q : Nat) (m : MxCmd) : State :=
  if (s.mxRange m).isSome then s.mxFault k q m ((s.mxRange m).getD .xlate)
  else if m.spans.any (fun p => s.engWaits false p.1) then
    if m.since = 0 then s.setMxq k q { s.mxq k q with active := some { m with since := s.clock, begun := true } }
    else if s.waitOver k m.since then s.mxFault k q m .tenurewait
    else s
  else
    let o := s.on m.core
    let a := s.acc k m.acc
    let bytes := (List.range 1024).flatMap (fun i => toBytes 4 (a.vals.getD i 0).toNat)
    let cmd := o.foldLabs m.tslot.toNat (dieOf k) [o.labOf m.lab, o.labOf m.lab2]
    let lab := o.foldLabs m.tslot.toNat (dieOf k) [o.labOf a.lab, cmd.1]
    match s.mxStoreParts m bytes lab.1 m.spans with
    | .error c => s.mxFault k q m c
    | .ok (t, f) =>
      let w := t.stampData (fget a.wmax m.aid) m.lines
      let u := w.1.pendFlags k m.acc (if cmd.2 || lab.2 then f ||| flagLW else f)
      let b := u.acc k m.acc
      (u.setAcc k m.acc { b with wmax := match w.2 with | some x => fset b.wmax m.aid x | none => b.wmax }).mxSwap k q m

/-- The active command of queue m of cluster n completes (R203). -/
def execMxeCommandComplete (s : State) : Host.Outcome State Fault Refusal :=
  let k := s.arg.n
  let q := s.arg.m
  .next (match (if s.engStopped k (8 * k + q) then none else (s.mxq k q).active) with
    | none => s
    | some m =>
      if m.discard then s.mxSwap k q m
      else match m.kind with
        | .mma | .mmas => if m.done < m.kn then s else (s.setAcc k m.acc { s.acc k m.acc with v := false }).mxSwap k q m
        | .mzero =>
          let t := s.accResult k m.acc m.lab 0
          (t.setAcc k m.acc { t.acc k m.acc with vals := [], kdone := 0, v := false }).mxSwap k q m
        | .mload => s.mxLoad k q m
        | .mstore => s.mxStore k q m)

/-! ### MWAIT (R215, R216) -/

/-- What MWAIT does once no command names the accumulator: the fault, or the flags; the writes of the activation's own MSTOREs are
seen complete (R215, R262). -/
def State.mwaitEnd (s : State) (acc : BitVec 4) : Except (Cause × Word) State :=
  let k := s.cl
  let a := s.acc k acc
  match a.pend with
  | some (c, v) => .error (c, v)
  | none =>
    let t := s.setAcc k acc { a with pfl := 0, wmax := ferase a.wmax s.act.aid }
    .ok ((t.setAct { t.act with engStamp := match fget a.wmax s.act.aid with | none => t.act.engStamp | some w => some (tmaxO t.act.engStamp w) }).orFlags
      (a.pfl.setWidth 64 <<< 8))

/-- The pending fault of an accumulator is taken, and its queue accepts commands again (R216). -/
def State.clearPend (s : State) (k : Nat) (acc : BitVec 4) : State :=
  let s1 := s.setAcc k acc { s.acc k acc with pend := none }
  s1.setCluster k { s1.cluster k with mxq := (s1.cluster k).mxq.map (fun q => if q.fault = some acc then { q with fault := none } else q) }

def execMwait (s : State) : Host.Outcome State Fault Refusal :=
  let acc := s.ir.acc
  match s.regs [.a s.ir.d.toNat] with
  | .error e => s.run (.error e)
  | .ok _ => match s.asMarker with
    | .error e => s.run (.error e)
    | .ok _ =>
      if s.myCluster.names s.cur acc then .next (s.park (.mwait acc) s.npc)
      else match s.mwaitEnd acc with
        | .error (c, v) => .next ((s.clearPend s.cl acc).raise c v)
        | .ok t => s.run (.ok t)

/-- The last command that names the awaited accumulator has completed (R215). -/
def execMwaitWake (s : State) : Host.Outcome State Fault Refusal :=
  let c := s.arg.n
  .next (match s.parkedAt c s.arg.m with
    | some a => match a.park with
      | some (.mwait acc) =>
        if (s.cluster (c / 8)).names c acc then s
        else match (s.acc (c / 8) acc).pend with
          | some (x, v) => (s.clearPend (c / 8) acc).trapParked c a x v
          | none => s.onParked c a.slot false (fun t => match t.mwaitEnd acc with
            | .ok u => u.setAct { u.act with pc := u.act.npc }
            | .error _ => t)
      | _ => s
    | none => s)

end Sys2Proof.Machine
end

