-- ==== Sys2Proof/Machine/Dispatch.lean ====
section
/-! DEFINITION. The dispatch of operations to their meanings. -/

namespace Sys2Proof.Machine

def exec (i : Instr) (s : State) : Host.Outcome State Fault Refusal :=
  match i with
  | .add => Sys2Proof.Machine.execAdd s
  | .sub => Sys2Proof.Machine.execSub s
  | .and => Sys2Proof.Machine.execAnd s
  | .or => Sys2Proof.Machine.execOr s
  | .xor => Sys2Proof.Machine.execXor s
  | .andn => Sys2Proof.Machine.execAndn s
  | .shl => Sys2Proof.Machine.execShl s
  | .shr => Sys2Proof.Machine.execShr s
  | .sra => Sys2Proof.Machine.execSra s
  | .rot => Sys2Proof.Machine.execRot s
  | .min => Sys2Proof.Machine.execMin s
  | .max => Sys2Proof.Machine.execMax s
  | .minu => Sys2Proof.Machine.execMinu s
  | .maxu => Sys2Proof.Machine.execMaxu s
  | .slt => Sys2Proof.Machine.execSlt s
  | .sltu => Sys2Proof.Machine.execSltu s
  | .mul => Sys2Proof.Machine.execMul s
  | .mulh => Sys2Proof.Machine.execMulh s
  | .mulhu => Sys2Proof.Machine.execMulhu s
  | .div => Sys2Proof.Machine.execDiv s
  | .divu => Sys2Proof.Machine.execDivu s
  | .rem => Sys2Proof.Machine.execRem s
  | .remu => Sys2Proof.Machine.execRemu s
  | .seq => Sys2Proof.Machine.execSeq s
  | .csel => Sys2Proof.Machine.execCsel s
  | .clz => Sys2Proof.Machine.execClz s
  | .ctz => Sys2Proof.Machine.execCtz s
  | .popc => Sys2Proof.Machine.execPopc s
  | .brev => Sys2Proof.Machine.execBrev s
  | .bswap => Sys2Proof.Machine.execBswap s
  | .sext => Sys2Proof.Machine.execSext s
  | .zext => Sys2Proof.Machine.execZext s
  | .addW => Sys2Proof.Machine.execAddW s
  | .subW => Sys2Proof.Machine.execSubW s
  | .andW => Sys2Proof.Machine.execAndW s
  | .orW => Sys2Proof.Machine.execOrW s
  | .xorW => Sys2Proof.Machine.execXorW s
  | .andnW => Sys2Proof.Machine.execAndnW s
  | .shlW => Sys2Proof.Machine.execShlW s
  | .shrW => Sys2Proof.Machine.execShrW s
  | .sraW => Sys2Proof.Machine.execSraW s
  | .rotW => Sys2Proof.Machine.execRotW s
  | .minW => Sys2Proof.Machine.execMinW s
  | .maxW => Sys2Proof.Machine.execMaxW s
  | .minuW => Sys2Proof.Machine.execMinuW s
  | .maxuW => Sys2Proof.Machine.execMaxuW s
  | .sltW => Sys2Proof.Machine.execSltW s
  | .sltuW => Sys2Proof.Machine.execSltuW s
  | .mulW => Sys2Proof.Machine.execMulW s
  | .mulhW => Sys2Proof.Machine.execMulhW s
  | .mulhuW => Sys2Proof.Machine.execMulhuW s
  | .divW => Sys2Proof.Machine.execDivW s
  | .divuW => Sys2Proof.Machine.execDivuW s
  | .remW => Sys2Proof.Machine.execRemW s
  | .remuW => Sys2Proof.Machine.execRemuW s
  | .seqW => Sys2Proof.Machine.execSeqW s
  | .cselW => Sys2Proof.Machine.execCselW s
  | .clzW => Sys2Proof.Machine.execClzW s
  | .ctzW => Sys2Proof.Machine.execCtzW s
  | .popcW => Sys2Proof.Machine.execPopcW s
  | .brevW => Sys2Proof.Machine.execBrevW s
  | .bswapW => Sys2Proof.Machine.execBswapW s
  | .sextW => Sys2Proof.Machine.execSextW s
  | .zextW => Sys2Proof.Machine.execZextW s
  | .bfx => Sys2Proof.Machine.execBfx s
  | .bfi => Sys2Proof.Machine.execBfi s
  | .lea => Sys2Proof.Machine.execLea s
  | .addi => Sys2Proof.Machine.execAddi s
  | .andi => Sys2Proof.Machine.execAndi s
  | .ori => Sys2Proof.Machine.execOri s
  | .xori => Sys2Proof.Machine.execXori s
  | .shli => Sys2Proof.Machine.execShli s
  | .shri => Sys2Proof.Machine.execShri s
  | .srai => Sys2Proof.Machine.execSrai s
  | .slti => Sys2Proof.Machine.execSlti s
  | .sltiu => Sys2Proof.Machine.execSltiu s
  | .li => Sys2Proof.Machine.execLi s
  | .fadd => Sys2Proof.Machine.execFadd s
  | .fsub => Sys2Proof.Machine.execFsub s
  | .fmul => Sys2Proof.Machine.execFmul s
  | .fdiv => Sys2Proof.Machine.execFdiv s
  | .fsqrt => Sys2Proof.Machine.execFsqrt s
  | .fmin => Sys2Proof.Machine.execFmin s
  | .fmax => Sys2Proof.Machine.execFmax s
  | .fsgnj => Sys2Proof.Machine.execFsgnj s
  | .fsgnjn => Sys2Proof.Machine.execFsgnjn s
  | .fsgnjx => Sys2Proof.Machine.execFsgnjx s
  | .fclass => Sys2Proof.Machine.execFclass s
  | .frece => Sys2Proof.Machine.execFrece s
  | .frsqe => Sys2Proof.Machine.execFrsqe s
  | .fcmpeq => Sys2Proof.Machine.execFcmpeq s
  | .fcmplt => Sys2Proof.Machine.execFcmplt s
  | .fcmple => Sys2Proof.Machine.execFcmple s
  | .fma => Sys2Proof.Machine.execFma s
  | .fms => Sys2Proof.Machine.execFms s
  | .fnma => Sys2Proof.Machine.execFnma s
  | .fnms => Sys2Proof.Machine.execFnms s
  | .fcvt => Sys2Proof.Machine.execFcvt s
  | .faddX => Sys2Proof.Machine.execFaddX s
  | .fsubX => Sys2Proof.Machine.execFsubX s
  | .fmulX => Sys2Proof.Machine.execFmulX s
  | .fdivX => Sys2Proof.Machine.execFdivX s
  | .fsqrtX => Sys2Proof.Machine.execFsqrtX s
  | .fmaX => Sys2Proof.Machine.execFmaX s
  | .fmsX => Sys2Proof.Machine.execFmsX s
  | .fnmaX => Sys2Proof.Machine.execFnmaX s
  | .fnmsX => Sys2Proof.Machine.execFnmsX s
  | .vadd => Sys2Proof.Machine.execVadd s
  | .vsub => Sys2Proof.Machine.execVsub s
  | .vmul => Sys2Proof.Machine.execVmul s
  | .vmulh => Sys2Proof.Machine.execVmulh s
  | .vmin => Sys2Proof.Machine.execVmin s
  | .vmax => Sys2Proof.Machine.execVmax s
  | .vminu => Sys2Proof.Machine.execVminu s
  | .vmaxu => Sys2Proof.Machine.execVmaxu s
  | .vand => Sys2Proof.Machine.execVand s
  | .vor => Sys2Proof.Machine.execVor s
  | .vxor => Sys2Proof.Machine.execVxor s
  | .vshl => Sys2Proof.Machine.execVshl s
  | .vshr => Sys2Proof.Machine.execVshr s
  | .vsra => Sys2Proof.Machine.execVsra s
  | .vadds => Sys2Proof.Machine.execVadds s
  | .vsubs => Sys2Proof.Machine.execVsubs s
  | .vabs => Sys2Proof.Machine.execVabs s
  | .vneg => Sys2Proof.Machine.execVneg s
  | .vfadd => Sys2Proof.Machine.execVfadd s
  | .vfsub => Sys2Proof.Machine.execVfsub s
  | .vfmul => Sys2Proof.Machine.execVfmul s
  | .vfdiv => Sys2Proof.Machine.execVfdiv s
  | .vfsqrt => Sys2Proof.Machine.execVfsqrt s
  | .vfmin => Sys2Proof.Machine.execVfmin s
  | .vfmax => Sys2Proof.Machine.execVfmax s
  | .vfma => Sys2Proof.Machine.execVfma s
  | .vfms => Sys2Proof.Machine.execVfms s
  | .vfnma => Sys2Proof.Machine.execVfnma s
  | .vfrece => Sys2Proof.Machine.execVfrece s
  | .vfrsqe => Sys2Proof.Machine.execVfrsqe s
  | .vfabs => Sys2Proof.Machine.execVfabs s
  | .vfneg => Sys2Proof.Machine.execVfneg s
  | .vcmp => Sys2Proof.Machine.execVcmp s
  | .vsel => Sys2Proof.Machine.execVsel s
  | .vperm => Sys2Proof.Machine.execVperm s
  | .vslideup => Sys2Proof.Machine.execVslideup s
  | .vslidedn => Sys2Proof.Machine.execVslidedn s
  | .viota => Sys2Proof.Machine.execViota s
  | .vcomp => Sys2Proof.Machine.execVcomp s
  | .vmov => Sys2Proof.Machine.execVmov s
  | .vredadd => Sys2Proof.Machine.execVredadd s
  | .vredmin => Sys2Proof.Machine.execVredmin s
  | .vredmax => Sys2Proof.Machine.execVredmax s
  | .vredminu => Sys2Proof.Machine.execVredminu s
  | .vredmaxu => Sys2Proof.Machine.execVredmaxu s
  | .vredand => Sys2Proof.Machine.execVredand s
  | .vredor => Sys2Proof.Machine.execVredor s
  | .vfredadd => Sys2Proof.Machine.execVfredadd s
  | .vfredmin => Sys2Proof.Machine.execVfredmin s
  | .vfredmax => Sys2Proof.Machine.execVfredmax s
  | .vbcast => Sys2Proof.Machine.execVbcast s
  | .vext => Sys2Proof.Machine.execVext s
  | .vins => Sys2Proof.Machine.execVins s
  | .vcvt => Sys2Proof.Machine.execVcvt s
  | .mand => Sys2Proof.Machine.execMand s
  | .mor => Sys2Proof.Machine.execMor s
  | .mxor => Sys2Proof.Machine.execMxor s
  | .mandn => Sys2Proof.Machine.execMandn s
  | .mnot => Sys2Proof.Machine.execMnot s
  | .mpopc => Sys2Proof.Machine.execMpopc s
  | .mfirst => Sys2Proof.Machine.execMfirst s
  | .mtos => Sys2Proof.Machine.execMtos s
  | .stom => Sys2Proof.Machine.execStom s
  | .vld => Sys2Proof.Machine.execVld s
  | .vst => Sys2Proof.Machine.execVst s
  | .vlds => Sys2Proof.Machine.execVlds s
  | .vsts => Sys2Proof.Machine.execVsts s
  | .vgath => Sys2Proof.Machine.execVgath s
  | .vscat => Sys2Proof.Machine.execVscat s
  | .j => Sys2Proof.Machine.execJ s
  | .call => Sys2Proof.Machine.execCall s
  | .beq => Sys2Proof.Machine.execBeq s
  | .bne => Sys2Proof.Machine.execBne s
  | .blt => Sys2Proof.Machine.execBlt s
  | .bge => Sys2Proof.Machine.execBge s
  | .bltu => Sys2Proof.Machine.execBltu s
  | .bgeu => Sys2Proof.Machine.execBgeu s
  | .bmany => Sys2Proof.Machine.execBmany s
  | .bmnone => Sys2Proof.Machine.execBmnone s
  | .jr => Sys2Proof.Machine.execJr s
  | .loop => Sys2Proof.Machine.execLoop s
  | .done => Sys2Proof.Machine.execDone s
  | .yield => Sys2Proof.Machine.execYield s
  | .nop => Sys2Proof.Machine.execNop s
  | .tfence => Sys2Proof.Machine.execTfence s
  | .eret => Sys2Proof.Machine.execEret s
  | .halt => Sys2Proof.Machine.execHalt s
  | .sleep => Sys2Proof.Machine.execSleep s
  | .bar => Sys2Proof.Machine.execBar s
  | .trap => Sys2Proof.Machine.execTrap s
  | .grow => Sys2Proof.Machine.execGrow s
  | .shrink => Sys2Proof.Machine.execShrink s
  | .getc => Sys2Proof.Machine.execGetc s
  | .setc => Sys2Proof.Machine.execSetc s
  | .setcFlags => Sys2Proof.Machine.execSetcFlags s
  | .setcLsplit => Sys2Proof.Machine.execSetcLsplit s
  | .setcAccmap => Sys2Proof.Machine.execSetcAccmap s
  | .setcVpool => Sys2Proof.Machine.execSetcVpool s
  | .setcCarve => Sys2Proof.Machine.execSetcCarve s
  | .setcOrdcfg => Sys2Proof.Machine.execSetcOrdcfg s
  | .setcMxwt => Sys2Proof.Machine.execSetcMxwt s
  | .setcMsquota => Sys2Proof.Machine.execSetcMsquota s
  | .setcPix => Sys2Proof.Machine.execSetcPix s
  | .xdefrDrop => Sys2Proof.Machine.execXdefrDrop s
  | .xregWrite => Sys2Proof.Machine.execXregWrite s
  | .xlabWrite => Sys2Proof.Machine.execXlabWrite s
  | .lget => Sys2Proof.Machine.execLget s
  | .lset => Sys2Proof.Machine.execLset s
  | .lenv => Sys2Proof.Machine.execLenv s
  | .ljoin => Sys2Proof.Machine.execLjoin s
  | .lclr => Sys2Proof.Machine.execLclr s
  | .lhold => Sys2Proof.Machine.execLhold s
  | .lsel => Sys2Proof.Machine.execLsel s
  | .lcount => Sys2Proof.Machine.execLcount s
  | .lenvn => Sys2Proof.Machine.execLenvn s
  | .lprod => Sys2Proof.Machine.execLprod s
  | .lfocus => Sys2Proof.Machine.execLfocus s
  | .lcpush => Sys2Proof.Machine.execLcpush s
  | .lcpop => Sys2Proof.Machine.execLcpop s
  | .assume => Sys2Proof.Machine.execAssume s
  | .retire => Sys2Proof.Machine.execRetire s
  | .nogood => Sys2Proof.Machine.execNogood s
  | .commit => Sys2Proof.Machine.execCommit s
  | .lscrub => Sys2Proof.Machine.execLscrub s
  | .lwait => Sys2Proof.Machine.execLwait s
  | .lstat => Sys2Proof.Machine.execLstat s
  | .ld => Sys2Proof.Machine.execLd s
  | .st => Sys2Proof.Machine.execSt s
  | .ldfe => Sys2Proof.Machine.execLdfe s
  | .stfe => Sys2Proof.Machine.execStfe s
  | .feset => Sys2Proof.Machine.execFeset s
  | .feclr => Sys2Proof.Machine.execFeclr s
  | .aadd => Sys2Proof.Machine.execAadd s
  | .aand => Sys2Proof.Machine.execAand s
  | .aor => Sys2Proof.Machine.execAor s
  | .axor => Sys2Proof.Machine.execAxor s
  | .amin => Sys2Proof.Machine.execAmin s
  | .amax => Sys2Proof.Machine.execAmax s
  | .aminu => Sys2Proof.Machine.execAminu s
  | .amaxu => Sys2Proof.Machine.execAmaxu s
  | .aswap => Sys2Proof.Machine.execAswap s
  | .afaddd => Sys2Proof.Machine.execAfaddd s
  | .afadds => Sys2Proof.Machine.execAfadds s
  | .acas => Sys2Proof.Machine.execAcas s
  | .acas2 => Sys2Proof.Machine.execAcas2 s
  | .fenceE => Sys2Proof.Machine.execFenceE s
  | .fenceEw => Sys2Proof.Machine.execFenceEw s
  | .fenceSys => Sys2Proof.Machine.execFenceSys s
  | .fenceI => Sys2Proof.Machine.execFenceI s
  | .send => Sys2Proof.Machine.execSend s
  | .sendv => Sys2Proof.Machine.execSendv s
  | .reply => Sys2Proof.Machine.execReply s
  | .hostq => Sys2Proof.Machine.execHostq s
  | .chset => Sys2Proof.Machine.execChset s
  | .chbind => Sys2Proof.Machine.execChbind s
  | .watch => Sys2Proof.Machine.execWatch s
  | .unwatch => Sys2Proof.Machine.execUnwatch s
  | .launch => Sys2Proof.Machine.execLaunch s
  | .ccwait => Sys2Proof.Machine.execCcwait s
  | .ccancel => Sys2Proof.Machine.execCcancel s
  | .ccread => Sys2Proof.Machine.execCcread s
  | .elect => Sys2Proof.Machine.execElect s
  | .sendx => Sys2Proof.Machine.execSendx s
  | .vfcvtnN => Sys2Proof.Machine.execVfcvtnN s
  | .vfcvtnF => Sys2Proof.Machine.execVfcvtnF s
  | .vldt => Sys2Proof.Machine.execVldt s
  | .vstt => Sys2Proof.Machine.execVstt s
  | .topen => Sys2Proof.Machine.execTopen s
  | .tclose => Sys2Proof.Machine.execTclose s
  | .tacqRd => Sys2Proof.Machine.execTacqRd s
  | .tacqWr => Sys2Proof.Machine.execTacqWr s
  | .trel => Sys2Proof.Machine.execTrel s
  | .tsplit => Sys2Proof.Machine.execTsplit s
  | .tgive => Sys2Proof.Machine.execTgive s
  | .trenew => Sys2Proof.Machine.execTrenew s
  | .tstat => Sys2Proof.Machine.execTstat s
  | .tidw => Sys2Proof.Machine.execTidw s
  | .tidr => Sys2Proof.Machine.execTidr s
  | .mma => Sys2Proof.Machine.execMma s
  | .mmas => Sys2Proof.Machine.execMmas s
  | .mzero => Sys2Proof.Machine.execMzero s
  | .mload => Sys2Proof.Machine.execMload s
  | .mstore => Sys2Proof.Machine.execMstore s
  | .mwait => Sys2Proof.Machine.execMwait s
  | .btgo => Sys2Proof.Machine.execBtgo s
  | .ringwait => Sys2Proof.Machine.execRingwait s
  | .syncw => Sys2Proof.Machine.execSyncw s
  | .clgo => Sys2Proof.Machine.execClgo s
  | .msave => Sys2Proof.Machine.execMsave s
  | .containArm => Sys2Proof.Machine.execContainArm s
  | .containClose => Sys2Proof.Machine.execContainClose s
  | .containOpen => Sys2Proof.Machine.execContainOpen s
  | .containPerm => Sys2Proof.Machine.execContainPerm s
  | .tlbiPg => Sys2Proof.Machine.execTlbiPg s
  | .tlbiTn => Sys2Proof.Machine.execTlbiTn s
  | .tlbiAll => Sys2Proof.Machine.execTlbiAll s
  | .resultLands => Sys2Proof.Machine.execResultLands s
  | .trapEntry => Sys2Proof.Machine.execTrapEntry s
  | .messageArrival => Sys2Proof.Machine.execMessageArrival s
  | .recordPlaced => Sys2Proof.Machine.execRecordPlaced s
  | .messageLeavesQueue => Sys2Proof.Machine.execMessageLeavesQueue s
  | .messageAnswer => Sys2Proof.Machine.execMessageAnswer s
  | .sqwakeWake => Sys2Proof.Machine.execSqwakeWake s
  | .channelYield => Sys2Proof.Machine.execChannelYield s
  | .ageing => Sys2Proof.Machine.execAgeing s
  | .chsetApply => Sys2Proof.Machine.execChsetApply s
  | .chbindApply => Sys2Proof.Machine.execChbindApply s
  | .watchRegistered => Sys2Proof.Machine.execWatchRegistered s
  | .ldfeWake => Sys2Proof.Machine.execLdfeWake s
  | .ringwaitWake => Sys2Proof.Machine.execRingwaitWake s
  | .syncwWake => Sys2Proof.Machine.execSyncwWake s
  | .barRelease => Sys2Proof.Machine.execBarRelease s
  | .electExecute => Sys2Proof.Machine.execElectExecute s
  | .ccwaitWake => Sys2Proof.Machine.execCcwaitWake s
  | .lwaitWake => Sys2Proof.Machine.execLwaitWake s
  | .lwaitTimeout => Sys2Proof.Machine.execLwaitTimeout s
  | .sleepExpiry => Sys2Proof.Machine.execSleepExpiry s
  | .mwaitWake => Sys2Proof.Machine.execMwaitWake s
  | .fenceComplete => Sys2Proof.Machine.execFenceComplete s
  | .stateBroadcastApply => Sys2Proof.Machine.execStateBroadcastApply s
  | .tableSweep => Sys2Proof.Machine.execTableSweep s
  | .labelOpRetire => Sys2Proof.Machine.execLabelOpRetire s
  | .tidwRetire => Sys2Proof.Machine.execTidwRetire s
  | .translationWalk => Sys2Proof.Machine.execTranslationWalk s
  | .cacheFill => Sys2Proof.Machine.execCacheFill s
  | .tenureBlockGrant => Sys2Proof.Machine.execTenureBlockGrant s
  | .tenurewait => Sys2Proof.Machine.execTenurewait s
  | .tenureRelease => Sys2Proof.Machine.execTenureRelease s
  | .pageRecall => Sys2Proof.Machine.execPageRecall s
  | .pageReturn => Sys2Proof.Machine.execPageReturn s
  | .tlbiComplete => Sys2Proof.Machine.execTlbiComplete s
  | .ltimeTick => Sys2Proof.Machine.execLtimeTick s
  | .ltimeBroadcast => Sys2Proof.Machine.execLtimeBroadcast s
  | .stampSweep => Sys2Proof.Machine.execStampSweep s
  | .carveSample => Sys2Proof.Machine.execCarveSample s
  | .clusterPowerGate => Sys2Proof.Machine.execClusterPowerGate s
  | .clusterPowerUp => Sys2Proof.Machine.execClusterPowerUp s
  | .mxeGrant => Sys2Proof.Machine.execMxeGrant s
  | .mxeCommandComplete => Sys2Proof.Machine.execMxeCommandComplete s
  | .copy => Sys2Proof.Machine.execCopy s
  | .tile => Sys2Proof.Machine.execTile s
  | .fill => Sys2Proof.Machine.execFill s
  | .counted => Sys2Proof.Machine.execCounted s
  | .femark => Sys2Proof.Machine.execFemark s
  | .completionRecord => Sys2Proof.Machine.execCompletionRecord s
  | .collectiveExchange => Sys2Proof.Machine.execCollectiveExchange s
  | .collectiveComplete => Sys2Proof.Machine.execCollectiveComplete s
  | .haltedpeer => Sys2Proof.Machine.execHaltedpeer s
  | .endNotice => Sys2Proof.Machine.execEndNotice s
  | .cut => Sys2Proof.Machine.execCut s
  | .save => Sys2Proof.Machine.execSave s
  | .restore => Sys2Proof.Machine.execRestore s
  | .resume => Sys2Proof.Machine.execResume s
  | .stopRequest => Sys2Proof.Machine.execStopRequest s
  | .coreStopped => Sys2Proof.Machine.execCoreStopped s
  | .cutWave => Sys2Proof.Machine.execCutWave s
  | .stop => Sys2Proof.Machine.execStop s
  | .cutCommandComplete => Sys2Proof.Machine.execCutCommandComplete s
  | .tenantRecordWrite => Sys2Proof.Machine.execTenantRecordWrite s
  | .applied => Sys2Proof.Machine.execApplied s
  | .fabricArrival => Sys2Proof.Machine.execFabricArrival s
  | .registerWrite => Sys2Proof.Machine.execRegisterWrite s
  | .patrolScrub => Sys2Proof.Machine.execPatrolScrub s
  | .damageRecord => Sys2Proof.Machine.execDamageRecord s
  | .heartbeat => Sys2Proof.Machine.execHeartbeat s
  | .peerDead => Sys2Proof.Machine.execPeerDead s
  | .peerReadmit => Sys2Proof.Machine.execPeerReadmit s
  | .pfail => Sys2Proof.Machine.execPfail s
  | .supplyRestored => Sys2Proof.Machine.execSupplyRestored s
  | .stormDoorOpen => Sys2Proof.Machine.execStormDoorOpen s
  | .quiesce => Sys2Proof.Machine.execQuiesce s
  | .headers => Sys2Proof.Machine.execHeaders s
  | .copyPhase => Sys2Proof.Machine.execCopyPhase s
  | .commitPhase => Sys2Proof.Machine.execCommitPhase s
  | .overrun => Sys2Proof.Machine.execOverrun s
  | .moduleReset => Sys2Proof.Machine.execModuleReset s
  | .blobMailbox => Sys2Proof.Machine.execBlobMailbox s
  | .attestationRequest => Sys2Proof.Machine.execAttestationRequest s
  | .hostAccess => Sys2Proof.Machine.execHostAccess s
  | .hostInboundPoll => Sys2Proof.Machine.execHostInboundPoll s
  | .hreq => Sys2Proof.Machine.execHreq s
  | .rreq => Sys2Proof.Machine.execRreq s
  | .step => Sys2Proof.Machine.execStep s
  | .bypass => Sys2Proof.Machine.execBypass s
  | .idcode => Sys2Proof.Machine.execIdcode s
  | .samplePreload => Sys2Proof.Machine.execSamplePreload s
  | .extest => Sys2Proof.Machine.execExtest s
  | .ieee1687Select => Sys2Proof.Machine.execIeee1687Select s
  | .segmentInclude => Sys2Proof.Machine.execSegmentInclude s
  | .traceDrain => Sys2Proof.Machine.execTraceDrain s
  | .louvreStore => Sys2Proof.Machine.execLouvreStore s
  | .telemetryRefresh => Sys2Proof.Machine.execTelemetryRefresh s
  | .laneEyeMeasure => Sys2Proof.Machine.execLaneEyeMeasure s
  | .msaveRecorded => Sys2Proof.Machine.execMsaveRecorded s
  | .containTaken => Sys2Proof.Machine.execContainTaken s
  | .ccancelComplete => Sys2Proof.Machine.execCcancelComplete s
  | .hostqComplete => Sys2Proof.Machine.execHostqComplete s
  | .hostAtomicop => Sys2Proof.Machine.execHostAtomicop s

end Sys2Proof.Machine
end

