-- ==== Sys2Proof/Machine/Policy.lean ====
section
/-! DEFINITION. What moves when the schedule names nothing and the acting core cannot issue: the first event in a fixed order that
can happen (log 3); and what may happen while the Storm Door is open or the mesh is not powered (R388, R410). -/

namespace Sys2Proof.Machine

/-- A core that can issue. -/
def State.otherCore (s : State) : Option Nat := (s.cores.find? (fun p => p.2.canIssue)).map (·.1)

/-- A trap that waits for nothing (R336). -/
def State.autoTrap (s : State) : Option (Instr × Args) :=
  (s.cores.find? (fun p => p.2.running && !p.2.halted && p.2.act.pend.isSome && p.2.act.outs == [])).map (fun p => (.trapEntry, { n := p.1 }))

/-- A result that can land (R79). -/
def State.autoLand (s : State) : Option (Instr × Args) :=
  s.cores.findSome? (fun p => (p.2.residents.find? (fun a => a.outs != [])).map (fun a => (.resultLands, { n := p.1, m := a.slot })))

/-- A message that leaves its queue (R308). -/
def State.autoSend (s : State) : Option (Instr × Args) :=
  s.cores.findSome? (fun p =>
    let free (q : List Msg) : Bool := match q with | m :: _ => !s.heldBack m | [] => false
    if free p.2.sendReq then some (.messageLeavesQueue, { n := p.1 })
    else if free p.2.sendRep then some (.messageLeavesQueue, { n := p.1, m := 1 }) else none)

/-- A message that arrives, and an answer that comes back (R299, R300). -/
def State.autoArrive (s : State) : Option (Instr × Args) :=
  match s.answers, s.net with
  | _ :: _, _ => some (.messageAnswer, {})
  | [], m :: _ => if m.chset.isSome then some (.chsetApply, {}) else some (.messageArrival, {})
  | [], [] => none

/-- A channel that yields (R298). -/
def Chan.yields (ch : Chan) : Bool := ch.recs != [] && !ch.act && ch.bound && ch.pend != 0 && ch.en && !ch.hold && (ch.ready || ch.auto)
def State.autoYield (s : State) : Option (Instr × Args) :=
  s.cores.findSome? (fun p =>
    if p.2.stopReq then none
    else ((List.range 64).find? (fun i => (p.2.chans.toList.getD i {}).yields)).map (fun i => (.channelYield, { n := p.1, m := i })))

def firstSome {α : Type} : List (Option α) → Option α
  | [] => none
  | some a :: _ => some a
  | none :: l => firstSome l

/-- The event that happens of itself. -/
def State.autoEvent (s : State) : Option (Instr × Args) :=
  firstSome [s.autoTrap, s.autoLand, s.autoArrive, s.autoSend, s.autoYield]

/-- Whether the module stands still but for its boot ROM, hold-up engines and test port. -/
def State.still (s : State) : Bool := s.doorShut || !s.powered

/-- What may happen before the boot ROM has powered the mesh (R386, R388, R419). -/
def mayUnpowered : Instr → Bool
  | .moduleReset | .blobMailbox | .bypass | .idcode | .samplePreload | .extest | .ieee1687Select | .hostAccess | .hostAtomicop => true
  | _ => false

/-- What may happen once the Storm Door has opened: its own phases, what the test port does, and the reset when it has run to its end;
the host and fabric ports are closed (R410, R411, R419). -/
def State.mayInDoor (s : State) : Instr → Bool
  | .quiesce | .headers | .copyPhase | .commitPhase | .overrun => true
  | .bypass | .idcode | .samplePreload | .extest | .ieee1687Select => true
  | .moduleReset => s.doorEnded
  | _ => false

/-- Whether an event may happen now. -/
def State.admits (s : State) (i : Instr) : Bool := if s.doorShut then s.mayInDoor i else s.powered || mayUnpowered i

end Sys2Proof.Machine
end

