-- ==== Sys2Proof/Machine/Step.lean ====
section
/-! DEFINITION. One step of the machine. -/

namespace Sys2Proof.Machine

/-- The acting core fetches and executes one instruction, when it can issue. A loss of supply comes before it (R409). -/
def stepCore (s : State) : Host.Outcome State Fault Refusal :=
  if s.pfailDue s.cur then .next (s.pfailCore s.cur)
  else if s.me.canIssue && !s.still then
    s.stepped (match s.front with
      | .error o => o
      | .ok (t, i, ws) => exec i.op (t.loaded i ws))
  else .next s

/-- An event of the table happens, when it may. -/
def stepEvent (i : Instr) (a : Args) (s : State) : Host.Outcome State Fault Refusal :=
  if s.admits i then exec i { s with arg := a } else .next s

/-- A step: the head of the schedule; with an empty schedule, an instruction of the acting core, else an event that happens of
itself, else an instruction of another core that can issue. -/
def step (s : State) : Host.Outcome State Fault Refusal :=
  match s.sched with
  | .event i a :: l => stepEvent i a { s.advance with sched := l }
  | .core c :: l => stepCore { s.advance with sched := l, cur := c }
  | [] =>
    if s.me.canIssue then stepCore s.advance
    else match s.autoEvent with
      | some (i, a) => stepEvent i a s.advance
      | none =>
        match s.otherCore with
        | some c => stepCore { s.advance with cur := c }
        | none => .next s.advance

/-- The state with an instruction stored where the next step fetches it. -/
def State.withFetchWord (s : State) (nbits w : Nat) : State := s.placeAt nbits w

end Sys2Proof.Machine
end

