-- ==== Sys2Proof/Safety.lean ====
section
/-! DEFINITION. What counts as a safe run, and the words that claims use: what an instruction needs before it completes, and
what it leaves as it was. -/

namespace Sys2Proof

/-- A run of k steps from s ends in a state, and in no fault or refusal. -/
def RunsTo (k : Nat) (s t : Machine.State) : Prop := core.run k s = .next t

/-- Every step from s goes on, for k steps. -/
def SafeFor (k : Nat) (s : Machine.State) : Prop := ∃ t, RunsTo k s t

/-- The invariant of every state that a run reaches: memory keeps its canonical form. -/
def Machine.State.Ok (s : Machine.State) : Prop := Machine.Memory.wf s.mem = true

end Sys2Proof

namespace Sys2Proof.Spec

open Machine

/-- The word whose bit i is f i. -/
def ofBits (w : Nat) (f : Nat → Bool) : BitVec w := BitVec.ofNat w ((List.range w).foldl (fun n i => if f i then n + 2 ^ i else n) 0)

/-! ### What an instruction needs -/

/-- A register that the running code may name (R33, R85, R337): in a handler the 16 shadow registers, else the allotment;
an accumulator that the core owns. -/
def Within (s : State) : RU → Prop
  | .s n => n < if s.act.trap.isSome then 16 else 8 * s.act.sa.toNat
  | .v n => n < 4 * s.act.va.toNat
  | .a n => s.me.accmap.getLsbD n = true

/-- Every register that the instruction names may be named (R84, step 4). -/
def Named (s : State) (l : List RU) : Prop := ∀ r ∈ l, Within s r

/-- No outstanding result, and no recorded access that is to be performed again, will write the scalar register (R81, R357). -/
def FreeS (s : State) (d : BitVec 6) : Prop :=
  (∀ o ∈ s.act.outs, ∀ v l, RegWrite.s d v l ∈ o.writes → d = 0) ∧ ∀ o ∈ s.act.deferred, o.op.writesS d = false

/-- As FreeS, for a vector register. -/
def FreeV (s : State) (d : BitVec 4) : Prop :=
  (∀ o ∈ s.act.outs, ∀ x, RegWrite.v d x ∉ o.writes) ∧ ∀ o ∈ s.act.deferred, o.op.writesV d = false

/-- The result label of the handles is h, with the label flags f (R119, R140, R141). -/
def Labels (s : State) (hs : List Handle) (h : Handle) (f : Word) : Prop := ∃ t, s.product hs = .ok (t, h, f)

/-- As Labels, of groups of handles, each a factor of its own: Lreg of a vector register is one (R162). -/
def GroupLabels (s : State) (gs : List (List Handle)) (h : Handle) (f : Word) : Prop := ∃ t, s.productG gs = .ok (t, h, f)

/-- The result labels of several places: for each, the groups of handles whose product it gets, each group a factor of its own, or
none and the handle it keeps (R119, R162). -/
def QuadLabels (s : State) (qs : List (Option (List (List Handle)) × Handle)) (hs : List Handle) (f : Word) : Prop :=
  ∃ t, s.products qs = .ok (t, hs, f)

/-- The registers and the value that B of format A names (R64, R70). -/
def bRegs (s : State) : List RU := match s.ir.lit with | none => [.s s.ir.b.toNat] | some _ => []
def bReg (s : State) : Reg := match s.ir.lit with | none => s.act.rd s.ir.b | some v => { val := v, lab := 0 }
def aReg (s : State) : Reg := s.act.rd s.ir.a
def dReg (s : State) : Reg := s.act.rd s.ir.d
/-- The signed immediate of format I, or the literal in its place (R67, R70). -/
def immediate (s : State) : Word := match s.ir.lit with | none => BitVec.ofInt 64 (BitVec.ofNat 10 s.ir.imm.toNat).toInt | some v => v

/-- For each quad of a vector result, the factors whose product labels it: those of the sources, Lreg of a register being one, the old label where the old
contents are a source, the mask's, and the control label; a quad without a written element keeps its label (R161, R162). -/
def quadSources (s : State) (w : Nat) (written : Nat → Bool) (pre : Nat → List (List Handle)) (readsOld : Bool) (mkl : List Handle) :
    List (Option (List (List Handle)) × Handle) :=
  let quad (q : Nat) : Option (List (List Handle)) × Handle :=
    let any := (List.range (512 / w)).any (fun i => quadOf w i == q && written i)
    let all := (List.range (512 / w)).all (fun i => quadOf w i != q || written i)
    (if any then some (pre q ++ singles ((if readsOld || !all then [(s.act.rdV s.ir.vd).quadLab q] else []) ++ mkl ++ [s.act.clab])) else none,
      (s.act.rdV s.ir.vd).quadLab q)
  [quad 0, quad 1, quad 2, quad 3]

/-! ### What an instruction leaves -/

/-- Nothing changes but the activation that runs on the acting core and the label table of its cluster. -/
def Inside (s u : State) : Prop :=
  u = { s with cores := u.cores, clusters := u.clusters } ∧
  (∀ c, c ≠ s.cur → u.core c = s.core c) ∧ u.me = { s.me with act := u.act } ∧
  (∀ k, k ≠ s.cl → u.cluster k = s.cluster k) ∧ u.myCluster = { s.myCluster with clt := u.myCluster.clt }

/-- The scalar register d has the value v and the label l, unless it is s0, which discards; the flags f are raised; every
other register of the activation, and everything outside it but the label table, is as it was (R32, R36, R40). -/
def ScalarGets (s u : State) (d : BitVec 6) (v : Word) (l : Handle) (f : Word) : Prop :=
  Inside s u ∧ u.act.rd d = (if d = 0 then { val := 0, lab := 0 } else { val := v, lab := l }) ∧
  (∀ r : BitVec 6, r ≠ d → Within s (.s r.toNat) → u.act.rd r = s.act.rd r) ∧
  u.act = { s.act with sregs := u.act.sregs, trap := u.act.trap, flags := s.act.flags ||| f } ∧
  (s.act.trap = none → u.act.trap = none) ∧
  (∀ t, s.act.trap = some t → u.act.sregs = s.act.sregs ∧ ∃ h, u.act.trap = some { t with shadow := h })

/-- As ScalarGets, for a mask register: m0 discards (R32). -/
def MaskGets (s u : State) (k : BitVec 3) (v : Word) (l : Handle) (f : Word) : Prop :=
  Inside s u ∧ u.act.rdM k = (if k = 0 then { val := BitVec.allOnes 64, lab := 0 } else { val := v, lab := l }) ∧
  (∀ j, j ≠ k → u.act.rdM j = s.act.rdM j) ∧
  u.act = { s.act with mregs := u.act.mregs, flags := s.act.flags ||| f }

/-- As ScalarGets, for a vector register of elements of w bits, whose quads have the labels ls (R34). -/
def VectorGets (s u : State) (d : BitVec 4) (w : Nat) (elem : Nat → Nat) (ls : List Handle) (f : Word) : Prop :=
  Inside s u ∧ (∀ i, i < 512 / w → vElem (u.act.rdV d).val w i = elem i) ∧ (u.act.rdV d).labs = ls ∧
  (∀ r, r ≠ d → u.act.rdV r = s.act.rdV r) ∧
  u.act = { s.act with vregs := u.act.vregs, flags := s.act.flags ||| f }

/-- The control label is l; nothing else of the activation changes but the flags. -/
def ControlGets (s u : State) (l : Handle) (f : Word) : Prop :=
  Inside s u ∧ u.act = { s.act with clab := l, flags := s.act.flags ||| f }

end Sys2Proof.Spec
end

