-- ==== Sys2Proof/Certificates/Slice0/Obligations.lean ====
section
/-! DEFINITION. The statements: what the rules of the spec say of this machine. Spec holds the rules' own functions and shapes
of statement; an instruction's operands are in the instruction register of the state it executes in. -/

namespace Sys2Proof.Spec

open Machine

/-! ### Integers (R147 to R152) -/

/-- The two-source operations of MAJ 0x01 and 0x02 with their .W forms, over words of w bits (R147 to R150). -/
def intOps : List (Instr × Instr × ((w : Nat) → BitVec w → BitVec w → BitVec w)) := [
  (.add, .addW, fun w a b => BitVec.ofInt w (a.toInt + b.toInt)),
  (.sub, .subW, fun w a b => BitVec.ofInt w (a.toInt - b.toInt)),
  (.and, .andW, fun w a b => ofBits w (fun i => a.getLsbD i && b.getLsbD i)),
  (.or, .orW, fun w a b => ofBits w (fun i => a.getLsbD i || b.getLsbD i)),
  (.xor, .xorW, fun w a b => ofBits w (fun i => a.getLsbD i != b.getLsbD i)),
  (.andn, .andnW, fun w a b => ofBits w (fun i => a.getLsbD i && !b.getLsbD i)),
  (.shl, .shlW, fun w a b => BitVec.ofNat w (a.toNat * 2 ^ (b.toNat % w))),
  (.shr, .shrW, fun w a b => BitVec.ofNat w (a.toNat / 2 ^ (b.toNat % w))),
  (.sra, .sraW, fun w a b => BitVec.ofInt w (a.toInt / 2 ^ (b.toNat % w))),
  (.rot, .rotW, fun w a b => ofBits w (fun i => a.getLsbD ((i + b.toNat % w) % w))),
  (.min, .minW, fun w a b => BitVec.ofInt w (Min.min a.toInt b.toInt)),
  (.max, .maxW, fun w a b => BitVec.ofInt w (Max.max a.toInt b.toInt)),
  (.minu, .minuW, fun w a b => BitVec.ofNat w (Min.min a.toNat b.toNat)),
  (.maxu, .maxuW, fun w a b => BitVec.ofNat w (Max.max a.toNat b.toNat)),
  (.slt, .sltW, fun _ a b => if a.toInt < b.toInt then 1 else 0),
  (.sltu, .sltuW, fun _ a b => if a.toNat < b.toNat then 1 else 0),
  (.mul, .mulW, fun w a b => BitVec.ofNat w (a.toNat * b.toNat)),
  (.mulh, .mulhW, fun w a b => BitVec.ofInt w (a.toInt * b.toInt / 2 ^ w)),
  (.mulhu, .mulhuW, fun w a b => BitVec.ofNat w (a.toNat * b.toNat / 2 ^ w)),
  (.seq, .seqW, fun _ a b => if a.toNat = b.toNat then 1 else 0),
  (.sext, .sextW, fun w a b => ofBits w (fun i => a.getLsbD (Min.min i (b.toNat % w)))),
  (.zext, .zextW, fun w a b => ofBits w (fun i => decide (i ≤ b.toNat % w) && a.getLsbD i))]

/-- Division: truncated towards zero; by zero the quotient is 0 and the remainder a; the overflow wraps (R148, R149). -/
def divOps : List (Instr × Instr × ((w : Nat) → BitVec w → BitVec w → BitVec w)) := [
  (.div, .divW, fun w a b => if b = 0 then 0 else BitVec.ofInt w (Int.tdiv a.toInt b.toInt)),
  (.divu, .divuW, fun w a b => if b = 0 then 0 else BitVec.ofNat w (a.toNat / b.toNat)),
  (.rem, .remW, fun w a b => if b = 0 then a else BitVec.ofInt w (a.toInt - b.toInt * Int.tdiv a.toInt b.toInt)),
  (.remu, .remuW, fun w a b => if b = 0 then a else BitVec.ofNat w (a.toNat - b.toNat * (a.toNat / b.toNat)))]

/-- The unary operations of MAJ 0x02 with their .W forms (R148, R150). -/
def intUnary : List (Instr × Instr × ((w : Nat) → BitVec w → BitVec w)) := [
  (.clz, .clzW, fun w a => BitVec.ofNat w (if a.toNat = 0 then w else w - 1 - Nat.log2 a.toNat)),
  (.ctz, .ctzW, fun w a => BitVec.ofNat w ((List.range w).takeWhile (fun i => !a.getLsbD i)).length),
  (.popc, .popcW, fun w a => BitVec.ofNat w ((List.range w).map (fun i => a.toNat / 2 ^ i % 2)).sum),
  (.brev, .brevW, fun w a => ofBits w (fun i => a.getLsbD (w - 1 - i))),
  (.bswap, .bswapW, fun w a => ofBits w (fun i => a.getLsbD (8 * (w / 8 - 1 - i / 8) + i % 8)))]

/-- A .W result: computed on the low 32 bits and sign-extended from bit 31 (R150). -/
def low (a : Word) : BitVec 32 := BitVec.ofNat 32 a.toNat
def wide (a : BitVec 32) : Word := BitVec.ofInt 64 a.toInt

/-- The instruction i, whose operands are in the instruction register, reads A and B and writes v of them to D. -/
def TwoSource (i : Instr) (v : Word → Word → Word) : Prop :=
  ∀ s l lf, Named s (.s s.ir.d.toNat :: .s s.ir.a.toNat :: bRegs s) → FreeS s s.ir.d →
    Labels s [(aReg s).lab, (bReg s).lab, s.act.clab] l lf →
    ∃ u, exec i s = .next (u.finish s.npc) ∧ ScalarGets s u s.ir.d (v (aReg s).val (bReg s).val) l lf

def OneSource (i : Instr) (v : State → Word → Word) : Prop :=
  ∀ s l lf, Named s [.s s.ir.d.toNat, .s s.ir.a.toNat] → FreeS s s.ir.d → Labels s [(aReg s).lab, s.act.clab] l lf →
    ∃ u, exec i s = .next (u.finish s.npc) ∧ ScalarGets s u s.ir.d (v s (aReg s).val) l lf

/-- D is a third source. -/
def ThreeSource (i : Instr) (v : Word → Word → Word → Word) : Prop :=
  ∀ s l lf, Named s (.s s.ir.d.toNat :: .s s.ir.a.toNat :: bRegs s) → FreeS s s.ir.d →
    Labels s [(aReg s).lab, (bReg s).lab, (dReg s).lab, s.act.clab] l lf →
    ∃ u, exec i s = .next (u.finish s.npc) ∧ ScalarGets s u s.ir.d (v (aReg s).val (bReg s).val (dReg s).val) l lf

/-- Field position and width of BFX and BFI (R151). -/
def fieldPos (b : Word) : Nat := b.toNat % 64
def fieldLen (b : Word) : Nat := b.toNat / 64 % 64 + 1

/-- The immediate operations of majors 0x08 to 0x10 (R152). -/
def immOps : List (Instr × (State → Word → Word)) := [
  (.addi, fun s a => BitVec.ofInt 64 (a.toInt + (immediate s).toInt)),
  (.andi, fun s a => ofBits 64 (fun i => a.getLsbD i && (immediate s).getLsbD i)),
  (.ori, fun s a => ofBits 64 (fun i => a.getLsbD i || (immediate s).getLsbD i)),
  (.xori, fun s a => ofBits 64 (fun i => a.getLsbD i != (immediate s).getLsbD i)),
  (.slti, fun s a => if a.toInt < (immediate s).toInt then 1 else 0),
  (.sltiu, fun s a => if a.toNat < (immediate s).toNat then 1 else 0)]

/-- The count of a shift by immediate: IMM10 unsigned, or the literal (R152). -/
def shiftCount (s : State) : Nat := match s.ir.lit with | none => s.ir.imm.toNat | some v => v.toNat

def shiftOps : List (Instr × (State → Word → Word)) := [
  (.shli, fun s a => BitVec.ofNat 64 (a.toNat * 2 ^ shiftCount s)),
  (.shri, fun s a => BitVec.ofNat 64 (a.toNat / 2 ^ shiftCount s)),
  (.srai, fun s a => BitVec.ofInt 64 (a.toInt / 2 ^ shiftCount s))]

/-! ### Floating point (R153 to R159) -/

/-- The format of an FPA or FMA instruction and of an extended form (R71, R157, R158). -/
def fpFormat (s : State) : WFmt := fmtOf (match s.ir.t.toNat with | 0 => .d | 1 => .s | 2 => .h | _ => .bf)
def fpFormatX (s : State) : WFmt := fmtOf (match s.ir.ew.toNat with | 0 => .bf | 1 => .h | 2 => .s | _ => .d)
/-- FLAGS.RM, where 6 rounds RNE (R40), and the rounding of an extended form, where RND 5 means FLAGS.RM (R158). -/
def flagsRm (s : State) : Nat := if s.act.flags.toNat % 8 = 6 then 0 else s.act.flags.toNat % 8
def rndOf (s : State) : Nat := if s.ir.rnd.toNat = 5 then flagsRm s else s.ir.rnd.toNat
/-- The low bits of a register that a format reads (R143). -/
def codeOf (w : WFmt) (r : Reg) : Nat := r.val.toNat % 2 ^ w.width

/-- Round of the exact result of an operation on exact values, with the flags of both (R88, R94, R114). -/
def rounded (w : WFmt) (rm : Nat) (r : FVal × Word) : Nat × Word := ((w.round rm 0 r.1).1, r.2 ||| (w.round rm 0 r.1).2)

/-- The short two-source operations of FPA (R153 to R155): the format, the rounding, the two codes. -/
def fpOps : List (Instr × (WFmt → Nat → Nat → Nat → Nat × Word)) := [
  (.fadd, fun w rm x y => rounded w rm (fAdd rm (w.decode x) (w.decode y))),
  (.fsub, fun w rm x y => rounded w rm (fAdd rm (w.decode x) (w.decode y).neg)),
  (.fmul, fun w rm x y => rounded w rm (fMul (w.decode x) (w.decode y))),
  (.fmin, fun w _ x y => w.minmax false x y),
  (.fmax, fun w _ x y => w.minmax true x y),
  (.fsgnj, fun w _ x y => (x % 2 ^ (w.width - 1) + y / 2 ^ (w.width - 1) * 2 ^ (w.width - 1), 0)),
  (.fsgnjn, fun w _ x y => (x % 2 ^ (w.width - 1) + (1 - y / 2 ^ (w.width - 1)) * 2 ^ (w.width - 1), 0)),
  (.fsgnjx, fun w _ x y => (x % 2 ^ (w.width - 1) + (x / 2 ^ (w.width - 1) + y / 2 ^ (w.width - 1)) % 2 * 2 ^ (w.width - 1), 0)),
  (.fcmpeq, fun w _ x y => (if (w.compare 0 x y).1 then 1 else 0, (w.compare 0 x y).2)),
  (.fcmplt, fun w _ x y => (if (w.compare 1 x y).1 then 1 else 0, (w.compare 1 x y).2)),
  (.fcmple, fun w _ x y => (if (w.compare 2 x y).1 then 1 else 0, (w.compare 2 x y).2))]

/-- FMA and its kin: the sign of the product and of the addend (R157). -/
def fmaOps : List (Instr × Instr × Bool × Bool) := [
  (.fma, .fmaX, false, false), (.fms, .fmsX, false, true), (.fnma, .fnmaX, true, true), (.fnms, .fnmsX, true, false)]

/-- The instruction completes with a value and flags from A and B in D. -/
def FpTwo (i : Instr) (r : State → Nat × Word) : Prop :=
  ∀ s l lf, Named s (.s s.ir.d.toNat :: .s s.ir.a.toNat :: bRegs s) → FreeS s s.ir.d →
    Labels s [(aReg s).lab, (bReg s).lab, s.act.clab] l lf →
    ∃ u, exec i s = .next (u.finish s.npc) ∧ ScalarGets s u s.ir.d (BitVec.ofNat 64 (r s).1) l ((r s).2 ||| lf)
def FpOne (i : Instr) (r : State → Nat × Word) : Prop :=
  ∀ s l lf, Named s [.s s.ir.d.toNat, .s s.ir.a.toNat] → FreeS s s.ir.d → Labels s [(aReg s).lab, s.act.clab] l lf →
    ∃ u, exec i s = .next (u.finish s.npc) ∧ ScalarGets s u s.ir.d (BitVec.ofNat 64 (r s).1) l ((r s).2 ||| lf)

/-- Room for one more outstanding result (R81). -/
def Room (s : State) : Prop := s.act.outs.length + s.act.deferred.length < 16

/-- One more result is outstanding; nothing else of the activation changes (R79). -/
def Leaves (s u : State) (o : Out) : Prop := Inside s u ∧ u.act = { s.act with outs := s.act.outs ++ [o] }

/-- A long-latency scalar result: it is settled at issue and stays outstanding (R78, R79). -/
def Outstanding (i : Instr) (ru : State → List RU) (srcs : State → List Handle) (r : State → Nat × Word) : Prop :=
  ∀ s l lf, Named s (.s s.ir.d.toNat :: ru s) → FreeS s s.ir.d → Room s → Labels s (srcs s ++ [s.act.clab]) l lf →
    ∃ u, exec i s = .next (u.finish s.npc) ∧
      Leaves s u { op := .arith, iss := s.issue, writes := [.s s.ir.d (BitVec.ofNat 64 (r s).1) l], flags := (r s).2 ||| lf }

/-! ### Vectors (R160 to R169) -/

/-- The governing mask and its label, which counts when MK is not 0 (R68). -/
def active (s : State) (i : Nat) : Bool := (s.act.rdM s.ir.k).val.getLsbD i
def maskLab (s : State) : List Handle := if s.ir.k.toNat = 0 then [] else [(s.act.rdM s.ir.k).lab]
def vA (s : State) : VReg := s.act.rdV (s.ir.a.setWidth 4)
def vB (s : State) : VReg := s.act.rdV (s.ir.b.setWidth 4)
def vD (s : State) : VReg := s.act.rdV (s.ir.d.setWidth 4)
/-- Element width: of EW for integers, of the format of EW for floating point (R68, R160). -/
def intWidth (s : State) : Nat := match s.ir.ew.toNat with | 0 => 8 | 1 => 16 | 2 => 32 | _ => 64
def fpWidth (s : State) : Nat := match s.ir.ew.toNat with | 0 => 16 | 1 => 16 | 2 => 32 | _ => 64
/-- The flags of the active elements, together. -/
def activeFlags (s : State) (n : Nat) (f : Nat → Word) : Word :=
  (List.range n).foldl (fun a i => if active s i then a ||| f i else a) 0

/-- A vector result in VD: which vector and scalar registers are named, the width, the elements written and their values,
the factors of each quad's label that the sources give, Lreg of a register being one, whether VD is a source, the mask's label, the flags. -/
def VectorOp (i : Instr) (ru : State → List RU) (w : State → Nat) (written : State → Nat → Bool) (val : State → Nat → Nat)
    (pre : State → Nat → List (List Handle)) (ro : Bool) (mkl : State → List Handle) (f : State → Word) : Prop :=
  ∀ s ls lf, Named s (.v s.ir.d.toNat :: ru s) → FreeV s (s.ir.d.setWidth 4) →
    QuadLabels s (quadSources s (w s) (written s) (pre s) ro (mkl s)) ls lf →
    ∃ u, exec i s = .next (u.finish s.npc) ∧ VectorGets s u (s.ir.d.setWidth 4) (w s)
      (fun j => if written s j then val s j else vElem (vD s).val (w s) j) ls (f s ||| lf)

/-- Element-wise operations of two sources (R161): an active element gets v of the elements, an inactive one stays. -/
def Elementwise2 (i : Instr) (w : State → Nat) (v : State → Nat → Nat → Nat × Word) : Prop :=
  VectorOp i (fun s => [.v s.ir.a.toNat, .v s.ir.b.toNat]) w active
    (fun s j => (v s (vElem (vA s).val (w s) j) (vElem (vB s).val (w s) j)).1)
    (fun s q => singles [(vA s).quadLab q, (vB s).quadLab q]) false maskLab
    (fun s => activeFlags s (512 / w s) (fun j => (v s (vElem (vA s).val (w s) j) (vElem (vB s).val (w s) j)).2))
def Elementwise1 (i : Instr) (w : State → Nat) (v : State → Nat → Nat × Word) : Prop :=
  VectorOp i (fun s => [.v s.ir.a.toNat]) w active
    (fun s j => (v s (vElem (vA s).val (w s) j)).1)
    (fun s q => singles [(vA s).quadLab q]) false maskLab
    (fun s => activeFlags s (512 / w s) (fun j => (v s (vElem (vA s).val (w s) j)).2))
/-- VD is a third source. -/
def Elementwise3 (i : Instr) (w : State → Nat) (v : State → Nat → Nat → Nat → Nat × Word) : Prop :=
  VectorOp i (fun s => [.v s.ir.a.toNat, .v s.ir.b.toNat]) w active
    (fun s j => (v s (vElem (vA s).val (w s) j) (vElem (vB s).val (w s) j) (vElem (vD s).val (w s) j)).1)
    (fun s q => singles [(vA s).quadLab q, (vB s).quadLab q]) true maskLab
    (fun s => activeFlags s (512 / w s) (fun j => (v s (vElem (vA s).val (w s) j) (vElem (vB s).val (w s) j) (vElem (vD s).val (w s) j)).2))

/-- An element of w bits as a signed number, and a number modulo 2^w. -/
def sgn (w x : Nat) : Int := if 2 * x < 2 ^ w then (x : Int) else (x : Int) - 2 ^ w
def wrap (w : Nat) (x : Int) : Nat := (x % 2 ^ w).toNat
/-- A number held within the signed range of w bits (R163). -/
def saturate (w : Nat) (x : Int) : Int := Max.max (-(2 ^ (w - 1) : Int)) (Min.min x (2 ^ (w - 1) - 1))

/-- VINT of two sources (R163). -/
def vintOps : List (Instr × (Nat → Nat → Nat → Nat)) := [
  (.vadd, fun w x y => (x + y) % 2 ^ w),
  (.vsub, fun w x y => wrap w ((x : Int) - y)),
  (.vmul, fun w x y => x * y % 2 ^ w),
  (.vmulh, fun w x y => wrap w (sgn w x * sgn w y / 2 ^ w)),
  (.vmin, fun w x y => wrap w (Min.min (sgn w x) (sgn w y))),
  (.vmax, fun w x y => wrap w (Max.max (sgn w x) (sgn w y))),
  (.vminu, fun _ x y => Min.min x y),
  (.vmaxu, fun _ x y => Max.max x y),
  (.vand, fun _ x y => x &&& y),
  (.vor, fun _ x y => x ||| y),
  (.vxor, fun _ x y => x ^^^ y),
  (.vshl, fun w x y => x * 2 ^ (y % w) % 2 ^ w),
  (.vshr, fun w x y => x / 2 ^ (y % w)),
  (.vsra, fun w x y => wrap w (sgn w x / 2 ^ (y % w))),
  (.vadds, fun w x y => wrap w (saturate w (sgn w x + sgn w y))),
  (.vsubs, fun w x y => wrap w (saturate w (sgn w x - sgn w y)))]

/-- VFP (R164): the format, the rounding, the two codes. -/
def vfpOps : List (Instr × (WFmt → Nat → Nat → Nat → Nat × Word)) := [
  (.vfadd, fun w rm x y => rounded w rm (fAdd rm (w.decode x) (w.decode y))),
  (.vfsub, fun w rm x y => rounded w rm (fAdd rm (w.decode x) (w.decode y).neg)),
  (.vfmul, fun w rm x y => rounded w rm (fMul (w.decode x) (w.decode y))),
  (.vfdiv, fun w rm x y => rounded w rm (fDiv (w.decode x) (w.decode y))),
  (.vfmin, fun w _ x y => w.minmax false x y),
  (.vfmax, fun w _ x y => w.minmax true x y)]

/-- The fold of a reduction from element 0 of VB over the active elements of VA in increasing order, with the flags (R167). -/
def reduce (s : State) (w : Nat) (f : Nat → Nat → Nat × Word) : Nat × Word :=
  (List.range (512 / w)).foldl (fun r i => if active s i then ((f r.1 (vElem (vA s).val w i)).1, r.2 ||| (f r.1 (vElem (vA s).val w i)).2) else r)
    (vElem (vB s).val w 0, 0)

/-- A reduction: element 0 of VD gets the fold, the others 0 (R167). -/
def Reduction (i : Instr) (w : State → Nat) (f : State → Nat → Nat → Nat × Word) : Prop :=
  VectorOp i (fun s => [.v s.ir.a.toNat, .v s.ir.b.toNat]) w (fun _ _ => true)
    (fun s j => if j = 0 then (reduce s (w s) (f s)).1 else 0) (fun s _ => [(vA s).labs, (vB s).labs]) false maskLab
    (fun s => (reduce s (w s) (f s)).2)

/-- The integer reductions (R167). -/
def vredOps : List (Instr × (Nat → Nat → Nat → Nat)) := [
  (.vredadd, fun w x y => (x + y) % 2 ^ w),
  (.vredmin, fun w x y => wrap w (Min.min (sgn w x) (sgn w y))),
  (.vredmax, fun w x y => wrap w (Max.max (sgn w x) (sgn w y))),
  (.vredminu, fun _ x y => Min.min x y),
  (.vredmaxu, fun _ x y => Max.max x y),
  (.vredand, fun _ x y => x &&& y),
  (.vredor, fun _ x y => x ||| y)]

/-- A cross-element operation of VA and VB (R162). -/
def CrossElement (i : Instr) (val : State → Nat → Nat) : Prop :=
  VectorOp i (fun s => [.v s.ir.a.toNat, .v s.ir.b.toNat]) intWidth active val (fun s _ => [(vA s).labs, (vB s).labs]) false maskLab (fun _ => 0)

/-- Elements of a vector register at EW (R34). -/
def count (s : State) : Nat := 512 / intWidth s
/-- Active elements below i, in number. -/
def activeBelow (s : State) (i : Nat) : Nat := ((List.range i).filter (active s)).length

/-- The condition of an integer VCMP on element i (R165). -/
def vcmpInt (s : State) (i : Nat) : Bool :=
  let x := vElem (vA s).val (intWidth s) i
  let y := vElem (vB s).val (intWidth s) i
  match s.ir.md.toNat with
  | 0 => decide (x = y)
  | 1 => decide (x ≠ y)
  | 2 => decide (sgn (intWidth s) x < sgn (intWidth s) y)
  | 3 => decide (sgn (intWidth s) x ≤ sgn (intWidth s) y)
  | 4 => decide (x < y)
  | _ => decide (x ≤ y)
/-- The condition of a floating-point VCMP: FN 6 to 9 are equal, less, less or equal, unordered (R165). -/
def vcmpFp (s : State) (i : Nat) : Bool × Word :=
  (fpFormatX s).compare (s.ir.md.toNat - 6) (vElem (vA s).val (fpWidth s) i) (vElem (vB s).val (fpWidth s) i)

/-! ### Masks and flow (R137, R176 to R180) -/

def kA (s : State) : Reg := s.act.rdM (s.ir.a.setWidth 3)
def kB (s : State) : Reg := s.act.rdM (s.ir.b.setWidth 3)

/-- A mask operation on the values of masks (R176). -/
def MaskOp (i : Instr) (srcs : State → List Handle) (v : State → Word) : Prop :=
  ∀ s l lf, Labels s (srcs s ++ [s.act.clab]) l lf →
    ∃ u, exec i s = .next (u.finish s.npc) ∧ MaskGets s u (s.ir.d.setWidth 3) (v s) l lf
/-- A scalar result from a mask. -/
def MaskToScalar (i : Instr) (v : Word → Word) : Prop :=
  ∀ s l lf, Named s [.s s.ir.d.toNat] → FreeS s s.ir.d → Labels s [(kA s).lab, s.act.clab] l lf →
    ∃ u, exec i s = .next (u.finish s.npc) ∧ ScalarGets s u s.ir.d (v (kA s).val) l lf

/-- The control label after a transfer that the handles decide, with the flags: their product enters it unless it is TRUE (R137). -/
def Joins (s : State) (hs : List Handle) (c : Handle) (f : Word) : Prop :=
  ∃ t p g, s.product hs = .ok (t, p, g) ∧
    if p = 0 then c = s.act.clab ∧ f = 0 else ∃ u g', t.product [s.act.clab, p] = .ok (u, c, g') ∧ f = (g ||| g') &&& flagLW

/-- The target of a transfer with a word offset of n bits (R177, R178). -/
def target (s : State) (n : Nat) : Word := BitVec.ofInt 64 (s.act.pc.toInt + 4 * (BitVec.ofNat n s.ir.imm.toNat).toInt)

/-- A conditional branch goes to PC + 4 OFF10 when the condition holds, and the labels that decide it enter CLAB either way. -/
def BranchOp (i : Instr) (c : Word → Word → Bool) : Prop :=
  ∀ s k f, Named s [.s s.ir.a.toNat, .s s.ir.b.toNat] → s.labOf (aReg s).lab ≠ none → s.labOf (s.act.rd s.ir.b).lab ≠ none →
    Joins s [(aReg s).lab, (s.act.rd s.ir.b).lab] k f →
    ∃ u, ControlGets s u k f ∧
      exec i s = .next (u.finish (if c (aReg s).val (s.act.rd s.ir.b).val then target s 10 else s.npc))
def MaskBranch (i : Instr) (c : Word → Bool) : Prop :=
  ∀ s k f, s.labOf (kA s).lab ≠ none → Joins s [(kA s).lab] k f →
    ∃ u, ControlGets s u k f ∧ exec i s = .next (u.finish (if c (kA s).val then target s 10 else s.npc))

/-- PS when a label is POISON (R142), in the acting core's cluster and in cluster k. -/
def ps (s : State) (l : Handle) : Word := if s.labOf l = none then 1 <<< 16 else 0
def psAt (s : State) (k : Nat) (l : Handle) : Word := if tlab (s.cluster k).clt l = none then 1 <<< 16 else 0

/-! ### System instructions (R80 to R82, R181 to R184, R282, R330 to R340) -/

/-- An instruction that is a marker goes on at once: no result is outstanding, no fault is recorded, the activation is not
cancelled and the core is not asked to stop (R80, R306, R361). -/
def AtRest (s : State) : Prop := s.act.outs = [] ∧ s.act.deferred = [] ∧ s.act.cancelled = false ∧ s.me.stopReq = false

/-- A status lands at once: the register gets the value under CLAB (R313). -/
def StatusGets (s u : State) (d : BitVec 6) (v : Word) : Prop := ScalarGets s u d v s.act.clab (ps s s.act.clab)

/-- The core has nothing else to run. -/
def Alone (k : Core) : Prop := k.ready = [] ∧ k.queue = []

/-- The running activation has parked with a wait, to resume at an address; nothing else is changed (R26, R80, R302). -/
def Parks (s u : State) (p : Park) (n : Word) : Prop :=
  u = { s with cores := u.cores } ∧ (∀ c, c ≠ s.cur → u.core c = s.core c) ∧
  u.me = { s.me with running := false, parked := s.me.parked ++ [{ s.act with park := some p, npc := n }] }

/-- Whether the trap goes to UVEC, and where the handler starts (R42, R336). -/
def delegated (s : State) (c : Cause) : Bool :=
  !decide (c ∈ [Cause.priv, .stop, .pfail, .checker, .nakfenced]) && s.me.xdeleg.getLsbD c.code && !s.act.sup && decide (4 ≤ s.me.uvec.toNat)
def vector (s : State) (c : Cause) : Word := BitVec.ofNat 64 ((if delegated s c then s.me.uvec else s.me.xvec).toNat / 4 * 4)

/-- The trap c with value v has been taken: the saved registers, the mode, the shadow registers and the pc are those of R336 and
R337; every register of the interrupted activation, and everything outside the core but its trace, is as it was. -/
def TrapTaken (s u : State) (c : Cause) (v xpc : Word) : Prop :=
  u = { s with cores := u.cores, clusters := u.clusters } ∧ (∀ n, n ≠ s.cur → u.core n = s.core n) ∧
  (∀ k, u.cluster k = { s.cluster k with dbg := (u.cluster k).dbg }) ∧
  u.me = { s.me with xcause := BitVec.ofNat 64 (c.code + if delegated s c then 256 else 0), xval := v, xpc := xpc,
                     stallSince := none, twait := false, act := u.act } ∧
  u.act = { s.act with
    pc := vector s c, sup := !delegated s c, clab := 0, cstack := [], pend := none, dfr := false, elect := none,
    trap := some { sup := s.act.sup, clab := s.act.clab, cstack := s.act.cstack, shadow := Vector.replicate 16 {},
                   stop := decide (c = .stop), deferred := [] } }

/-- A trap can be taken now: no result is outstanding or recorded as a fault, no handler runs, and a vector is set. -/
def CanTrap (s : State) (c : Cause) : Prop :=
  s.act.outs = [] ∧ s.act.deferred = [] ∧ s.act.trap = none ∧ (delegated s c = true ∨ s.me.xvec ≠ 0)

/-- Word 0 of the instruction, and word 1 of an extended form: XVAL of ILLEGAL and PRIV (R86). -/
def words01 (s : State) : Word :=
  match s.raw with
  | [] => 0
  | [w] => BitVec.ofNat 64 w.toNat
  | w :: x :: _ => BitVec.ofNat 64 (w.toNat + if w.toNat / 2 ^ 30 % 2 = 1 then x.toNat * 2 ^ 32 else 0)

/-- The selectors that R38 lists, outside a handler. -/
def listed (n : Nat) : Bool :=
  decide (n ∈ [0, 1, 2, 3, 4, 5, 6, 7, 8, 9, 0x10, 0x11, 0x12, 0x13, 0x14, 0x15, 0x18, 0x19, 0x1A, 0x20, 0x21, 0x30, 0x40, 0x81, 0x82,
    0x83, 0x84, 0x85, 0x86, 0x87, 0x88, 0x89, 0x8A, 0x8B, 0x8C, 0x8D, 0x8E, 0x8F, 0x90])
/-- The selectors that job mode may not access (R38). -/
def supervisorOnly (n : Nat) : Bool := decide (n ∈ [0x13, 0x21, 0x40, 0x84, 0x8D])
/-- The registers that GETC gives as they stand (R38, R41, R241). CYCLE stands still while the core's cluster is gated. -/
def controlValues (s : State) : List (Nat × Word) :=
  let k := s.me; let a := s.act; let x := s.myCluster
  [(0x00, a.flags), (0x01, a.focus), (0x02, BitVec.ofNat 64 a.clab.toNat), (0x03, if k.lpol then 1 else 0), (0x05, a.pix), (0x06, k.color),
   (0x08, BitVec.ofNat 64 x.ltime.toNat), (0x09, (if x.gated then x.gatedAt else s.clock) - k.gatedCycles),
   (0x10, k.xcause), (0x11, k.xval), (0x12, k.xpc), (0x13, k.xvec), (0x14, k.uvec), (0x15, k.xdeleg), (0x18, BitVec.ofNat 64 k.lsplit.toNat),
   (0x19, BitVec.ofNat 64 k.vpool.toNat), (0x20, BitVec.ofNat 64 k.age.toNat), (0x21, k.chbase), (0x30, k.msquota), (0x40, k.dmapbase),
   (0x81, BitVec.ofNat 64 k.accmap.toNat), (0x82, k.rngst), (0x83, x.mxwt), (0x84, k.ptroot), (0x85, 0x708404020), (0x86, x.ordcfg), (0x87, a.focld),
   (0x88, k.sqwake), (0x89, k.msgcnt), (0x8A, k.hqbase), (0x8C, k.xrpc), (0x8D, k.ctxbase), (0x8E, s.plant.hostcap), (0x8F, x.errcnt), (0x90, x.clwdog)]
/-- What SETC of v to a register leaves: its writable fields take v, and a register that is read-only in job mode keeps its value there
(R14, R37, R38, R40). -/
def controlWrites (s : State) (v : Word) : List (Nat × State) :=
  let k := s.me; let a := s.act; let x := s.myCluster
  let sup := fun (t : State) => if a.sup = true then t else s
  [(0x01, s.setAct { a with focus := v }), (0x03, s.setMe { k with lpol := v.toNat % 2 == 1 }), (0x10, s.setMe { k with xcause := v &&& 0x1FF }),
   (0x11, s.setMe { k with xval := v }), (0x12, s.setMe { k with xpc := v }), (0x13, s.setMe { k with xvec := BitVec.ofNat 64 (v.toNat / 4 * 4) }),
   (0x14, s.setMe { k with uvec := BitVec.ofNat 64 (v.toNat / 4 * 4) }), (0x15, sup (s.setMe { k with xdeleg := v &&& 0x7FFF6 })),
   (0x20, sup (s.setMe { k with age := BitVec.ofNat 16 v.toNat })), (0x21, s.setMe { k with chbase := v &&& 0xFFFFFFFFFFFFF001 }),
   (0x40, s.setMe { k with dmapbase := v &&& 0xFFFFFFFFFFFFFFC1 }), (0x82, s.setMe { k with rngst := v }),
   (0x84, s.setMe { k with ptroot := v &&& 0x7FFFFFFFFF001 }), (0x87, s.setAct { a with focld := BitVec.ofNat 64 (v.toNat % 2) }),
   (0x88, s.setMe { k with sqwake := v &&& 0x077F077F }), (0x89, sup (s.setMe { k with msgcnt := v })),
   (0x8A, sup (s.setMe { k with hqbase := v &&& 0xFFFFFFFFFFFFFFC1 })), (0x8C, s.setMe { k with xrpc := v }),
   (0x8D, s.setMe { k with ctxbase := v &&& 0xFFFFFFFFFFF00001 }), (0x8F, sup (s.setMyCluster { x with errcnt := v })),
   (0x90, sup (s.setMyCluster { x with clwdog := BitVec.ofNat 64 (v.toNat % 2 ^ 24) }))]
/-- The registers that no SETC changes, in either mode (R38). -/
def readOnlyControls : List Nat := [0x02, 0x04, 0x06, 0x07, 0x08, 0x09, 0x85, 0x8E]
/-- The access passes the checks of R37 and R84. -/
def MayAccess (s : State) (n : Nat) (r : BitVec 6) : Prop :=
  listed n = true ∧ (s.act.sup = true ∨ supervisorOnly n = false) ∧ Within s (.s r.toNat)

/-- The quotas of the other cores of the Sill die (R408). -/
def otherQuotas (s : State) : Nat :=
  ((s.cores.filter (fun p => p.1 != s.cur && sillOf p.1 == sillOf s.cur)).map (fun p => p.2.msquota.toNat % 2048)).sum

/-! ### The values of floating point (R87 to R97, R153 to R159, R169) -/

/-- The number of a finite value. -/
def num : FVal → Rat
  | .num n m e => (if n then -1 else 1) * m * 2 ^ e
  | _ => 0
def Finite (a : FVal) : Prop := ∃ n m e, a = .num n m e
/-- The sign of the code of a wide format, and the order of its codes that are no NaN: -0 and +0 are equal (R87, R154). -/
def codeSign (w : WFmt) (x : Nat) : Nat := x / w.signBit % 2
def codeOrder (w : WFmt) (x : Nat) : Int := if codeSign w x = 1 then -((x % w.signBit : Nat) : Int) else ((x % w.signBit : Nat) : Int)
def NanCode (w : WFmt) (x : Nat) : Prop := x / 2 ^ w.f % 2 ^ w.eb = w.emax ∧ x % 2 ^ w.f ≠ 0
def SigCode (w : WFmt) (x : Nat) : Prop := NanCode w x ∧ x % 2 ^ w.f < 2 ^ (w.f - 1)
/-- The magnitude of a code without its sign; the code after the largest finite one continues the last binade (R87, R94). -/
def magnitude (w : WFmt) (c : Nat) : Rat :=
  if c / 2 ^ w.f = 0 then (c : Rat) * 2 ^ w.qmin else ((2 ^ w.f + c % 2 ^ w.f : Nat) : Rat) * 2 ^ ((c / 2 ^ w.f : Nat) - (w.bias : Int) - (w.f : Int))
/-- Whether Round takes the upper neighbour of a magnitude q that lies from lo to below hi, the code of lo being c (R94). -/
def RoundsUp (mode draw : Nat) (neg : Bool) (c : Nat) (lo hi q : Rat) : Prop :=
  q ≠ lo ∧ match mode with
  | 1 => False
  | 2 => neg = false
  | 3 => neg = true
  | 4 => lo + hi ≤ 2 * q
  | 6 => ((draw : Rat) + 1) * (hi - lo) ≤ (q - lo) * 65536
  | _ => lo + hi < 2 * q ∨ lo + hi = 2 * q ∧ c % 2 = 1
/-- m units of 2^e stand for a magnitude with its place between the units kept: an even m is exact, an odd one stands for what lies strictly
between its neighbours; and m has more bits than any format keeps. -/
def Traces (m : Nat) (below above : Rat → Prop) (exact : Rat → Prop) (e : Int) : Prop :=
  2 ^ 64 ≤ m ∧ (m % 2 = 0 → exact ((m : Rat) * 2 ^ e)) ∧ (m % 2 = 1 → below (((m : Rat) - 1) * 2 ^ e) ∧ above (((m : Rat) + 1) * 2 ^ e))
/-- The integers of a conversion code and its width (R96, R159). -/
def integerCodes : List (Nat × Int × Int × Nat) := [(4, -(2 ^ 63), 2 ^ 63 - 1, 64), (5, 0, 2 ^ 64 - 1, 64), (6, -(2 ^ 31), 2 ^ 31 - 1, 32), (7, 0, 2 ^ 32 - 1, 32)]
/-- The integer r is the one to which a mode rounds q (R94, R96). -/
def RoundsTo (mode : Nat) (q : Rat) (r : Int) : Prop :=
  |(r : Rat) - q| < 1 ∧ (mode = 1 → |(r : Rat)| ≤ |q|) ∧ (mode = 2 → q ≤ r) ∧ (mode = 3 → (r : Rat) ≤ q) ∧
  (mode ≠ 1 → mode ≠ 2 → mode ≠ 3 → |(r : Rat) - q| * 2 ≤ 1 ∧ (|(r : Rat) - q| * 2 = 1 → if mode = 4 then |q| < |(r : Rat)| else r % 2 = 0))
/-- KIND and EXP of the class word (R155). -/
def classKind (w : WFmt) (x : Nat) : Nat :=
  if x / 2 ^ w.f % 2 ^ w.eb = w.emax then (if x % 2 ^ w.f = 0 then 3 else if x % 2 ^ w.f < 2 ^ (w.f - 1) then 7 else 6)
  else if x / 2 ^ w.f % 2 ^ w.eb = 0 then (if x % 2 ^ w.f = 0 then 0 else 1) else 2
def classExp (w : WFmt) (x : Nat) : Int :=
  if classKind w x = 2 then ((x / 2 ^ w.f % 2 ^ w.eb : Nat) : Int) - w.bias
  else if classKind w x = 1 then (Nat.log2 (x % 2 ^ w.f) : Int) + w.qmin else 0
/-- The draws that the elements of a conversion have taken before and with element i (R97). -/
def elementDraws (mask : Word) (mode i : Nat) : Nat := if mode = 6 then ((List.range (i + 1)).filter (fun j => mask.getLsbD j)).length else 0

/-! ### Memory (R20 to R25, R170 to R175, R224, R235, R247, R266 to R273) -/

/-- The key of an address of the local window in the scratchpads of the core's cluster (R22, R23). -/
def scratchKey (s : State) (x : Word) : Nat := 2 ^ 39 + s.cur / 8 * 2 ^ 21 + x.toNat % 2 ^ 60

/-- The address lies in the core's own portion below its split, seen through the local window (R20, R22, R224). -/
def Own (s : State) (x : Word) : Prop :=
  x.toNat / 2 ^ 60 = 8 ∧ x.toNat % 2 ^ 60 / 2 ^ 18 = s.cur % 8 ∧ x.toNat % 2 ^ 18 < s.me.scratchSize

/-- The core is one of the module's, no Shutter is closed on it, and no tenure holds a scratchpad line (R18, R252, R395). -/
def Calm (s : State) : Prop :=
  s.cur < 9216 ∧ s.shuttered s.cur = false ∧
  ∀ k, 2 ^ 39 ≤ k → k < 2 ^ 40 → s.tenureAt (k / 64) = none ∧ s.pageAbroad (k / 64) = none

/-- The tag of a granule that the job may meet: its own (R382). -/
def OwnTag (s : State) (x : Word) : Prop := s.foreignTag false (scratchKey s x) s.slot = false

/-- The address of a format-M access of n bytes: base plus the signed offset in units of n (R67, R269). -/
def memAddr (s : State) (n : Nat) : Word := BitVec.ofInt 64 ((aReg s).val.toInt + n * (BitVec.ofNat 7 s.ir.imm.toNat).toInt)

/-- Bytes and sign extension of SZ: B, H, W, D, Q, BU, HU, WU (R268). -/
def sizeOf : Nat → Nat × Bool
  | 0 => (1, true) | 1 => (2, true) | 2 => (4, true) | 3 => (8, true) | 4 => (16, false) | 5 => (1, false) | 6 => (2, false) | _ => (4, false)

/-- A little-endian value of n bytes in memory, as a register gets it (R11, R268). -/
def loaded (m : List Host.Cell) (k n : Nat) (signed : Bool) : Word :=
  let v := ofBytes (Memory.readN m k n)
  if signed ∧ 2 ^ (8 * n - 1) ≤ v then BitVec.ofInt 64 ((v : Int) - 2 ^ (8 * n)) else BitVec.ofNat 64 v

/-- The label of a load from a granule: of the address, of the granule, and the control label; u is the state with it
interned (R119, R129, R269). -/
def LoadLabel (s u : State) (k : Nat) (la l : Handle) (f : Word) : Prop :=
  (s.timeLoad false k).productL [.h la, s.tagSrc false k, .h s.act.clab] = .ok (u, l, f)

/-- A load with focus whose label does not hold writes zero under EMPTY (R267). -/
def hidden (s u : State) (l : Handle) : Bool := s.act.focld.getLsbD 0 && !holds u.lab (u.labOf l) s.act.focus

/-- An access by the running activation: memory aside, only registers, flags and the floor of the activation, the label table
and the time of its cluster, the copies of the line that its cores hold, and the stamps change. -/
def Access (s u : State) : Prop :=
  u = { s with cores := u.cores, clusters := u.clusters, stamps := u.stamps, mem := u.mem, tags := u.tags, fe := u.fe } ∧
  (∀ c, c ≠ s.cur → u.core c = { s.core c with copies := (u.core c).copies, victims := (u.core c).victims }) ∧
  u.me = { s.me with act := u.act, copies := u.me.copies, victims := u.me.victims } ∧
  u.act = { s.act with sregs := u.act.sregs, vregs := u.act.vregs, trap := u.act.trap, flags := u.act.flags, floor := u.act.floor, outs := u.act.outs,
                       pix := u.act.pix } ∧
  (∀ k, k ≠ s.cl → u.cluster k = s.cluster k) ∧ u.myCluster = { s.myCluster with clt := u.myCluster.clt, ltime := u.myCluster.ltime }

/-- Registers that an access leaves alone. -/
def KeepsS (s u : State) (ds : List (BitVec 6)) : Prop := ∀ r : BitVec 6, r ∉ ds → Within s (.s r.toNat) → u.act.rd r = s.act.rd r
def KeepsV (s u : State) (ds : List (BitVec 4)) : Prop := ∀ r : BitVec 4, r ∉ ds → u.act.rdV r = s.act.rdV r

/-- Nothing that memory holds changes: bytes, tags, full and empty bits. -/
def KeepsMemory (s u : State) : Prop := u.mem = s.mem ∧ u.tags = s.tags ∧ u.fe = s.fe

/-- The n bytes from k hold the given bytes; every other byte reads as before. -/
def Stores (s u : State) (k : Nat) (bs : List Byte) : Prop :=
  Memory.readN u.mem k bs.length = bs ∧ ∀ a, a < k ∨ k + bs.length ≤ a → Memory.read u.mem a = Memory.read s.mem a

/-- A store under label l to a granule of the own cluster: the label replaces the tag when the whole granule is written, and
in these cases needs no product with it (R129). -/
def TagReady (s : State) (k n : Nat) (l : Handle) : Prop := n = 16 ∨ l = 0 ∨ s.rdTag false (k / 16) = l ∨ s.rdTag false (k / 16) = 0
def newTag (s : State) (k n : Nat) (l : Handle) : Handle := if n = 16 then l else if l = 0 then s.rdTag false (k / 16) else l

/-- The new value of an ATOM of 8 bytes or, for AFADD.S, of 4, with its flags (R271). -/
def atomNew (op : AtomOp) (rm : Nat) (old b e : Word) : Word × Word :=
  match op with
  | .add => (BitVec.ofNat 64 (old.toNat + b.toNat), 0)
  | .and => (ofBits 64 (fun i => old.getLsbD i && b.getLsbD i), 0)
  | .or => (ofBits 64 (fun i => old.getLsbD i || b.getLsbD i), 0)
  | .xor => (ofBits 64 (fun i => old.getLsbD i != b.getLsbD i), 0)
  | .min => (BitVec.ofInt 64 (Min.min old.toInt b.toInt), 0)
  | .max => (BitVec.ofInt 64 (Max.max old.toInt b.toInt), 0)
  | .minu => (BitVec.ofNat 64 (Min.min old.toNat b.toNat), 0)
  | .maxu => (BitVec.ofNat 64 (Max.max old.toNat b.toNat), 0)
  | .swap => (b, 0)
  | .faddd => let r := rounded (fmtOf .d) rm (fAdd rm ((fmtOf .d).decode old.toNat) ((fmtOf .d).decode b.toNat)); (BitVec.ofNat 64 r.1, r.2)
  | .fadds =>
    let r := rounded (fmtOf .s) rm (fAdd rm ((fmtOf .s).decode (old.toNat % 2 ^ 32)) ((fmtOf .s).decode (b.toNat % 2 ^ 32)))
    (BitVec.ofNat 64 r.1, r.2)
  | _ => (if old = e then b else old, 0)

/-- The labels of an ATOM: what it stores has the product of the data's labels, the address's and CLAB; its result that of
the address, the granule and CLAB (R272). -/
def AtomLabels (s : State) (hs : List Handle) (k : Nat) (ls l : Handle) (f g : Word) : Prop :=
  ∃ t u, s.product (hs ++ [(aReg s).lab, s.act.clab]) = .ok (t, ls, f) ∧ t.productL [.h (aReg s).lab, t.tagSrc false k, .h s.act.clab] = .ok (u, l, g)

/-- The atomics of one 8-byte or 4-byte word. -/
def atomOps : List (Instr × AtomOp × Nat) := [
  (.aadd, .add, 8), (.aand, .and, 8), (.aor, .or, 8), (.axor, .xor, 8), (.amin, .min, 8), (.amax, .max, 8), (.aminu, .minu, 8),
  (.amaxu, .maxu, 8), (.aswap, .swap, 8), (.afaddd, .faddd, 8), (.afadds, .fadds, 4), (.acas, .cas, 8)]

/-- No label is met: those of the registers named are TRUE, CLAB is TRUE, and every granule of the scratchpads is TRUE. -/
def Unlabelled (s : State) (hs : List Handle) : Prop :=
  s.act.clab = 0 ∧ (∀ h ∈ hs, h = 0) ∧ (s.ir.k ≠ 0 → (s.act.rdM s.ir.k).lab = 0) ∧ ∀ k, 2 ^ 39 ≤ k → k < 2 ^ 40 → s.rdTag false (k / 16) = 0

/-- Addresses of the elements: contiguous, by stride, by index (R170 to R172). -/
def contiguous (s : State) (i : Nat) : Word := BitVec.ofInt 64 ((aReg s).val.toInt + 64 * (BitVec.ofNat 7 s.ir.imm.toNat).toInt + i * (intWidth s / 8 : Nat))
def strided (s : State) (i : Nat) : Word := BitVec.ofInt 64 ((aReg s).val.toInt + i * (s.act.rd s.ir.b).val.toInt)
def displacement (s : State) : Word := match s.ir.lit with | some x => x | none => BitVec.ofInt 64 s.ir.imm.toInt
def byIndex (s : State) (i : Nat) : Word :=
  BitVec.ofInt 64 ((aReg s).val.toInt + (displacement s).toInt + sgn (intWidth s) (vElem (vB s).val (intWidth s) i) * 2 ^ (s.ir.md.toNat % 4))

/-- Every active element lies, aligned, in the core's own portion. -/
def OwnElements (s : State) (addr : State → Nat → Word) : Prop :=
  ∀ i, i < count s → active s i = true → Own s (addr s i) ∧ (addr s i).toNat % (intWidth s / 8) = 0

/-- The elements that a vector load gives: from memory where active, else the old ones (R170). -/
def gathered (s : State) (addr : State → Nat → Word) (i : Nat) : Nat :=
  if active s i then ofBytes (Memory.readN s.mem (scratchKey s (addr s i)) (intWidth s / 8)) else vElem (vD s).val (intWidth s) i

/-- Memory after the active elements are stored in increasing order (R170, R175). -/
def scattered (s : State) (addr : State → Nat → Word) : List Host.Cell :=
  ((List.range (count s)).filter (active s)).foldl
    (fun m i => Memory.writeN m (scratchKey s (addr s i)) (toBytes (intWidth s / 8) (vElem (vD s).val (intWidth s) i))) s.mem

/-! ### Messages (R249, R300, R308 to R325) -/

/-- The receiver that a target word names: core, module, channel; by alias with bit 38 (R310, R314). -/
def receiver (s : State) (t : Word) : Nat × Nat × Nat :=
  let e := ((fget (s.job s.slot).alias_ (t.toNat % 4096)).getD 0).toNat
  if t.getLsbD 38 then (e % 2 ^ 14 + s.cur % (e / 2 ^ 14 % 64 + 1), e / 2 ^ 26 % 2 ^ 13, e / 2 ^ 20 % 64)
  else (t.toNat % 2 ^ 14, t.toNat / 2 ^ 16 % 2 ^ 13, t.toNat / 2 ^ 32 % 64)

/-- The target word is well formed, its alias valid, and the receiver in the sub-mesh of a sender that must stay there (R310, R314, R315). -/
def MayReach (s : State) (t : Word) : Prop :=
  t.toNat < 2 ^ 40 ∧
  (if t.getLsbD 38 then
    let e := ((fget (s.job s.slot).alias_ (t.toNat % 4096)).getD 0).toNat
    t.toNat % 2 ^ 32 < 4096 ∧ t.toNat / 2 ^ 32 % 64 = 0 ∧ e / 2 ^ 39 % 2 = 1 ∧ e % 2 ^ 14 + e / 2 ^ 14 % 64 ≤ 9215
  else t.toNat % 2 ^ 16 < 9216 ∧ t.toNat / 2 ^ 16 % 2 ^ 16 < 6144) ∧
  ((receiver s t).2.1 ≠ s.modId ∨ (s.act.sup = true ∧ 56 ≤ (receiver s t).2.2) ∨ s.inSub s.slot (receiver s t).1 = true)

/-- The full label of a message, from groups of handles of the sender, each a factor of its own (R119, R127, R162, R315). -/
def FullLabel (s : State) (gs : List (List Handle)) (l : Lab) (f : Word) : Prop := ∃ t, s.msgLabel (gs.map (fun g => g.map LSrc.h)) = .ok (t, l, f)

/-- What a cut counts as sent: the message's colour is the core's, which is the old one until the core has flipped (R361, R362). -/
def counted (k : Core) : Core :=
  if k.color.getLsbD 1 then { k with sentNew := k.sentNew + 1 } else { k with sentOld := k.sentOld + 1 }

/-- A send queue has room (R308). -/
def QueueRoom (s : State) (rep : Bool) : Prop := (if rep then s.me.sendRep else s.me.sendReq).length < 8

/-- A message with the sender's core, module, floor, slot and number enters the send queue of its class; the activation awaits
one answer more; nothing else changes but the label table, the time and the trace of its cluster and the stamps (R249, R300, R308, R309, R315, R362). -/
def Sent (s u : State) (to_ : Nat × Nat × Nat) (rep : Bool) (payload : List Byte) (l : Lab) (f : Word) : Prop :=
  ∃ m : Msg, m.core = to_.1 ∧ m.dmod.toNat = to_.2.1 ∧ m.chan.toNat = to_.2.2 ∧ m.net = (if rep then 1 else 0) ∧ m.payload = payload ∧ m.lab = l ∧
    m.score = BitVec.ofNat 14 s.cur ∧ m.smod = s.plant.modId ∧ m.time = u.act.floor ∧ m.from_ = some (s.cur, s.act.aid) ∧ m.badAlias = false ∧
    m.sup = (s.act.sup && decide (56 ≤ to_.2.2)) ∧ m.tslot = s.slot ∧ m.seq = s.me.sendSeq ∧ m.chset = none ∧ m.start = false ∧ m.succ = false ∧
    m.color = s.me.color.getLsbD 0 ∧ m.counted = false ∧
    u.me = { counted s.me with
      sendSeq := s.me.sendSeq + 1, act := u.act
      sendReq := if rep then s.me.sendReq else s.me.sendReq ++ [m]
      sendRep := if rep then s.me.sendRep ++ [m] else s.me.sendRep } ∧
    u.act = { s.act with unanswered := s.act.unanswered + 1, flags := s.act.flags ||| f, floor := u.act.floor } ∧
    u = { s with cores := u.cores, clusters := u.clusters, stamps := u.stamps } ∧ (∀ c, c ≠ s.cur → u.core c = s.core c) ∧
    (∀ k, k ≠ s.cl → u.cluster k = s.cluster k) ∧
    u.myCluster = { s.myCluster with clt := u.myCluster.clt, ltime := u.myCluster.ltime, dbg := u.myCluster.dbg }

/-- The n bytes from x lie in the core's own portion (R20, R22). -/
def OwnRange (s : State) (x : Word) (n : Nat) : Prop := Own s x ∧ x.toNat % 2 ^ 18 + n ≤ s.me.scratchSize ∧ x.toNat % 2 ^ 18 + n ≤ 2 ^ 18

/-- The bytes of a payload that memory gives (R315). -/
def payloadOf (s : State) : List Byte := Memory.readN s.mem (scratchKey s (aReg s).val) (bReg s).val.toNat

/-- The registers that SENDX sends: the first of A, B, C, E (R317). -/
def sendxRegs (s : State) : List (BitVec 6) := [s.ir.a, s.ir.b, s.ir.c, s.ir.e].take s.ir.md.toNat
/-- The vector registers that SENDV sends (R316). -/
def sendvRegs (s : State) : List (BitVec 4) := (List.range (bReg s).val.toNat).map (fun i => BitVec.ofNat 4 (s.ir.a.toNat + i))

/-- An entry of the host queue, of a payload under TRUE and a time (R320). -/
def hostQueueEntry (s : State) (payload : List Byte) (t : Time) : List Byte :=
  toBytes 8 (payload.length + 2 ^ 9 + s.cur * 2 ^ 16 + s.modId * 2 ^ 32 + s.dtid s.slot * 2 ^ 48) ++ toBytes 6 t.toNat ++ List.replicate 18 0
    ++ payload ++ List.replicate (256 - payload.length) 0 ++ List.replicate 8 0 ++ List.replicate 120 0 ++ List.replicate 96 0

/-! ### What a parked activation gets (R26, R302, R313) -/

/-- Nothing changes but references in the label tables of the clusters. -/
def ButTables (s u : State) : Prop :=
  u = { s with clusters := u.clusters } ∧ ∀ k, u.cluster k = { s.cluster k with clt := (u.cluster k).clt }

/-- The parked activation a of core c has become ready as b, and the core takes the next activation if it is idle (R302). -/
def Wakes (s u : State) (c : Nat) (a b : Act) : Prop :=
  u = (s.setCore c { s.core c with
    parked := (s.core c).parked.filter (fun x => x.slot != a.slot)
    ready := (s.core c).ready ++ [{ b with park := none, readyAt := s.clock }] }).dispatch c

/-- The parked activation a of core c gets a status in d under its control label, and goes on after its instruction (R313). -/
def Returns (s u : State) (c : Nat) (a : Act) (d : BitVec 6) (v : Word) (floor : Time) : Prop :=
  ∃ (t : State) (b : Act), ButTables s t ∧ Wakes t u c a b ∧
    b = { a with pc := a.npc, sregs := b.sregs, trap := b.trap, flags := a.flags ||| psAt s (c / 8) a.clab, floor := floor } ∧
    b.rd d = (if d = 0 then { val := 0, lab := 0 } else { val := v, lab := a.clab }) ∧
    (a.trap = none → b.trap = none ∧ ∀ r, r ≠ d → b.rd r = a.rd r)

/-- The parked activation a of core c goes on after its instruction, unchanged (R302). -/
def GoesOn (s u : State) (c : Nat) (a : Act) : Prop := Wakes s u c a { a with pc := a.npc }

/-- The event names a parked activation, which waits so. -/
def Waits (s : State) (a : Act) (p : Park) : Prop := s.parkedAt s.arg.n s.arg.m = some a ∧ a.park = some p ∧ a.elect = none

/-- The order in which ready activations run: a higher level, then longer ready, then the lower channel (R302). -/
def NotAfter (a b : Act) : Prop :=
  b.level.toNat < a.level.toNat ∨ (a.level = b.level ∧
    (a.readyAt.toNat < b.readyAt.toNat ∨ (a.readyAt = b.readyAt ∧ a.chan.toNat ≤ b.chan.toNat)))

/-! ### Launches and counters (R304 to R306, R326 to R329) -/

/-- The number of counters of a level: launches, graphs, phases, the job (R304). -/
def countersOf (level : Nat) : Nat := if level = 0 then 4096 else if level = 1 then 1024 else if level = 2 then 256 else 1
/-- A counter identity that exists: level in bits 15:14, index below (R304, R329). -/
def Identity (v : Word) : Prop := v.toNat < 2 ^ 16 ∧ v.toNat % 2 ^ 14 < countersOf (v.toNat / 2 ^ 14)

/-- The record at sa, in the core's own portion and unlabelled, that LAUNCH reads (R326). -/
def launchLine (s : State) : Line := BitVec.ofNat 512 (ofBytes (Memory.readN s.mem (scratchKey s (aReg s).val) 64))
def CanLaunch (s : State) : Prop :=
  Named s [.s s.ir.d.toNat, .s s.ir.a.toNat] ∧ AtRest s ∧ Calm s ∧ OwnRange s (aReg s).val 64 ∧ (aReg s).val.toNat % 64 = 0 ∧
  Unlabelled s [(aReg s).lab]

/-- A counter of a level is free: launch index 0 names none and is never allocated (R304). -/
def FreeAt (s : State) (level i : Nat) : Prop :=
  i < countersOf level ∧ ¬ (level = 0 ∧ i = 0) ∧ (s.counter s.slot (level * 2 ^ 14 + i)).state = .free
/-- The lowest free counter of a level; no counter of a level is free. -/
def LowestFree (s : State) (level id : Nat) : Prop := ∃ i, id = level * 2 ^ 14 + i ∧ FreeAt s level i ∧ ∀ j, j < i → ¬ FreeAt s level j
def NoneFree (s : State) (level : Nat) : Prop := ∀ i, ¬ FreeAt s level i
/-- GRAPH, or PHASE where GRAPH is 0, names an OPEN counter of its level, or none (R327). -/
def NamesOpen (s : State) (l : LaunchRec) : Prop :=
  let open_ := fun (level id : Nat) => id / 2 ^ 14 = level ∧ (s.counter s.slot id).state = .open_
  (l.graph ≠ 0 → open_ 1 l.graph) ∧ (l.graph = 0 → l.phase ≠ 0 → open_ 2 l.phase)
/-- The counters that a LAUNCH takes: the lowest free launch counter c; the graph g, the lowest free one where the record names none; the
phase p of a new graph, the lowest free one where the record names none, which np says (R327). -/
def Takes (s : State) (l : LaunchRec) (c g : Nat) (np : Option Nat) (p : Nat) : Prop :=
  LowestFree s 0 c ∧ (l.graph ≠ 0 → g = l.graph ∧ np = none ∧ p = 0) ∧
  (l.graph = 0 → LowestFree s 1 g ∧ (l.phase ≠ 0 → np = none ∧ p = l.phase) ∧ (l.phase = 0 → LowestFree s 2 p ∧ np = some p))
/-- A counter that the LAUNCH needs is not free (R327). -/
def Exhausted (s : State) (l : LaunchRec) : Prop :=
  NoneFree s 0 ∨ (l.graph = 0 ∧ NoneFree s 1) ∨ (l.graph = 0 ∧ l.phase = 0 ∧ NoneFree s 2)

/-- The launch may start its activations: those of another module, a supervisor's on a privileged channel, those of the sub-mesh (R327). -/
def MayStart (s : State) (l : LaunchRec) : Prop :=
  l.rmod = true ∨ (s.act.sup = true ∧ 56 ≤ l.chan.toNat) ∨ ∀ k ∈ l.clusters, s.inSub s.slot (8 * k) = true
/-- The counter that an identity names: index 0 of the launch counters is always free; the job counter stands in ZERO until it is raised (R304). -/
def counterNamed (s : State) (id : Nat) : Counter := if id = 0 then {} else s.counterOr s.slot id

/-! ### Labels (R115 to R119, R132, R133, R185 to R196) -/

/-- The result label of sources of both kinds, with its flags (R119, R126). -/
def SourceLabels (s : State) (l : List LSrc) (h : Handle) (f : Word) : Prop := ∃ t, s.productL l = .ok (t, h, f)

/-- An environment without the premises, as the die of the acting core knows them (R118). -/
def stripped (s : State) (e : Env) : Env := ofBits 64 (fun i => e.getLsbD i && !s.lab.premise.getLsbD i)
def Subset (a b : Env) : Prop := ∀ i, i < 64 → a.getLsbD i = true → b.getLsbD i = true
/-- A struck environment includes a retired assumption or a nogood (R118). -/
def Struck (j : JobLab) (e : Env) : Prop :=
  (∃ i, i < 64 ∧ e.getLsbD i = true ∧ j.retired.getLsbD i = true) ∨ ∃ g ∈ j.nogoods, Subset g.2 e
/-- The label of a handle holds in FOCUS (R118, R139). -/
def HoldsInFocus (s : State) (h : Handle) : Prop :=
  ¬ Struck s.lab (stripped s s.act.focus) ∧ ∃ l, s.labOf h = some l ∧ ∃ e ∈ l, Subset (stripped s e) (stripped s s.act.focus) ∧ ¬ Struck s.lab (stripped s e)
/-- An environment that is struck or names a free assumption (R187, R190). -/
def Inconsistent (s : State) (e : Env) : Prop :=
  Struck s.lab (stripped s e) ∨
  ∃ i, i < 64 ∧ (stripped s e).getLsbD i = true ∧ s.lab.live.getLsbD i = false ∧ s.lab.premise.getLsbD i = false ∧ s.lab.retired.getLsbD i = false

/-- The forms of the label instructions that work on registers alone (R187 to R191, R196). -/
def labelForms : List Instr :=
  [.lget, .lset, .lenv, .ljoin, .lclr, .lhold, .lsel, .lcount, .lenvn, .lprod, .lfocus, .lcpush, .lcpop, .lstat]
/-- A word that LSET may attach: 0, 0xFFFE, 0xFFFF, or the index of a sound head of the job (R187). -/
def Attachable (s : State) (v : Word) : Prop :=
  v = 0 ∨ v = 0xFFFE ∨ v = 0xFFFF ∨
    (v.toNat < 2 ^ 16 ∧ ∃ e, fget s.myCluster.clt v.toNat = some e ∧ e.tslot.toNat = s.slot ∧ e.damaged = false)

/-- A result that takes only the control label (R186). -/
def UnderControl (i : Instr) (v : State → Word) : Prop :=
  ∀ s, Named s [.s s.ir.d.toNat, .s s.ir.a.toNat] → FreeS s s.ir.d →
    ∃ u, exec i s = .next (u.finish s.npc) ∧ ScalarGets s u s.ir.d (v s) s.act.clab (ps s s.act.clab)

/-- The bit of an assumption. -/
def assumption (v : Word) : Env := ofBits 64 (fun i => i == v.toNat)

/-- A change of the label state has been broadcast with a status: the job's state is j from now on, every die is to follow, and
the activation waits for its retirement (R133, R194). -/
def Broadcasts (s u : State) (kind : LabKind) (envs : List Env) (st : Word) (j : JobLab) : Prop :=
  ∃ (t : State) (o : LabOp), Parks t u (.labelOp s.nextOp (some s.ir.d)) s.npc ∧ t.labOps = s.labOps ++ [o] ∧ o.id = s.nextOp ∧ o.kind = kind ∧
    o.envs = envs ∧ o.status = st ∧ o.tslot = s.slot ∧ o.dies = List.range 8 ∧ t.nextOp = s.nextOp + 1 ∧
    t = { s with jobs := t.jobs, labOps := t.labOps, nextOp := t.nextOp } ∧ (t.job s.slot).lab = j ∧ ∀ n, n ≠ s.slot → t.job n = s.job n

/-- The conditions under which ASSUME, RETIRE, COMMIT and LSCRUB go to the dies (R192). -/
def MayChange (s : State) : Prop :=
  Named s [.s s.ir.d.toNat, .s s.ir.a.toNat] ∧ AtRest s ∧ Alone s.me ∧ s.labOf (aReg s).lab = some [0] ∧ s.labOf s.act.clab = some [0] ∧
  (aReg s).val.toNat < 64

/-- No instruction of the slot that has not retired has decided, in the label table of cluster k, the label that a handle names (R195). -/
def Settled (s : State) (k slot : Nat) (h : Handle) : Prop := ∀ o ∈ s.labOps, o.tslot = slot → (k, h.toNat) ∉ o.decided
/-- The later of two times, in the serial order (R244, R247). -/
def later (t : Time) (x : Option Time) : Time := match x with | some y => if (t - y).toNat < 2 ^ 47 then t else y | none => t
/-- The time that the outcome of a label brings: for a label of the tables, that of the retired label instructions of its job (R195). -/
def outcomeTime (s : State) (slot : Nat) (h : Handle) : Option Time := if fixedHandle h then none else (s.job slot).labTime
/-- Every label table of a die has swept for an instruction, or holds nothing of its job (R133). -/
def SweptOn (s : State) (o : LabOp) (d : Nat) : Prop :=
  (∀ p ∈ s.clusters, dieOf p.1 = d → p.1 ∈ o.swept ∨ ∀ h ∈ p.2.clt, h.2.tslot.toNat ≠ o.tslot) ∧
  (∀ p ∈ s.dlt, p.1 % 8 = d → 2000 + p.1 ∈ o.swept ∨ ∀ h ∈ p.2, h.2.tslot.toNat ≠ o.tslot)
/-- A label that is neither TRUE nor EMPTY nor POISON (R195). -/
def Pending (l : Lab) : Prop := ∃ e es, l = some (e :: es) ∧ e :: es ≠ [0]
/-- The label that LWAIT reads is one whose outcome it may not give yet (R195). -/
def Undecided (s : State) : Prop := ¬ Settled s (s.cur / 8) s.slot (aReg s).lab ∨ Pending (s.labOf (aReg s).lab)

/-- The job's own label state, with its bits. -/
def jl (s : State) : JobLab := (s.job s.slot).lab
def bitIn (x : Env) (v : Word) : Bool := x.getLsbD v.toNat

/-! ### Tensors and tiles (R98 to R107, R197 to R202, R251 to R257, R274 to R281) -/

/-- The value of a generator after n draws (R97). -/
def drawn (x : Word) : Nat → Word
  | 0 => x
  | n + 1 => rngStep (drawn x n)

/-- The record that a VFCVTN names, and the register of its scales (R198, R201). -/
def cvtRecord (s : State) : Line := s.tidOf s.slot (s.ir.imm.toNat % 1024)
def cvtScales (s : State) : Word := (s.act.rd s.ir.b).val
/-- The record and the scales are ones that R199 and R201 allow. -/
def Convertible (s : State) (toNarrow : Bool) : Prop :=
  let r := cvtRecord s; let b := cvtScales s; let ph := b.toNat / 2 ^ 32 % 64
  r ≠ 0 ∧ (tFmt r = 6 ∨ 7 ≤ tFmt r ∧ tFmt r ≤ 12) ∧ b.toNat / 2 ^ 38 % 2 ^ 25 = 0 ∧ (b.getLsbD 63 = true → toNarrow = true ∧ tIsMx r = true) ∧
  (if tIsMx r then ph = 0 else tBlockLen r = 0 ∨ ph < tBlockLen r)
/-- The rounding mode of a conversion: RND, or RM with 5 (R72, R95). -/
def cvtMode' (s : State) : Nat := if s.ir.rnd.toNat = 5 then s.act.flags.toNat % 8 else s.ir.rnd.toNat
/-- The scale code of element i: SX, or that of its block by PH (R201). -/
def cvtScale (s : State) (i : Nat) : Nat :=
  let r := cvtRecord s; let b := cvtScales s
  if tIsMx r then b.toNat % 256 else if tBlockLen r = 0 then 127 else b.toNat / 2 ^ (8 * ((b.toNat / 2 ^ 32 % 64 + i) / tBlockLen r)) % 256
/-- The value of source element i of a VFCVTN to narrow: 32 binary32 numbers in two registers. -/
def wideElem (s : State) (i : Nat) : FVal :=
  (fmtOf .s).decode (if i < 16 then vElem (s.act.rdV (s.ir.a.setWidth 4)).val 32 i else vElem (s.act.rdV (s.ir.a.setWidth 4 + 1)).val 32 (i - 16))
/-- The draws that elements before and including i have taken. -/
def drawsTo (s : State) (i : Nat) : Nat := if cvtMode' s = 6 ∧ tFmt (cvtRecord s) = 6 then ((List.range (i + 1)).filter (active s)).length else 0
/-- The code of element i and its flags; a signalling NaN sets NV (R94, R106, R114, R201, R202). -/
def narrowed (s : State) (i : Nat) : Nat × Word :=
  let r := cvtRecord s
  let on := (List.range 32).filter (active s)
  let x := if (cvtScales s).getLsbD 63 then mxScale (tFmt r) (on.map (wideElem s)) else cvtScale s i
  let v := (wideElem s i).scale (127 - (x : Int))
  let nv : Word := if wideElem s i = .nan true then flagNV else 0
  if tIsMx r then
    (if on.any (fun j => match wideElem s j with | .num _ _ _ => false | _ => true) ∨ x = 255 then (0, nv)
      else mxRound (tFmt r) (if cvtMode' s = 6 then 0 else cvtMode' s) v)
  else if x = 255 then (if (tNarrow r).s then ((tNarrow r).narCode, flagNR ||| nv) else (0, flagNV))
  else (tNarrow r).round (cvtMode' s) ((drawn s.me.rngst (drawsTo s i)).toNat % 65536) v
/-- The binary32 number of code i and its flags (R90, R104, R201). -/
def widened (s : State) (i : Nat) : Nat × Word :=
  let r := cvtRecord s
  let c := (s.act.rdV (s.ir.a.setWidth 4)).val.toNat / 2 ^ (codeAt r i).1 % 2 ^ (codeAt r i).2
  let v := if cvtScale s i = 255 then FVal.nan false else if tIsMx r then mxDecode (tFmt r) c else (tNarrow r).decode c
  (fmtOf .s).round (if cvtMode' s = 6 then 0 else cvtMode' s) 0 (v.scale ((cvtScale s i : Int) - 127))
def flagsOf (s : State) (f : Nat → Nat × Word) : Word := (((List.range 32).filter (active s)).map (fun i => (f i).2)).foldl (fun a b => a ||| b) 0
/-- No label is met by a VFCVTN. -/
def PlainCvt (s : State) (vs : List VReg) : Prop :=
  s.act.clab = 0 ∧ (s.act.rd s.ir.b).lab = 0 ∧ (s.ir.k ≠ 0 → (s.act.rdM s.ir.k).lab = 0) ∧ ∀ v ∈ vs, v.labs = [0, 0, 0, 0]

/-- The open handle that a value names: index i, entry e, of the job's slot (R251, R382). -/
def Opened (s : State) (h : Word) (i : Nat) (e : THandle) : Prop :=
  i = h.toNat % 2 ^ 16 ∧ e = s.thandle i ∧ e.open_ = true ∧ h.toNat = i + e.gen.toNat * 2 ^ 16 ∧ e.tslot = s.slot
/-- The lowest entry of the handle table that is not open; every entry is open (R251, R277). -/
def LowestClosed (s : State) (i : Nat) : Prop := i < 2 ^ 16 ∧ (s.thandle i).open_ = false ∧ ∀ j, j < i → (s.thandle j).open_ = true
def AllOpen (s : State) : Prop := ∀ i, i < 2 ^ 16 → (s.thandle i).open_ = true
/-- The value of a handle (R251). -/
def valueOf (i : Nat) (e : THandle) : Word := BitVec.ofNat 64 (i + e.gen.toNat * 2 ^ 16)

/-- A result in sd under a label; beside it only handles and stamps change. -/
def Gives (s u : State) (v : Word) (l : Handle) (f : Word) : Prop :=
  ∃ t, ScalarGets s t s.ir.d v l f ∧ u = { t with handles := u.handles, stamps := u.stamps }

/-- A tile instruction may look at its handle: registers named, at rest, no POISON (R276). -/
def TileReady (s : State) (rs : List (BitVec 6)) : Prop :=
  Named s (rs.map (fun r => .s r.toNat)) ∧ AtRest s ∧ ∀ r ∈ rs.drop 1, s.labOf (s.act.rd r).lab ≠ none

/-- An acquisition has begun: the entry waits with its blocks, and the activation is parked until the last is granted (R253, R277). -/
def Acquires (s u : State) (i want : Nat) (l : Handle) (mode : BitVec 2) (f : Word) : Prop :=
  ∃ t : State, Parks t u (.tacq i s.ir.d l mode s.clock) s.npc ∧
    t = { s with cores := t.cores, clusters := t.clusters, handles := t.handles, stamps := t.stamps } ∧
    t.act = { s.act with flags := s.act.flags ||| f, floor := t.act.floor } ∧ (t.thandle i).open_ = true ∧
    (t.thandle i).wait = true ∧ (t.thandle i).want = want ∧ (t.thandle i).taken = 0 ∧ (t.thandle i).holder = s.cur / 8 ∧
    (t.thandle i).since = s.clock ∧ (t.thandle i).reqFloor = t.act.floor ∧ (t.thandle i).core = s.cur ∧ (t.thandle i).sup = s.act.sup ∧
    ∀ j, j ≠ i → t.thandle j = s.thandle j
/-- An acquisition of a handle that is granted afresh has begun: it keeps its tenure until then (R239, R277). -/
def AcquiresAfresh (s u : State) (i : Nat) (e : THandle) (want : Nat) (ask : Time) (l : Handle) (mode : BitVec 2) (f : Word) : Prop :=
  ∃ t : State, Parks t u (.tacq i s.ir.d l mode s.clock) s.npc ∧ t = { s with cores := t.cores, clusters := t.clusters, handles := t.handles } ∧
    t.act = { s.act with flags := s.act.flags ||| f } ∧
    t.thandle i = { e with wait := true, want := want, since := s.clock, core := s.cur, sup := s.act.sup, reqFloor := s.act.floor, ask := ask } ∧
    ∀ j, j ≠ i → t.thandle j = s.thandle j

/-- The offset in dimension k that sb gives, signed (R281). -/
def tileOffset (w : Word) (k : Nat) : Int := (BitVec.ofNat 16 (w.toNat / 2 ^ (16 * k))).toInt
/-- The coordinates of element i of a VLDT or VSTT. -/
def tileCoord (s : State) (e : THandle) (i k : Nat) : Int :=
  bOrg e.box k + tileOffset (s.act.rd s.ir.b).val k + if k = (s.act.rd s.ir.c).val.toNat then (i : Int) else 0
/-- The address of element i of a dense tensor of whole bytes (R100). -/
def tileAddr (s : State) (e : THandle) (i : Nat) : Word :=
  lw e.rcd 0 + BitVec.ofInt 64 (((List.range 4).map (fun k => (if tExt e.rcd k = 0 then 0 else tileCoord s e i k) * tStr e.rcd k)).sum * tBytes e.rcd)
/-- Element i is loaded or stored: active, and inside the box along the dimension of sc (R281). -/
def tileActive (s : State) (e : THandle) (i : Nat) : Bool :=
  active s i && decide (tileOffset (s.act.rd s.ir.b).val (s.act.rd s.ir.c).val.toNat + i < bExt e.box (s.act.rd s.ir.c).val.toNat)

/-- The code in an element of the tensor's memory: the bits above a narrow code are ignored (R91). -/
def tileRead (e : THandle) (v : Nat) : Nat := if tFmt e.rcd = 6 then v % 2 ^ Min.min 8 (lf e.rcd 324 1 + lf e.rcd 325 4 + lf e.rcd 329 3) else v
/-- The code that VSTT writes for element i: bits above a narrow code are zero (R91). -/
def tileCode (s : State) (e : THandle) (i : Nat) : Nat := tileRead e (vElem (s.act.rdV (s.ir.d.setWidth 4)).val (intWidth s) i)

/-- A VLDT or VSTT under a tenure of a kind of the own cluster, of a dense tensor without wrap, whose elements lie in the tensor and in the
core's own portion, and that meets no label. -/
def TileAccess (s : State) (e : THandle) (kind : Nat) : Prop :=
  let c := (s.act.rd s.ir.c).val.toNat; let off := fun k => tileOffset (s.act.rd s.ir.b).val k
  Named s [.v s.ir.d.toNat, .s s.ir.a.toNat, .s s.ir.b.toNat, .s s.ir.c.toNat] ∧ Opened s (s.act.rd s.ir.a).val ((s.act.rd s.ir.a).val.toNat % 2 ^ 16) e ∧
  s.cur < 9216 ∧ s.shuttered s.cur = false ∧ ewFits e.rcd s.ir.ew = true ∧ tKeep e.rcd = 0 ∧ c < 4 ∧ (∀ k, k < 4 → tCirc e.rcd k = false) ∧
  e.kind = kind ∧ e.holder = s.cur / 8 ∧ 0 ≤ off c ∧
  (∀ k, k < 4 → k ≠ c → if tExt e.rcd k = 0 then off k = 0 else 0 ≤ off k ∧ off k < bExt e.box k) ∧
  (∀ i, i < 512 / intWidth s → tileActive s e i = true →
    (∀ k, k < 4 → tExt e.rcd k ≠ 0 → 0 ≤ tileCoord s e i k ∧ tileCoord s e i k < tExt e.rcd k) ∧
    Own s (tileAddr s e i) ∧ (tileAddr s e i).toNat % (intWidth s / 8) = 0) ∧
  s.act.clab = 0 ∧ (s.act.rd s.ir.a).lab = 0 ∧ (s.act.rd s.ir.b).lab = 0 ∧ (s.act.rd s.ir.c).lab = 0 ∧ (s.ir.k ≠ 0 → (s.act.rdM s.ir.k).lab = 0) ∧
  (s.act.rdV (s.ir.d.setWidth 4)).labs = [0, 0, 0, 0] ∧
  (∀ g, 2 ^ 39 ≤ g → g < 2 ^ 40 → s.rdTag false (g / 16) = 0 ∧ s.rdTag true (g / 16) = 0 ∧ s.pageAbroad (g / 64) = none)

/-! ### Engines (R203 to R217, R283 to R289, R430, R431) -/

/-- The queue of the core, in its cluster's matrix engine. -/
def matrixQueue (s : State) : MxQueue := s.myCluster.mxq[s.cur % 8]'(Nat.mod_lt _ (by decide))

/-- A command enters the core's queue, as the active or the shadow one; nothing else changes (R203). -/
def Accepts (s u : State) (m : MxCmd) (f : Word) : Prop :=
  u = { s with cores := u.cores, clusters := u.clusters } ∧ (∀ c, c ≠ s.cur → u.core c = s.core c) ∧ (∀ k, k ≠ s.cur / 8 → u.cluster k = s.cluster k) ∧
  u.me = { s.me with act := { s.act with flags := s.act.flags ||| f } } ∧
  u.myCluster = { s.myCluster with
    clt := u.myCluster.clt
    mxq := s.myCluster.mxq.set (s.cur % 8) (if (matrixQueue s).active = none then { matrixQueue s with active := some m } else { matrixQueue s with shadow := some m })
      (Nat.mod_lt _ (by decide)) }
/-- The queue takes a command: it has room and holds no fault, and the activation is not cancelled (R203, R216, R306). -/
def MatrixRoom (s : State) : Prop :=
  ((matrixQueue s).active = none ∨ (matrixQueue s).shadow = none) ∧ (matrixQueue s).fault = none ∧ s.act.cancelled = false

/-- An operand under the own cluster's tenure (R208, R209). -/
def Holding (s : State) (h : Word) (i : Nat) (e : THandle) : Prop := Opened s h i e ∧ e.kind ≠ 0 ∧ e.holder = s.cur / 8

/-- The checks of R209 on the operands and the control word: K of A is dimension 1 with bit 48, K of B dimension 0 with bit 49. -/
def MatrixFits (a b : THandle) (c : Word) (sparse : Bool) : Prop :=
  let k0 : Nat := c.toNat % 2 ^ 24; let kn : Nat := c.toNat / 2 ^ 24 % 2 ^ 24
  let ka : Nat := if c.getLsbD 48 then 1 else 0; let kb : Nat := if c.getLsbD 49 then 0 else 1
  let ext := fun (e : THandle) (k : Nat) => if tExt e.rcd k = 0 then 1 else bExt e.box k
  let inside := fun (e : THandle) (kd n : Nat) => ∀ p, p < kn → ∀ r, r < Min.min 32 n →
    (tInside e.rcd (boxAt e.box ((List.range 4).map (fun (i : Nat) => if i = kd then (k0 + p : Int) else if i = 1 - kd then (r : Int) else 0)))).isSome = true
  c.toNat < 2 ^ 50 ∧ 0 < kn ∧ a.rcd ≠ 0 ∧ b.rcd ≠ 0 ∧ tFmt a.rcd = tFmt b.rcd ∧ tFmt a.rcd ∈ [1, 2, 3, 4, 6] ∧
  (if sparse then (tKeep a.rcd ≠ 0 ∧ tKeep b.rcd = 0 ∧ tSpdim a.rcd = ka ∨ tKeep a.rcd = 0 ∧ tKeep b.rcd ≠ 0 ∧ tSpdim b.rcd = kb)
    else tKeep a.rcd = 0 ∧ tKeep b.rcd = 0) ∧
  ((tFmt a.rcd = 6 ∨ tFmt a.rcd = 4) → sparse = true ∨ tBlockLen a.rcd ≠ 0 ∨ tBlockLen b.rcd ≠ 0 → (bOrg a.box ka - bOrg b.box kb).emod 12 = 0) ∧
  k0 + kn ≤ ext a ka ∧ k0 + kn ≤ ext b kb ∧
  (tPermit a.rcd = true ∨ inside a ka (ext a (1 - ka))) ∧ (tPermit b.rcd = true ∨ inside b kb (ext b (1 - kb)))

/-- The command that MMA or MMAS queues (R208, R210, R212). -/
def matrixCommand (s : State) (sparse : Bool) (i j : Nat) (a b : THandle) (l : Handle) : MxCmd :=
  { kind := if sparse then .mmas else .mma, acc := s.ir.d.setWidth 4, a := { rcd := a.rcd, box := a.box, handle := some i },
    b := { rcd := b.rcd, box := b.box, handle := some j }, ctl := (s.act.rd s.ir.c).val,
    metaW := if sparse ∧ s.ir.e ≠ 0 then some (s.act.rd s.ir.e).val else none, lab := l, core := s.cur, aid := s.act.aid, tslot := s.me.tslot, sup := s.act.sup }

/-- A channel of the block-transfer engine of the acting core's cluster. -/
def channel (s : State) (m : Nat) : Bte := s.bteAt s.cl m

/-- What a shootdown names (R239, R344). -/
def ShotDown (sc : Nat) (x : Word) (slot : Nat) (size : BitVec 2) (e : TEntry) : Prop :=
  sc = 2 ∨ e.tslot = slot ∧ (sc = 1 ∨ x.toNat / 2 ^ Max.max (sizeShift size) (sizeShift e.size) =
    e.page.toNat * 2 ^ sizeShift e.size / 2 ^ Max.max (sizeShift size) (sizeShift e.size))

/-- The rectangle and operation words of CONTAIN are well formed (R343). -/
def MayContain (s : State) (op : Nat) : Prop :=
  s.act.sup = true ∧ Named s [.s s.ir.a.toNat, .s s.ir.b.toNat] ∧ AtRest s ∧
  (s.act.rd s.ir.a).val &&& 0xFFFFFF00E0C0E0C0 = 0 ∧ rectFits (s.act.rd s.ir.a).val = true ∧
  (s.act.rd s.ir.b).val.toNat < 2 ^ 10 ∧ (s.act.rd s.ir.b).val.toNat / 64 % 4 = 0 ∧ (s.act.rd s.ir.b).val.toNat / 2 ^ 8 = op
/-- The Shutter entry that sb names. -/
def shutterOf (s : State) : Shutter := (fget s.plant.shutters ((s.act.rd s.ir.b).val.toNat % 64)).getD {}
def containEntry (s : State) : Nat := (s.act.rd s.ir.b).val.toNat % 64
/-- The four rows of CONTAIN share one word; the operation stands in sb (R343). -/
def containRows : List Instr := [.containArm, .containClose, .containOpen, .containPerm]

/-! ### Events: what ends a wait (R270, R278, R282, R288, R305, R313, R323, R324, R329, R330, R334) -/

/-- Only the first activation of a slot has it. -/
def Sole (s : State) (c : Nat) (a : Act) : Prop :=
  (s.core c).parked.filter (fun x => x.slot == a.slot) = [a] ∧ (∀ r ∈ (s.core c).ready, r.slot ≠ a.slot) ∧
  ((s.core c).running = false ∨ (s.core c).act.slot ≠ a.slot)

/-- As Returns, under a label that the wait kept. -/
def ReturnsUnder (s u : State) (c : Nat) (a : Act) (d : BitVec 6) (v : Word) (l : Handle) (floor : Time) : Prop :=
  ∃ (t w : State) (b : Act), ButTables s t ∧ Wakes t w c a b ∧ ButTables w u ∧
    b = { a with pc := a.npc, sregs := b.sregs, trap := b.trap, flags := a.flags ||| psAt s (c / 8) l, floor := floor } ∧
    b.rd d = (if d = 0 then { val := 0, lab := 0 } else { val := v, lab := l }) ∧ (a.trap = none → b.trap = none ∧ ∀ r, r ≠ d → b.rd r = a.rd r)

/-- A load that ends the wait of an activation of core n, from its own portion and without labels: the value is in d. -/
def LoadsAtWake (s u : State) (n : Nat) (a : Act) (d : BitVec 6) (v : Word) : Prop :=
  ∃ (t : State) (b : Act), Wakes t u n a b ∧ t.mem = s.mem ∧ t.tags = s.tags ∧ b.pc = a.npc ∧ b.sup = a.sup ∧ b.clab = a.clab ∧
    b.rd d = (if d = 0 then { val := 0, lab := 0 } else { val := v, lab := 0 }) ∧ (a.trap = none → ∀ r, r ≠ d → b.rd r = a.rd r)

/-- The wait of an activation of core n for a word is over: the word is a result of its instruction that is still to land, and the activation
goes on after it; one that the instruction keeps as a marker does so when the result has landed (R78 to R80, R288). -/
def LeavesAtWake (s u : State) (n : Nat) (a : Act) (sw : Bool) (o : Out) : Prop :=
  ∃ b : Act, b.pc = a.npc ∧ b.outs = a.outs ++ [o] ∧ b.deferred = a.deferred ∧ b.flags = a.flags ∧ b.sregs = a.sregs ∧
    (sw = false → ∃ t, Wakes t u n a b ∧ t.mem = s.mem ∧ t.tags = s.tags) ∧
    (sw = true → u.mem = s.mem ∧ u.tags = s.tags ∧ u.parkedAt n a.slot = some b ∧ b.park = some .outs ∧ (u.core n).ready = (s.core n).ready)

/-- A parked activation of core n meets no label and no closed Shutter, and its address is the core's own. -/
def OwnAt (s : State) (n : Nat) (a : Act) (x : Word) : Prop :=
  Calm (s.on n) ∧ Own (s.on n) x ∧ a.clab = 0 ∧ a.focld.getLsbD 0 = false ∧ ∀ k, 2 ^ 39 ≤ k → k < 2 ^ 40 → s.rdTag false (k / 16) = 0
def ownKey (n : Nat) (x : Word) : Nat := 2 ^ 39 + n / 8 * 2 ^ 21 + x.toNat % 2 ^ 60

/-! ### Events: results, traps and messages (R79, R298 to R305, R308, R321 to R323, R336, R430) -/

/-- The channel of the message's receiver. -/
def chanOf (s : State) (m : Msg) : Chan := (s.core m.core).chans[m.chan.toNat]'m.chan.isLt
/-- Units of its record (R299). -/
def unitsOf (m : Msg) : Nat := 1 + (m.payload.length + 31) / 32
/-- Bytes of unit u of a channel's ring of core c (R299). -/
def unitKey (c : Nat) (ch : Chan) (u : Nat) : Nat := 2 ^ 39 + c / 8 * 2 ^ 21 + (ch.rbase.toNat + u % Max.max ch.rsize.toNat 1 * 32) % 2 ^ 21

/-- A message on its way that left the same send queue (R308). -/
def SameQueue (m x : Msg) : Prop := x.net = m.net ∧ x.via = none ∧ x.poster = none ∧ x.score = m.score
/-- Router k lies on the way from the router of cluster a to that of cluster b: along the row of a to the column of b, then along that
column (R307). -/
def OnWay (a b k : Nat) : Prop :=
  (k / 48 = a / 48 ∧ Min.min (a % 48) (b % 48) ≤ k % 48 ∧ k % 48 ≤ Max.max (a % 48) (b % 48)) ∨
  (k % 48 = b % 48 ∧ Min.min (a / 48) (b / 48) ≤ k / 48 ∧ k / 48 ≤ Max.max (a / 48) (b / 48))
/-- Every router on the way of a message lets its slot pass (R379); of one that came from another module, the last (log 60). -/
def MayPass (s : State) (m : Msg) : Prop :=
  ∀ k, (if m.via.isSome then k = m.core / 8 else OnWay (m.sentAt / 8) (m.core / 8) k) → s.inSub m.tslot (8 * k) = true

/-- The message is one that its channel takes now, without a counter and under TRUE, at the ring's head: the channel is bound,
enabled and of its class, the sender may reach it, and the ring has room (R299, R301). -/
def MayPlace (s : State) (m : Msg) : Prop :=
  let ch := chanOf s m
  m.core < 9216 ∧ m.chset = none ∧ m.dmod = s.plant.modId ∧ (m.sup = true ∨ MayPass s m) ∧ m.badAlias = false ∧ s.shuttered m.core = false ∧
  (m.sup = true ∨ (m.chan.toNat < 56 ∧ m.tslot = (s.core m.core).tslot.toNat)) ∧ m.watch = false ∧ m.lab = some [0] ∧ m.start = false ∧ m.succ = false ∧
  ch.bound = true ∧ ch.en = true ∧ (m.net = 2 ∨ (ch.rep = true ↔ m.net = 1)) ∧ ch.level = 0 ∧ ch.rsize.toNat ≤ 2 ^ 13 ∧
  unitsOf m ≤ ch.rsize.toNat - ch.used ∧ ch.rhead.toNat < ch.rsize.toNat ∧ (ch.contig = true → unitsOf m ≤ ch.rsize.toNat - ch.rhead.toNat) ∧
  ch.ready = false ∧ ch.auto = false ∧ (∀ a ∈ (s.core m.core).parked, ∀ n, a.park ≠ some (.sleepMsg n)) ∧ (s.core m.core).running = true ∧
  ch.rbase.toNat + 32 * ch.rsize.toNat ≤ 2 ^ 21

/-- The record of the message stands in the ring after those before it, with its payload; the message is accepted (R298 to R300). -/
def Placed (s u : State) (m : Msg) : Prop :=
  let c := m.core; let ch := chanOf s m; let new := chanOf u m; let n := unitsOf m
  (∃ r : Rec, new.recs = ch.recs ++ [r] ∧ r.unit = ch.rhead.toNat ∧ r.units = n ∧ r.pad = 0 ∧ r.len.toNat = m.payload.length % 512 ∧ r.lab = 0 ∧
    r.score = m.score ∧ r.smod = m.smod ∧ r.ctr = 0 ∧ r.time = m.time ∧ r.start = false) ∧
  new.pend = ch.pend + 1 ∧ new.used = ch.used + n ∧ new.rhead.toNat = (ch.rhead.toNat + n) % ch.rsize.toNat % 2 ^ 14 ∧
  (∀ i (h : i < m.payload.length), Memory.read u.mem (unitKey c ch (ch.rhead.toNat + 1 + i / 32) + i % 32) = m.payload[i]) ∧
  (∀ a, (∀ j, j < n → a < unitKey c ch (ch.rhead.toNat + j) ∨ unitKey c ch (ch.rhead.toNat + j) + 32 ≤ a) → Memory.read u.mem a = Memory.read s.mem a) ∧
  (u.core c).accepted = (s.core c).accepted + 1 ∧ (u.core c).act = (s.core c).act ∧
  (∀ f a, m.from_ = some (f, a) → u.answers = s.answers ++ [⟨f, a, 0, false⟩]) ∧ (m.from_ = none → u.answers = s.answers)

/-! ### Events: tenure, logical time, translations and caches (R41, R227, R229, R238, R244, R252 to R259) -/

/-- A time lags another by more than n, in the serial order (R244). -/
def lagging (t m : Time) (n : Nat) : Bool := decide ((m - t).toNat < 2 ^ 47) && decide (n < (m - t).toNat)
/-- A time that lags the greatest LTIME by more than 2^e is raised to that far behind it (R244). -/
def raised (m t : Time) (e : Nat) : Time := if lagging t m (2 ^ e) then m - BitVec.ofNat 48 (2 ^ e) else t

/-- A lease end that the LTIME of a cluster has not passed (R247, R248). -/
def Usable (lease now : Time) : Prop := (lease - now).toNat < 2 ^ 47
/-- One request came to a block's queue before another: first come, then by floor at issue, then by core (R253). -/
def CameBefore (x e : THandle) : Prop :=
  x.since.toNat < e.since.toNat ∨ (x.since = e.since ∧
    ((x.reqFloor ≠ e.reqFloor ∧ (e.reqFloor - x.reqFloor).toNat < 2 ^ 47) ∨ (x.reqFloor = e.reqFloor ∧ x.core < e.core)))
/-- A block that an acquisition may not take: another handle has a line of it in a conflicting tenure or acquisition, or has waited
longer for one (R252, R253). -/
def Kept (s : State) (i : Nat) (e : THandle) (b : Block) : Prop :=
  ∃ p ∈ s.handles, p.1 ≠ i ∧
    ((((if p.2.kind = 0 then p.2.want else p.2.kind) = 2 ∨ e.want = 2) ∧ ∃ x ∈ p.2.blocks.take p.2.taken, ∃ l ∈ x.lines, l ∈ b.lines) ∨
     (p.2.wait = true ∧ p.2.kind = 0 ∧ (p.2.want = 2 ∨ e.want = 2) ∧ CameBefore p.2 e ∧
       ∃ x, p.2.blocks[p.2.taken]? = some x ∧ ∃ l ∈ x.lines, l ∈ b.lines))

/-- Neither the module that asks for a page nor the home of the page is dead (R407). -/
def Alive (s : State) : Prop :=
  s.deadModule s.arg.m = false ∧ (isRemote (s.arg.n * 65536) = true → s.deadModule (remoteModule (s.arg.n * 65536)) = false)
/-- SKIP of a cluster, and TWAIT in cycles (R245). -/
def skipOf (s : State) (k : Nat) : Time := BitVec.ofNat 48 (2 ^ ((s.cluster k).ordcfg.toNat / 2 ^ 28 % 32))
def waited (s : State) (k : Nat) (since : Word) : Prop := (s.cluster k).ordcfg.toNat / 2 ^ 40 * Config.cyclesPerUs < (s.clock - since).toNat

/-- The activation that acquires handle i, whose last block is taken, gets a value in d under the label it brought; its core is
busy with another. -/
def LastBlock (s : State) (i c : Nat) (a : Act) (d : BitVec 6) (l : Handle) (m : BitVec 2) : Prop :=
  let e := s.thandle i
  s.arg.n = i ∧ e.wait = true ∧ s.acquirer i = some (c, a, d, l, m) ∧ s.parkedAt c a.slot = some a ∧ a.elect = none ∧ e.kind = 0 ∧ e.stale = false ∧
  e.blocks[e.taken]? = none ∧ (s.core c).running = true

/-! ### Events: the engines (R110, R131, R203 to R205, R213, R283 to R287, R430, R431) -/

/-- Nothing of the scratchpads is labelled or under tenure. -/
def Bare (s : State) : Prop :=
  ∀ g, 2 ^ 39 ≤ g → g < 2 ^ 40 → s.rdTag false (g / 16) = 0 ∧ s.tenureAt (g / 64) = none ∧ s.pageAbroad (g / 64) = none
/-- The n bytes from x lie in the portion of core c. -/
def PortionOf (s : State) (c : Nat) (x : Word) (n : Nat) : Prop := c < 9216 ∧ s.shuttered c = false ∧ OwnRange (s.on c) x n
def keyIn (c : Nat) (x : Word) : Nat := 2 ^ 39 + c / 8 * 2 ^ 21 + x.toNat % 2 ^ 60

/-- The channel that the event names runs a record of a kind, whose label is TRUE. -/
def RunsRecord (s : State) (b : Bte) (r : Line) (kind : Nat) : Prop :=
  s.arg.m < 16 ∧ b = s.bteAt s.arg.n s.arg.m ∧ b.state = 1 ∧ b.owed = none ∧ b.cur = some r ∧ lf r 64 3 = kind ∧ b.cancel = false ∧
  s.engStopped s.arg.n b.core = false ∧ b.core / 8 = s.arg.n ∧ b.rlab = 0 ∧ Bare s
/-- A unit of n bytes is done of a record of len bytes; with the last one its work is over, with status OK (R285). -/
def Advances (s u : State) (b : Bte) (n len : Nat) : Prop :=
  let c := u.bteAt s.arg.n s.arg.m
  c.bytes = b.bytes + BitVec.ofNat 32 n ∧ c.cur = b.cur ∧ c.raddr = b.raddr ∧
  (if len ≤ b.pos + n then c.owed = some (0, 0) ∧ c.pos = len else c.owed = none ∧ c.pos = b.pos + n)
/-- The next n bytes of a FILL of which p are done. -/
def patternBytes (w : Word) (p n : Nat) : List Byte := (List.range n).map (fun i => BitVec.ofNat 8 (w.toNat / 2 ^ (8 * ((p + i) % 8))))
/-- Bytes of the next destination unit: to the end, or to the end of its line (R285). -/
def nextUnit (x : Word) (len pos : Nat) : Nat := Min.min (len - pos) (64 - (x.toNat + pos) % 64)

/-- Offsets of element n of a box, dimension 0 fastest (R285). -/
def boxDim (b : BitVec 256) (k : Nat) : Nat := Max.max 1 (bExt b k)
def offsetOf (b : BitVec 256) (n k : Nat) : Nat := n / ((List.range k).map (boxDim b)).prod % boxDim b k
/-- The address of element n of a box of a dense tensor of whole bytes (R100). -/
def boxAddr (t : Line) (b : BitVec 256) (n : Nat) : Word :=
  lw t 0 + BitVec.ofInt 64 (((List.range 4).map (fun k => (if tExt t k = 0 then 0 else bOrg b k + offsetOf b n k) * tStr t k)).sum * tBytes t)

/-- An accumulator's element (R206). -/
def accElem (s : State) (k : Nat) (i : BitVec 4) (x y : Nat) : Nat := (((s.cluster k).accs[i.toNat]'i.isLt).vals.getD (32 * x + y) 0).toNat
def queueOf (s : State) (k q : Nat) : MxQueue := (s.cluster k).mxq.toList.getD q {}
/-- The queue whose unit the MXE does next: that of the grant in progress, or the one that the arbiter picks (R204, R205). -/
def Turn (s : State) (q : Nat) : Prop :=
  let k := s.cluster s.arg.n; let stopped := fun r => s.engStopped s.arg.n (8 * s.arg.n + r)
  (k.mxEnd = 0 ∧ ∃ used, k.pick stopped = some (q, used)) ∨
    (k.mxEnd ≠ 0 ∧ k.mxTurn = q ∧ (queueOf s s.arg.n q).waits = true ∧ stopped q = false)
/-- The command that the event completes: the active one of the queue, not discarded. -/
def Completing (s : State) (m : MxCmd) : Prop :=
  s.arg.m < 8 ∧ (queueOf s s.arg.n s.arg.m).active = some m ∧ m.discard = false ∧ s.engStopped s.arg.n (8 * s.arg.n + s.arg.m) = false ∧ m.core / 8 = s.arg.n
/-- It has left its queue, and the shadow command is the active one (R203). -/
def Swapped (s u : State) : Prop :=
  queueOf u s.arg.n s.arg.m = { active := (queueOf s s.arg.n s.arg.m).shadow, shadow := none, fault := (queueOf s s.arg.n s.arg.m).fault }
/-- The parts of an MLOAD or MSTORE lie in device DRAM, without label or tenure. -/
def PlainSpans (s : State) (m : MxCmd) : Prop :=
  m.lab = 0 ∧ m.lab2 = 0 ∧ ((s.cluster s.arg.n).accs[m.acc.toNat]'m.acc.isLt).lab = 0 ∧
  ∀ p ∈ m.spans, p.1 < 2 ^ 37 ∧ p.2.2 ≤ 16 ∧ s.engWaits false p.1 = false ∧ ∀ i, i ≤ 16 → s.rdTag false (p.1 / 16 + i) = 0

/-- The channel's record is done, with a status and a cause, and only its completion is owed. -/
def Owes (s : State) (b : Bte) (r : Line) (st c : Byte) : Prop :=
  s.arg.m < 16 ∧ b = s.bteAt s.arg.n s.arg.m ∧ b.state = 1 ∧ b.cur = some r ∧ b.owed = some (st, c) ∧ b.put = false ∧ s.engStopped s.arg.n b.core = false ∧
  b.core / 8 = s.arg.n ∧ b.lab = 0 ∧ b.rlab = 0 ∧ b.qlab = 0 ∧ Bare s ∧ PortionOf s b.core b.raddr 64 ∧ b.raddr.toNat % 64 = 0
/-- The sticky flags of the record reach the activation that issued it, while it is resident (R286). -/
def FlagsReach (s u : State) (b : Bte) : Prop :=
  ∀ a ∈ (s.core b.core).residents, a.aid = b.aid → (∀ x ∈ (s.core b.core).residents, x.slot = a.slot → x = a) →
    (∀ x ∈ (s.core b.core).residents, x.aid = b.aid → x = a) →
    ∃ t, { a with flags := a.flags ||| BitVec.ofNat 64 (b.flg.toNat * 256), engStamp := t } ∈ (u.core b.core).residents
/-- A completion record (R286). -/
def completion (s : State) (b : Bte) (st c : Byte) : List Byte :=
  toBytes 16 (st.toNat + c.toNat * 2 ^ 8 + s.arg.m * 2 ^ 16 + b.flg.toNat * 2 ^ 20 + b.bytes.toNat * 2 ^ 32 + b.raddr.toNat / 64 * 2 ^ 64)
/-- What the channel is after its chain's last record: idle, or at the head that was queued (R283). -/
def channelAfter (b : Bte) : Bte :=
  if b.queued = 0 then { raddr := b.raddr, bytes := b.bytes } else { state := 1, raddr := b.queued, lab := b.qlab, core := b.qcore, aid := b.qaid, sup := b.qsup }

/-! ### Events: collectives, cuts and tenants (R289, R290, R360 to R367, R376 to R381, R422, R423) -/

/-- Two ranges do not meet. -/
def Apart (x : Word) (n : Nat) (y : Word) (m : Nat) : Prop := x.toNat + n ≤ y.toNat ∨ y.toNat + m ≤ x.toNat

/-- A collective whose record and GROUP R289 allows, and whose entry at its rank names its core. -/
def WellFormedColl (s : State) (y : Coll) : Prop :=
  collBad y.rcd = false ∧ ∃ g, s.collGroup y = .ok g ∧ (∀ e ∈ g, e < 2 ^ 27) ∧ g.getD (collRank y.rcd) 0 = y.core + s.modId * 2 ^ 14
/-- A collective that goes on, of a member that takes part, with a record that R289 allows and the group of its record; every member
is a core of this module and of the slot, behind no closed Shutter; the cluster holds the translations of GROUP and SRC. -/
def Gathers (s : State) (x : Coll) (group : List Nat) : Prop :=
  s.collAt s.arg.n s.arg.m = some x ∧ x.data = none ∧ x.ending = none ∧ x.kept = false ∧ s.collLive x.core = true ∧ collBad x.rcd = false ∧
  s.engWalks x.core [lw x.rcd 64, lw x.rcd 128] = s ∧
  s.collGroup x = .ok group ∧ group.getD (collRank x.rcd) 0 = x.core + s.modId * 2 ^ 14 ∧
  ∀ e ∈ group, e / 2 ^ 14 = s.modId ∧ e % 2 ^ 14 < 9216 ∧ s.shuttered (e % 2 ^ 14) = false ∧ (s.core (e % 2 ^ 14)).tslot = (s.core x.core).tslot
/-- The member's collective of the same TAG, if its core has issued it. -/
def mate (s : State) (x : Coll) (e : Nat) : Option Coll := s.collOf (e % 2 ^ 14) (collTag x.rcd)

/-- A collective whose ring lies in its core's own portion and has room; its label is TRUE. -/
def RingReady (s : State) (x : Coll) (head : Nat) (place : Word) : Prop :=
  let ring := lw x.rcd 384; let h := ofBytes (Memory.readN s.mem (keyIn x.core ring) 32); let size := 2 ^ (h / 2 ^ 64 % 16)
  head = h / 2 ^ 128 % 2 ^ 64 ∧ place = BitVec.ofNat 64 h + BitVec.ofNat 64 (head % size * 16) ∧ (head + 2 ^ 64 - h / 2 ^ 192) % 2 ^ 64 < size ∧
  ring.toNat % 32 = 0 ∧ (BitVec.ofNat 64 h).toNat % 16 = 0 ∧ PortionOf s x.core ring 32 ∧ PortionOf s x.core place 16 ∧ Apart place 16 ring 32 ∧
  Bare s ∧ x.lab = 0 ∧ x.core / 8 = s.arg.n ∧ s.collAt s.arg.n s.arg.m = some x ∧ s.collLive x.core = true
/-- Its completion entry is in the ring, and the collective is over (R286, R290). -/
def Reports (s u : State) (x : Coll) (head : Nat) (place : Word) (st c : Byte) (bytes : Nat) : Prop :=
  Memory.readN u.mem (keyIn x.core place) 16 =
    toBytes 16 (st.toNat + c.toNat * 2 ^ 8 + x.flg.toNat * 2 ^ 20 + bytes % 2 ^ 32 * 2 ^ 32 + x.addr.toNat / 64 * 2 ^ 64) ∧
  Memory.readN u.mem (keyIn x.core (lw x.rcd 384 + 16)) 8 = toBytes 8 (head + 1) ∧
  (u.cluster s.arg.n).colls = (s.cluster s.arg.n).colls.filter (fun y => y.seq != x.seq)

/-- A tenant record that a store may leave (R376, R377). -/
def MayStore (s : State) (t : Nat) (r : Line) : Prop :=
  let f := fun (x : Line) (lo n : Nat) => x.toNat / 2 ^ lo % 2 ^ n
  0 < t ∧ t < 64 ∧ f r 2 6 = 0 ∧ f r 14 2 = 0 ∧ f r 21 3 = 0 ∧ f r 30 2 = 0 ∧ f r 37 11 = 0 ∧ r.toNat / 2 ^ 128 = 0 ∧
  f r 8 6 ≤ 47 ∧ f r 16 5 ≤ 23 ∧ 1 ≤ f r 24 6 ∧ f r 8 6 + f r 24 6 ≤ 48 ∧ 1 ≤ f r 32 5 ∧ f r 16 5 + f r 32 5 ≤ 24 ∧
  (r.getLsbD 0 = true → ∀ p ∈ s.plant.tenants, p.1 ≠ t → p.2.getLsbD 0 = true →
      (f r 48 16 = 0 ∨ f p.2 48 16 ≠ f r 48 16) ∧
      (f p.2 8 6 + f p.2 24 6 ≤ f r 8 6 ∨ f r 8 6 + f r 24 6 ≤ f p.2 8 6 ∨ f p.2 16 5 + f p.2 32 5 ≤ f r 16 5 ∨ f r 16 5 + f r 32 5 ≤ f p.2 16 5)) ∧
  ((s.tenant t).getLsbD 0 = true → (s.cutOf t).state = 3)
/-- A core lies in the rectangle of a record. -/
def inRecord (r : Line) (c : Nat) : Bool :=
  let f := fun (lo n : Nat) => r.toNat / 2 ^ lo % 2 ^ n
  r.getLsbD 0 && decide (f 8 6 ≤ c / 8 % 48) && decide (c / 8 % 48 < f 8 6 + f 24 6) && decide (f 16 5 ≤ c / 8 / 48) && decide (c / 8 / 48 < f 16 5 + f 32 5)

/-! ### Events: recovery, supply, host and debug (R386 to R393, R399, R406 to R428) -/

/-- A place in the MRAM of a Sill die (R412, R415). -/
def mramKey (sill off : Nat) : Nat := 2 ^ 44 + sill * 2 ^ 28 + off
/-- The status word of a Sill die, and the bank that a Storm Door writes (R412, R415). -/
def doorStatus (s : State) (sill : Nat) : Nat := ofBytes (Memory.readN s.mem (mramKey sill 0xEFFF000) 8)
def bankAt (s : State) : Nat := if s.plant.storm.bank then 0x5000000 else 0
/-- The header of a core in the bank (R412). -/
def headerKey (s : State) (c : Nat) : Nat := mramKey (c / 4608) (bankAt s + c % 4608 * 0x400)
/-- Two microseconds of loss, 20 ms of a Storm Door (R409, R410). -/
def lossHeld (s : State) : Prop := 2 * Config.cyclesPerUs ≤ (s.clock - s.plant.storm.since).toNat
def doorBusy (s : State) : Prop := s.plant.storm.phase ∈ [Phase.doorOpen, .quiesced, .headers, .copied]
/-- The units of the hold-up engines with a new state. -/
def withStorm (s : State) (x : Storm) : State := { s with plant := { s.plant with storm := x } }
/-- The cores with a must-save set are cores of the module, with at most 16 ranges each (R342). -/
def Savable (s : State) : Prop := ∀ p ∈ s.cores, p.1 < 9216 ∧ p.2.mustSave.length ≤ 16

/-- What a boot posts and binds as it ends (R429). -/
def Boots (s u : State) (x : BootBlob) : Prop :=
  u.plant.boot.status = 0 ∧ u.plant.modId = x.modId ∧ u.plant.hostcap = x.hostcap &&& 0x1FFF ∧ u.plant.boot.debugOpen = x.debugOpen ∧ u.plant.boot.used = some x ∧
  u.plant.boot.floor.toNat = Max.max s.plant.boot.floor.toNat x.minVersion.toNat ∧
  (let ch := (u.core 0).chans[56]'(by decide); ch.bound = true ∧ ch.en = true ∧ ch.auto = true ∧ ch.prio = 7 ∧ ch.entry = x.entry &&& ~~~(3 : Word)) ∧
  ∃ m : Msg, u.net = s.net ++ [m] ∧ m.core = 0 ∧ m.chan = 56 ∧ m.payload = [s.plant.boot.status, BitVec.ofNat 8 (doorStatus s 0 / 4 % 2)] ++ List.replicate 14 0
/-- A blob that the boot ROM accepts (R388; that its module identity must name a module is log 50). -/
def Accepted (s : State) (x : BootBlob) : Prop := blobSigned x = true ∧ s.plant.boot.floor.toNat ≤ x.version.toNat ∧ x.modId.toNat < 6144
/-- A list cut or filled with zeros to n bytes. -/
def fitTo (n : Nat) (l : List Byte) : List Byte := (l ++ List.replicate n 0).take n

/-! ### Encoding, the step and reset (R63 to R77, R84, R429) -/

/-- Words written out from R67, R71, R74, R75 and R77, with the instruction that each stands for; those of LI and VGATH are the
spec's own. -/
def words : List (List (BitVec 32) × Insn) := [
  ([0x00451870], ⟨.add, { d := 5, a := 6, b := 7 }⟩),
  ([0x20410838], ⟨.sra, { sw := true, d := 1, a := 2, b := 3 }⟩),
  ([0x84490000, 0x00000200, 0x80000000], ⟨.li, { d := 9, lit := some 0x8000000000000200 }⟩),
  ([0x02010BFF], ⟨.addi, { d := 1, a := 2, imm := 0x3FF }⟩),
  ([0x0E0311FE], ⟨.ld, { d := 3, a := 4, md := 3, imm := 0x7E }⟩),
  ([0x08048CC0], ⟨.vadd, { d := 1, a := 2, b := 3, k := 1, ew := 2 }⟩),
  ([0x0B085681], ⟨.vld, { d := 2, a := 5, k := 3, ew := 1, imm := 1 }⟩),
  ([0x11010BFF], ⟨.bltu, { a := 1, b := 2, imm := 0x3FF }⟩),
  ([0x12600000], ⟨.call, { imm := 0x200000 }⟩),
  ([0x0F41083A], ⟨.afadds, { d := 1, a := 2, b := 3 }⟩),
  ([0x0C410803], ⟨.lstat, { d := 1, a := 2 }⟩),
  ([0x1401080B], ⟨.ccread, { d := 1, a := 2 }⟩),
  ([0x13470084], ⟨.getc, { d := 7, imm := 0x84 }⟩),
  ([0x13000002], ⟨.nop, {}⟩),
  ([0x16000000], ⟨.elect, {}⟩),
  ([0x62421430, 0x00030003, 0x00000040], ⟨.vgath, { sw := true, d := 2, a := 5, b := 3, k := 1, ew := 2, md := 3, imm := 0x40 }⟩),
  ([0x48010830, 0x10000000, 0x00000000], ⟨.mma, { d := 1, a := 2, b := 3, c := 4 }⟩),
  ([0x40810830, 0x0000D000, 0x00000000], ⟨.faddX, { d := 1, a := 2, b := 3, ew := 1, rnd := 5 }⟩),
  ([0x4EC00420, 0x00000001, 0x00000000], ⟨.tlbiTn, { a := 1, b := 2 }⟩)]

/-- LEN and MAJ or XMAJ of a first word (R63). -/
def lenOf (w : BitVec 32) : Nat := w.toNat / 2 ^ 30
def majorOf (w : BitVec 32) : Nat := w.toNat / 2 ^ 22 % 2 ^ 7
/-- The base majors that R72 leaves unassigned, and those of formats A and I, which alone have a literal form (R70, R71). -/
def freeMajor (m : Nat) : Bool :=
  decide (m ∈ [0x00, 0x06, 0x07, 0x1E, 0x1F, 0x27, 0x29, 0x2A, 0x2B, 0x2F, 0x4F]) || decide (0x12 ≤ m) && decide (m ≤ 0x17) ||
  decide (0x32 ≤ m) && decide (m ≤ 0x37) || decide (0x51 ≤ m) && decide (m ≤ 0x57) || decide (0x59 ≤ m)
def literalMajor (m : Nat) : Bool :=
  decide (1 ≤ m) && decide (m ≤ 5) || decide (8 ≤ m) && decide (m ≤ 0x11) || decide (0x18 ≤ m) && decide (m ≤ 0x1D) ||
  decide (m ∈ [0x28, 0x30, 0x31, 0x3C, 0x3D, 0x3E, 0x4A, 0x50])
/-- The base forms of R71 with R67 and R69: majors; the place, the width and the assigned values of the sub-function field; and all bits of
[21:0] that the form uses, that field among them. -/
def baseForms : List (List Nat × Nat × Nat × List Nat × Nat) :=
  let upTo := fun n => List.range (n + 1)
  [([0x01, 0x03], 0, 4, upTo 15, 0x3FFFFF),
   ([0x02, 0x04], 0, 4, upTo 8 ++ [14, 15], 0x3FFFFF), ([0x02, 0x04], 0, 4, [9, 10, 11, 12, 13], 0x3FFC0F),
   ([0x05], 0, 4, [0, 1, 4, 5, 6, 7], 0x3FFFFF),
   ([0x08, 0x09, 0x0A, 0x0B, 0x0F, 0x10], 0, 0, [0], 0x3FFFFF), ([0x0C, 0x0D, 0x0E], 0, 0, [0], 0x3FFC3F), ([0x11], 0, 0, [0], 0x3F03FF),
   ([0x18, 0x19, 0x1A, 0x1B], 0, 4, [0, 1, 2, 3, 5, 6, 7, 8, 9, 13, 14, 15], 0x3FFFFF),
   ([0x18, 0x19, 0x1A, 0x1B], 0, 4, [4, 10, 11, 12], 0x3FFC0F), ([0x1C], 0, 4, upTo 15, 0x3FFFFF), ([0x1D], 0, 4, upTo 6, 0x3FFFFF),
   ([0x20], 0, 5, upTo 15, 0x3FFFFF), ([0x20], 0, 5, [16, 17], 0x3FC3FF),
   ([0x21], 0, 5, [0, 1, 2, 3, 5, 6, 7, 8, 9], 0x3FFFFF), ([0x21], 0, 5, [4, 10, 11, 12, 13], 0x3FC3FF), ([0x22], 0, 5, upTo 9, 0x1FFFFF),
   ([0x23], 0, 5, upTo 3, 0x3FFFFF), ([0x23], 0, 5, [4], 0x3C03FF), ([0x23], 0, 5, [5, 6], 0x3FC3FF), ([0x24], 0, 5, upTo 9, 0x3FFFFF),
   ([0x25], 0, 4, [0], 0x3FF03F), ([0x25], 0, 4, [1, 2], 0x3FFFFF), ([0x26], 3, 4, [0], 0x3FFF87),
   ([0x28], 0, 4, upTo 3, 0x071C7F), ([0x28], 0, 4, [4], 0x071C0F), ([0x28], 0, 4, [5, 6, 7], 0x3F1C0F), ([0x28], 0, 4, [8], 0x07FC0F),
   ([0x2C, 0x2D, 0x2E], 0, 0, [0], 0x3FFFFF),
   ([0x30], 0, 4, [1, 2, 3, 6, 8, 9], 0x3FFFFF), ([0x30], 0, 4, [0, 4, 5, 7, 10, 13, 14, 15], 0x3FFC0F), ([0x30], 0, 4, [11], 0x00FC0F),
   ([0x30], 0, 4, [12], 0x00000F), ([0x31], 0, 4, [0, 1, 3], 0x3FFC0F), ([0x31], 0, 4, [2], 0x3FFFFF),
   ([0x38], 7, 3, upTo 7, 0x3FFFFF), ([0x39], 7, 3, upTo 4, 0x3FFFFF), ([0x3A, 0x3B], 7, 3, [3], 0x3FFFFF),
   ([0x3C], 0, 4, [0, 1], 0x00FC0F), ([0x3D], 0, 4, upTo 10, 0x3FFFFF), ([0x3E], 0, 4, [0, 1], 0x3FFFFF), ([0x3F], 0, 10, upTo 3, 0x0003FF),
   ([0x40, 0x41, 0x42, 0x43, 0x44, 0x45, 0x48, 0x49], 0, 0, [0], 0x3FFFFF), ([0x46, 0x47], 0, 0, [0], 0x0703FF), ([0x4A], 0, 4, [0], 0x3FFC0F),
   ([0x4B], 0, 0, [0], 0x3F03FF), ([0x4C], 0, 10, upTo 5, 0x0003FF), ([0x4C], 0, 10, [6, 8], 0x00FFFF), ([0x4C], 0, 10, [7], 0x3F03FF),
   ([0x4C], 0, 10, [9, 10], 0x3FFFFF), ([0x4D], 0, 0, [0], 0x3F03FF), ([0x4E], 0, 0, [0], 0x00FFFF),
   ([0x50], 0, 4, [0, 2, 3, 5, 6], 0x3FFFFF), ([0x50], 0, 4, [1], 0x3F3FFF), ([0x50], 0, 4, [4], 0x3F03FF), ([0x50], 0, 4, [7, 8, 9, 10, 11], 0x3FFC0F),
   ([0x58], 0, 22, [0], 0)]
/-- The first word has one of the base forms. -/
def BaseForm (w : BitVec 32) : Prop :=
  ∃ p ∈ baseForms, majorOf w ∈ p.1 ∧ w.toNat / 2 ^ p.2.1 % 2 ^ p.2.2.1 ∈ p.2.2.2.1 ∧ (w.toNat % 2 ^ 22) ||| p.2.2.2.2 = p.2.2.2.2
/-- The extended forms of R77 with R69, R75 and R76: XMAJ; the assigned values of XFN; the bits that the form uses of [21:0] of word 0, of word
1, and of word 2. A field that names a vector register or an accumulator has four bits. -/
def extendedForms : List (Nat × List Nat × Nat × Nat × Nat) :=
  let s3 := 0x3FFFFF; let dab := 0x3FFFFF; let da := 0x3FFC0F; let ab := 0x00FFFF; let v := 0x0FFFFF; let c := 0xFC000000; let ce := 0xFFF00000
  [(0x02, [0, 1, 2, 3], s3, 0x1F000, 0), (0x02, [4], da, 0x1F000, 0), (0x02, [5, 6, 7, 8], s3, c + 0x1F000, 0),
   (0x08, [0, 1], 0x0F3FFF, 0xE7000, 0x3FF), (0x09, [0], 0x0FFCFF, 0xF8003, 0xFFFFFFFF), (0x0A, [0], 0x0FFCFF, 0xF8003, 0xFFFFFFFF),
   (0x0B, [0, 1], v, c + 0xF8000, 0), (0x10, [0], s3, c, 0), (0x11, [0], 0x00FC0F, 0, 0), (0x12, [0, 1], da, 0, 0), (0x13, [0], 0x00FC0F, 0, 0),
   (0x14, [0], dab, 3, 0), (0x15, [0], ab, 0, 0), (0x16, [0], dab, 0, 0), (0x17, [0], da, 0, 0), (0x18, [0], ab, 0, 0), (0x19, [0], ab, 0, 0),
   (0x20, [0], v, c, 0), (0x21, [0], v, ce, 0), (0x22, [0], 0x0F000F, 0, 0), (0x23, [0], 0x0FFC0F, 0, 0), (0x24, [0], 0x0FFC0F, 0, 0),
   (0x25, [0], 0x0F000F, 0, 0), (0x28, [0], ab, 0, 0), (0x29, [0], dab, 0, 0), (0x2A, [0], da, 0, 0), (0x2B, [0], da, 0, 0),
   (0x30, [0], dab, ce + 7, 0), (0x38, [0], dab, 0, 0), (0x3A, [0], ab, 0, 0), (0x3B, [0], ab, 3, 0)]
/-- The words have one of the extended forms. -/
def ExtendedForm (w x y : BitVec 32) : Prop :=
  ∃ p ∈ extendedForms, majorOf w = p.1 ∧ w.toNat % 16 ∈ p.2.1 ∧ (w.toNat % 2 ^ 22) ||| p.2.2.1 = p.2.2.1 ∧ x.toNat ||| p.2.2.2.1 = p.2.2.2.1 ∧
    y.toNat ||| p.2.2.2.2 = p.2.2.2.2
/-- The extended majors of R77. -/
def extendedMajor (m : Nat) : Bool :=
  decide (m ∈ [0x02, 0x30, 0x38, 0x3A, 0x3B]) || decide (8 ≤ m) && decide (m ≤ 0xB) || decide (0x10 ≤ m) && decide (m ≤ 0x19) ||
  decide (0x20 ≤ m) && decide (m ≤ 0x25) || decide (0x28 ≤ m) && decide (m ≤ 0x2B)

/-- The state in which the core that acts next fetches: the clock has advanced, and the schedule may have named the core. -/
def Acting (s t : State) : Prop :=
  (s.sched = [] ∧ t = s.advance) ∨ ∃ c l, s.sched = .core c :: l ∧ t = { s.advance with sched := l, cur := c }
/-- The core issues: an activation runs, and nothing holds the core, its module or its boot (R26, R81, R335, R388, R410). -/
def Issues (t : State) : Prop :=
  t.me.running = true ∧ t.me.halted = false ∧ t.me.stalled = false ∧ t.act.pend = none ∧ t.me.stepping = false ∧
  (t.plant.storm.phase = .up ∨ t.plant.storm.phase = .failing ∧ t.pfailDue t.cur = false) ∧ t.plant.boot.status = 0
/-- The word at an address that the core may fetch from (R25, R65). -/
def Holds (t : State) (x : Word) (w : BitVec 32) : Prop :=
  ∃ key, t.resolve t.cur t.act.sup .fetch x = .ok key ∧ Memory.readN t.mem key 4 = toBytes 4 w.toNat
/-- Nothing changes but the times of lines, the floor of the activation and the LTIME of its cluster (R247). -/
def TimesOnly (t u : State) : Prop :=
  u = { t with stamps := u.stamps, wstamps := u.wstamps, cores := u.cores, clusters := u.clusters } ∧
  (∀ c, c ≠ t.cur → u.core c = t.core c) ∧ u.me = { t.me with act := { t.act with floor := u.act.floor } } ∧
  (∀ k, k ≠ t.cl → u.cluster k = t.cluster k) ∧ u.myCluster = { t.myCluster with ltime := u.myCluster.ltime }
/-- The words of the instruction at the pc, as many as LEN of the first states (R63). -/
def Fetches (t : State) (ws : List (BitVec 32)) : Prop :=
  t.act.pc.toNat % 4 = 0 ∧ ws.length = [1, 3, 3, 5].getD (lenOf (ws.headD 0)) 0 ∧
  ∀ j (h : j < ws.length), Holds t (t.act.pc + BitVec.ofNat 64 (4 * j)) ws[j]

/-- The number of a register in XVAL of REGBOUND: [5:0] its number, [9:8] its file (R86). -/
def regNumber : RU → Word
  | .s n => BitVec.ofNat 64 (n % 64)
  | .v n => BitVec.ofNat 64 (256 + n % 64)
  | .a n => BitVec.ofNat 64 (512 + n % 64)

end Sys2Proof.Spec

open Sys2Proof Sys2Proof.Machine

/-- Every two-source integer operation and its .W form completes with the value of R147, R148 and R150 in D; DIV, DIVU, REM, REMU and their .W forms
complete for every pair of operands, without trap or flag (R149). The model's own choices here: log 36. -/
def Obligations.IntegerTwoSource : Prop :=
  (∀ p ∈ Spec.intOps, Spec.TwoSource p.1 (fun a b => p.2.2 64 a b) ∧
    Spec.TwoSource p.2.1 (fun a b => Spec.wide (p.2.2 32 (Spec.low a) (Spec.low b)))) ∧
  (∀ p ∈ Spec.divOps, Spec.TwoSource p.1 (fun a b => p.2.2 64 a b) ∧
    Spec.TwoSource p.2.1 (fun a b => Spec.wide (p.2.2 32 (Spec.low a) (Spec.low b))))

/-- The unary operations, CSEL, BFX, BFI and LEA; the immediate forms, the shifts for counts 0 to 63, which are those that the encoding allows (R148,
R150 to R152). The model's own choices here: log 36. -/
def Obligations.IntegerUnaryAndImmediate : Prop :=
  (∀ p ∈ Spec.intUnary, Spec.OneSource p.1 (fun _ a => p.2.2 64 a) ∧ Spec.OneSource p.2.1 (fun _ a => Spec.wide (p.2.2 32 (Spec.low a)))) ∧
  Spec.ThreeSource .csel (fun a b d => if d.toNat = 0 then b else a) ∧
  Spec.ThreeSource .cselW (fun a b d => Spec.wide (if d.toNat % 2 ^ 32 = 0 then Spec.low b else Spec.low a)) ∧
  Spec.TwoSource .bfx (fun a b => Spec.ofBits 64 (fun i => decide (i < Spec.fieldLen b) && a.getLsbD (Spec.fieldPos b + i))) ∧
  Spec.ThreeSource .bfi (fun a b d => Spec.ofBits 64 (fun i =>
    if Spec.fieldPos b ≤ i ∧ i < Spec.fieldPos b + Spec.fieldLen b then a.getLsbD (i - Spec.fieldPos b) else d.getLsbD i)) ∧
  (∀ s l lf, Spec.Named s (.s s.ir.d.toNat :: .s s.ir.a.toNat :: Spec.bRegs s) → Spec.FreeS s s.ir.d →
    Spec.Labels s [(Spec.aReg s).lab, (Spec.bReg s).lab, s.act.clab] l lf →
    ∃ u, exec .lea s = .next (u.finish s.npc) ∧ Spec.ScalarGets s u s.ir.d
      (BitVec.ofNat 64 ((Spec.aReg s).val.toNat + (Spec.bReg s).val.toNat * 2 ^ s.ir.t.toNat)) l lf) ∧
  (∀ p ∈ Spec.immOps, Spec.OneSource p.1 p.2) ∧
  (∀ p ∈ Spec.shiftOps, ∀ s l lf, Spec.shiftCount s < 64 → Spec.Named s [.s s.ir.d.toNat, .s s.ir.a.toNat] → Spec.FreeS s s.ir.d →
    Spec.Labels s [(Spec.aReg s).lab, s.act.clab] l lf →
    ∃ u, exec p.1 s = .next (u.finish s.npc) ∧ Spec.ScalarGets s u s.ir.d (p.2 s (Spec.aReg s).val) l lf) ∧
  (∀ s l lf, Spec.Named s [.s s.ir.d.toNat] → Spec.FreeS s s.ir.d → Spec.Labels s [s.act.clab] l lf →
    ∃ u, exec .li s = .next (u.finish s.npc) ∧ Spec.ScalarGets s u s.ir.d (Spec.immediate s) l lf)


/-- FADD to FCMPLE, and the static-rounding FADD, FSUB and FMUL, complete with the value and the flags of R153 to R155; FMA and its kin take D, or C
in the extended form, as the addend and round once (R157, R158). The model's own choices here: log 36. -/
def Obligations.FloatShort : Prop :=
  (∀ p ∈ Spec.fpOps, Spec.FpTwo p.1 (fun s => p.2 (Spec.fpFormat s) (Spec.flagsRm s) (Spec.codeOf (Spec.fpFormat s) (Spec.aReg s)) (Spec.codeOf (Spec.fpFormat s) (Spec.bReg s)))) ∧
  Spec.FpOne .fclass (fun s => (((Spec.fpFormat s).classOf (Spec.codeOf (Spec.fpFormat s) (Spec.aReg s))).toNat, 0)) ∧
  Spec.FpOne .frece (fun s => (Spec.fpFormat s).frece (Spec.codeOf (Spec.fpFormat s) (Spec.aReg s))) ∧
  Spec.FpOne .frsqe (fun s => (Spec.fpFormat s).frsqe (Spec.codeOf (Spec.fpFormat s) (Spec.aReg s))) ∧
  (∀ p ∈ [(Instr.faddX, 0), (Instr.fsubX, 1), (Instr.fmulX, 2)], Spec.FpTwo p.1 (fun s =>
    let w := Spec.fpFormatX s
    let x := w.decode (Spec.codeOf w (Spec.aReg s))
    let y := w.decode (Spec.codeOf w (Spec.bReg s))
    Spec.rounded w (Spec.rndOf s) (if p.2 = 0 then fAdd (Spec.rndOf s) x y else if p.2 = 1 then fAdd (Spec.rndOf s) x y.neg else fMul x y))) ∧
  (∀ p ∈ Spec.fmaOps,
    (∀ s l lf, Spec.Named s (.s s.ir.d.toNat :: .s s.ir.a.toNat :: Spec.bRegs s) → Spec.FreeS s s.ir.d →
      Spec.Labels s [(Spec.aReg s).lab, (Spec.bReg s).lab, (Spec.dReg s).lab, s.act.clab] l lf →
      let w := Spec.fpFormat s
      let r := Spec.rounded w (Spec.flagsRm s) (fMulAdd (Spec.flagsRm s) p.2.2.1 p.2.2.2 (w.decode (Spec.codeOf w (Spec.aReg s)))
        (w.decode (Spec.codeOf w (Spec.bReg s))) (w.decode (Spec.codeOf w (Spec.dReg s))))
      ∃ u, exec p.1 s = .next (u.finish s.npc) ∧ Spec.ScalarGets s u s.ir.d (BitVec.ofNat 64 r.1) l (r.2 ||| lf)) ∧
    (∀ s l lf, Spec.Named s [.s s.ir.d.toNat, .s s.ir.a.toNat, .s s.ir.b.toNat, .s s.ir.c.toNat] → Spec.FreeS s s.ir.d →
      Spec.Labels s [(Spec.aReg s).lab, (s.act.rd s.ir.b).lab, (s.act.rd s.ir.c).lab, s.act.clab] l lf →
      let w := Spec.fpFormatX s
      let r := Spec.rounded w (Spec.rndOf s) (fMulAdd (Spec.rndOf s) p.2.2.1 p.2.2.2 (w.decode (Spec.codeOf w (Spec.aReg s)))
        (w.decode (Spec.codeOf w (s.act.rd s.ir.b))) (w.decode (Spec.codeOf w (s.act.rd s.ir.c))))
      ∃ u, exec p.2.1 s = .next (u.finish s.npc) ∧ Spec.ScalarGets s u s.ir.d (BitVec.ofNat 64 r.1) l (r.2 ||| lf)))

/-- FDIV and FSQRT, in both forms, leave their rounded result outstanding (R78, R79, R153, R158). The model's own choices here: log 36. -/
def Obligations.FloatLong : Prop :=
  Spec.Outstanding .fdiv (fun s => .s s.ir.a.toNat :: Spec.bRegs s) (fun s => [(Spec.aReg s).lab, (Spec.bReg s).lab])
    (fun s => let w := Spec.fpFormat s; Spec.rounded w (Spec.flagsRm s) (fDiv (w.decode (Spec.codeOf w (Spec.aReg s))) (w.decode (Spec.codeOf w (Spec.bReg s))))) ∧
  Spec.Outstanding .fdivX (fun s => .s s.ir.a.toNat :: Spec.bRegs s) (fun s => [(Spec.aReg s).lab, (Spec.bReg s).lab])
    (fun s => let w := Spec.fpFormatX s; Spec.rounded w (Spec.rndOf s) (fDiv (w.decode (Spec.codeOf w (Spec.aReg s))) (w.decode (Spec.codeOf w (Spec.bReg s))))) ∧
  Spec.Outstanding .fsqrt (fun s => [.s s.ir.a.toNat]) (fun s => [(Spec.aReg s).lab])
    (fun s => let w := Spec.fpFormat s; Spec.rounded w (Spec.flagsRm s) (fSqrt (w.decode (Spec.codeOf w (Spec.aReg s))))) ∧
  Spec.Outstanding .fsqrtX (fun s => [.s s.ir.a.toNat]) (fun s => [(Spec.aReg s).lab])
    (fun s => let w := Spec.fpFormatX s; Spec.rounded w (Spec.rndOf s) (fSqrt (w.decode (Spec.codeOf w (Spec.aReg s)))))

/-- FCVT rounds the exact source value into the destination, extends the result, and steps the generator exactly when stochastic rounding takes effect
(R93, R96, R97, R159). The model's own choices here: log 36. -/
def Obligations.FloatConvert : Prop :=
  ∀ s l lf, Spec.Named s [.s s.ir.d.toNat, .s s.ir.a.toNat] → Spec.FreeS s s.ir.d → Spec.Labels s [(Spec.aReg s).lab, s.act.clab] l lf →
    let dst := s.ir.y.toNat
    let asked := if s.ir.rnd.toNat = 5 then s.act.flags.toNat % 8 else s.ir.rnd.toNat
    let mode := if asked = 6 ∧ dst ≠ 2 ∧ dst ≠ 3 then 0 else asked
    let next := rngStep s.me.rngst
    let r := cvtTo dst mode (next.toNat % 65536) (cvtSource s.ir.x.toNat (Spec.aReg s).val.toNat)
    ∃ u, Spec.ScalarGets s u s.ir.d (if dst = 6 then BitVec.ofInt 64 (BitVec.ofNat 32 r.1).toInt else BitVec.ofNat 64 r.1) l (r.2 ||| lf) ∧
      exec .fcvt s = .next ((if mode = 6 then u.setMe { u.me with rngst := next } else u).finish s.npc)

/-- Round gives every finite value of a wide format its own code without a flag, whatever the mode and the draw; any other value goes to one of its
neighbours, as the mode says, with NX, and with UF where it is tiny; above the largest finite magnitude it overflows with OF and NX; and a NaN gives
the canonical NaN (R88, R89, R94). -/
def Obligations.RoundIsExact : Prop :=
  (∀ (f : Fmt) (mode draw x : Nat), x < 2 ^ (fmtOf f).width → x / 2 ^ (fmtOf f).f % 2 ^ (fmtOf f).eb ≠ 2 ^ (fmtOf f).eb - 1 →
    (fmtOf f).round mode draw ((fmtOf f).decode x) = (x, 0)) ∧
  (∀ (f : Fmt) (mode draw : Nat) (n : Bool), let w := fmtOf f
    w.round mode draw (.num n 0 0) = (w.signed n 0, 0) ∧ w.round mode draw (.inf n) = (w.infCode n, 0) ∧
    (∀ sig, w.round mode draw (.nan sig) = (w.canonNan, if sig then flagNV else 0))) ∧
  (∀ (f : Fmt) (mode draw : Nat) (n : Bool) (m : Nat) (e : Int) (c : Nat), let w := fmtOf f; let q : Rat := m * 2 ^ e
    let lo := Spec.magnitude w c; let hi := Spec.magnitude w (c + 1); let r := w.round mode draw (.num n m e)
    let overflow := (if mode = 1 ∨ mode = 2 ∧ n = true ∨ mode = 3 ∧ n = false then w.signed n w.maxFinite else w.infCode n, flagOF ||| flagNX)
    m ≠ 0 → lo ≤ q → q < hi → ∀ d, (Spec.RoundsUp mode draw n c lo hi q → d = c + 1) → (¬ Spec.RoundsUp mode draw n c lo hi q → d = c) →
      (w.maxFinite < d → r = overflow) ∧
      (d ≤ w.maxFinite → r.1 = w.signed n d ∧ (q = lo → r.2 = 0) ∧ (q ≠ lo → r.2 = flagNX ∨ r.2 = flagNX ||| flagUF) ∧
        (q ≠ lo → q ≤ 2 ^ (1 - (w.bias : Int)) - 2 ^ (-(w.bias : Int) - (w.f : Int)) → r.2 = flagNX ||| flagUF) ∧
        (q ≠ lo → 2 ^ (1 - (w.bias : Int)) ≤ q → r.2 = flagNX)))

/-- The values that floating-point operations round: exact sums, products and fused sums, traced quotients and roots; minimum, maximum, comparisons
and classes of codes; the estimates; conversions to integers and those of vectors, element by element (R88, R96, R97, R153 to R157, R159, R169). -/
def Obligations.FloatValues : Prop :=
  (∀ (mode : Nat) (a b : FVal), Spec.Finite a → Spec.Finite b →
    (∃ n m e, fAdd mode a b = (.num n m e, 0) ∧ Spec.num (.num n m e) = Spec.num a + Spec.num b ∧
      (m = 0 → n = if Spec.num a = 0 ∧ a.negSign = b.negSign then a.negSign else mode == 3)) ∧
    (∃ m e, fMul a b = (.num (a.negSign != b.negSign) m e, 0) ∧ |Spec.num a * Spec.num b| = m * 2 ^ e) ∧
    (∀ i, fAdd mode a (.inf i) = (.inf i, 0) ∧ fAdd mode (.inf i) b = (.inf i, 0) ∧
      fMul (.inf i) b = (if Spec.num b = 0 then (.nan false, flagNV) else (.inf (i != b.negSign), 0)) ∧
      fMul a (.inf i) = (if Spec.num a = 0 then (.nan false, flagNV) else (.inf (a.negSign != i), 0)) ∧
      fDiv (.inf i) b = (.inf (i != b.negSign), 0) ∧ fDiv a (.inf i) = (.num (a.negSign != i) 0 0, 0)) ∧
    (Spec.num b = 0 → fDiv a b = if Spec.num a = 0 then (.nan false, flagNV) else (.inf (a.negSign != b.negSign), flagDZ)) ∧
    (Spec.num b ≠ 0 → Spec.num a = 0 → fDiv a b = (.num (a.negSign != b.negSign) 0 0, 0)) ∧
    (Spec.num b ≠ 0 → Spec.num a ≠ 0 → ∃ m e, fDiv a b = (.num (a.negSign != b.negSign) m e, 0) ∧
      Spec.Traces m (· < |Spec.num a / Spec.num b|) (|Spec.num a / Spec.num b| < ·) (· = |Spec.num a / Spec.num b|) e)) ∧
  (∀ (mode : Nat) (i j : Bool),
    fAdd mode (.inf i) (.inf j) = (if i = j then (.inf i, 0) else (.nan false, flagNV)) ∧ fMul (.inf i) (.inf j) = (.inf (i != j), 0) ∧
    fDiv (.inf i) (.inf j) = (.nan false, flagNV)) ∧
  (∀ (mode : Nat) (a b : FVal), a.isNan = true ∨ b.isNan = true → let r := (FVal.nan false, if a.isSig = true ∨ b.isSig = true then flagNV else 0)
    fAdd mode a b = r ∧ fMul a b = r ∧ fDiv a b = r) ∧
  (∀ (mode : Nat) (p d : Bool) (a b x : FVal), let r := fMulAdd mode p d a b x
    (Spec.Finite a → Spec.Finite b → Spec.Finite x → ∃ n m e, r = (.num n m e, 0) ∧
      Spec.num (.num n m e) = (if p then -(Spec.num a * Spec.num b) else Spec.num a * Spec.num b) + if d then -Spec.num x else Spec.num x) ∧
    (∀ i, a = .inf i ∧ Spec.Finite b ∧ Spec.num b = 0 ∨ b = .inf i ∧ Spec.Finite a ∧ Spec.num a = 0 → r = (.nan false, flagNV)) ∧
    (a.isNan = true ∨ b.isNan = true → r = (.nan false, if a.isSig = true ∨ b.isSig = true ∨ x.isSig = true then flagNV else 0)) ∧
    (a.isNan = false → b.isNan = false → (fMul a b).2 = 0 → x.isNan = true → r = (.nan false, if x.isSig = true then flagNV else 0)) ∧
    (∀ i, fMul a b = (.inf i, 0) → x.isNan = false → r = fAdd mode (.inf (i != p)) (if d then x.neg else x))) ∧
  (∀ (n : Bool) (m : Nat) (e : Int), m < 2 ^ 64 → let a : Rat := m * 2 ^ e
    (m = 0 → fSqrt (.num n m e) = (.num n 0 0, 0)) ∧ (m ≠ 0 → n = true → fSqrt (.num n m e) = (.nan false, flagNV)) ∧
    (m ≠ 0 → n = false → ∃ k g, fSqrt (.num n m e) = (.num false k g, 0) ∧ Spec.Traces k (fun v => v * v < a) (fun v => a < v * v) (fun v => v * v = a) g) ∧
    fSqrt (.inf n) = (if n then (.nan false, flagNV) else (.inf false, 0)) ∧ fSqrt (.nan n) = (.nan false, if n then flagNV else 0)) ∧
  (∀ (f : Fmt) (x y : Nat), let w := fmtOf f; x < 2 ^ w.width → y < 2 ^ w.width →
    let first := Spec.codeOrder w x < Spec.codeOrder w y ∨ Spec.codeOrder w x = Spec.codeOrder w y ∧ Spec.codeSign w x = 1
    (¬ Spec.NanCode w x → ¬ Spec.NanCode w y → (first → w.minmax false x y = (x, 0) ∧ w.minmax true x y = (y, 0)) ∧
      (¬ first → w.minmax false x y = (y, 0) ∧ w.minmax true x y = (x, 0)) ∧
      w.compare 0 x y = (decide (Spec.codeOrder w x = Spec.codeOrder w y), 0) ∧ w.compare 1 x y = (decide (Spec.codeOrder w x < Spec.codeOrder w y), 0) ∧
      w.compare 2 x y = (decide (Spec.codeOrder w x ≤ Spec.codeOrder w y), 0) ∧ w.compare 3 x y = (false, 0)) ∧
    (∀ v : Word, (Spec.SigCode w x ∨ Spec.SigCode w y → v = flagNV) → (¬ Spec.SigCode w x → ¬ Spec.SigCode w y → v = 0) →
      (Spec.NanCode w x ∨ Spec.NanCode w y → w.compare 0 x y = (false, v) ∧ w.compare 1 x y = (false, flagNV) ∧ w.compare 2 x y = (false, flagNV) ∧
        w.compare 3 x y = (true, v)) ∧
      ∀ max, (Spec.NanCode w x → Spec.NanCode w y → w.minmax max x y = (w.canonNan, v)) ∧ (Spec.NanCode w x → ¬ Spec.NanCode w y → w.minmax max x y = (y, v)) ∧
        (¬ Spec.NanCode w x → Spec.NanCode w y → w.minmax max x y = (x, v))) ∧
    (w.classOf x).toNat = Spec.classKind w x + 8 * Spec.codeSign w x + (if Spec.classKind w x = 1 ∨ Spec.classKind w x = 2 then 16 else 0) +
      (Spec.classExp w x % 65536).toNat * 65536) ∧
  (∀ (f : Fmt) (x : Nat) (n : Bool) (m : Nat) (e : Int), let w := fmtOf f; let a : Rat := m * 2 ^ e; let k := 2 ^ (w.f - Min.min w.f 12)
    x < 2 ^ w.width → w.decode x = .num n m e →
    (m = 0 → w.frece x = (w.infCode n, flagDZ) ∧ w.frsqe x = (w.infCode n, flagDZ)) ∧
    (m ≠ 0 → Spec.magnitude w (w.maxFinite + 1) * a ≤ 1 → w.frece x = (w.signed n w.maxFinite, flagOF)) ∧
    (m ≠ 0 → 1 < Spec.magnitude w (w.maxFinite + 1) * a → ∃ c, w.frece x = (w.signed n c, 0) ∧ c % k = 0 ∧
      Spec.magnitude w c * a ≤ 1 ∧ 1 < Spec.magnitude w (c + k) * a) ∧
    (m ≠ 0 → n = true → w.frsqe x = (w.canonNan, flagNV)) ∧
    (m ≠ 0 → n = false → ∃ c, w.frsqe x = (c, 0) ∧ c % k = 0 ∧ Spec.magnitude w c * Spec.magnitude w c * a ≤ 1 ∧
      1 < Spec.magnitude w (c + k) * Spec.magnitude w (c + k) * a)) ∧
  (∀ (f : Fmt) (x : Nat), let w := fmtOf f; x < 2 ^ w.width →
    (∀ i, w.decode x = .inf i → w.frece x = (w.signed i 0, 0) ∧ w.frsqe x = if i then (w.canonNan, flagNV) else (0, 0)) ∧
    (∀ i, w.decode x = .nan i → let r := (w.canonNan, if i then flagNV else 0); w.frece x = r ∧ w.frsqe x = r)) ∧
  (∀ p ∈ Spec.integerCodes, ∀ mode draw : Nat, mode ≠ 6 → let code := fun r : Int => (BitVec.ofInt p.2.2.2 r).toNat
    (∀ sig, cvtTo p.1 mode draw (.nan sig) = (0, flagNV)) ∧ (∀ i, cvtTo p.1 mode draw (.inf i) = (code (if i then p.2.1 else p.2.2.1), flagNV)) ∧
    (∀ v, Spec.Finite v → ∃ r : Int, Spec.RoundsTo mode (Spec.num v) r ∧ cvtTo p.1 mode draw v =
      if r < p.2.1 then (code p.2.1, flagNV) else if p.2.2.1 < r then (code p.2.2.1, flagNV) else (code r, if (r : Rat) = Spec.num v then 0 else flagNX))) ∧
  (∀ (mode draw : Nat) (v : FVal), cvtTo 0 mode draw v = (fmtOf .d).round mode draw v ∧ cvtTo 1 mode draw v = (fmtOf .s).round mode draw v ∧
    cvtTo 2 mode draw v = (fmtOf .h).round mode draw v ∧ cvtTo 3 mode draw v = (fmtOf .bf).round mode draw v) ∧
  (∀ (mask : Word) (v : Line) (src dst mode n : Nat) (g : Word), let r := cvtFold mask v src dst mode n 0 g
    let one := fun i => cvtTo dst mode ((Nat.iterate rngStep (Spec.elementDraws mask mode i) g).toNat % 65536) (cvtSource src (vElem v (cvtWidth src) i))
    (∀ i, i < n → r.1.getD i 0 = if mask.getLsbD i = true then (one i).1 else 0) ∧
    (∀ b, r.2.1.getLsbD b = true ↔ ∃ i, i < n ∧ mask.getLsbD i = true ∧ (one i).2.getLsbD b = true) ∧
    (0 < n → r.2.2 = Nat.iterate rngStep (Spec.elementDraws mask mode (n - 1)) g))

/-- VINT and VMOV: active elements get the value of R163, inactive elements stay, no flag is set (R160, R161, R166). -/
def Obligations.VectorInteger : Prop :=
  (∀ p ∈ Spec.vintOps, Spec.Elementwise2 p.1 Spec.intWidth (fun s x y => (p.2 (Spec.intWidth s) x y, 0))) ∧
  Spec.Elementwise1 .vabs Spec.intWidth (fun s x => (Spec.wrap (Spec.intWidth s) (Spec.sgn (Spec.intWidth s) x).natAbs, 0)) ∧
  Spec.Elementwise1 .vneg Spec.intWidth (fun s x => (Spec.wrap (Spec.intWidth s) (-(x : Int)), 0)) ∧
  Spec.Elementwise1 .vmov Spec.intWidth (fun _ x => (x, 0))

/-- VFP: active elements get the rounded value and raise its flags (R160, R161, R164). -/
def Obligations.VectorFloat : Prop :=
  (∀ p ∈ Spec.vfpOps, Spec.Elementwise2 p.1 Spec.fpWidth (fun s x y => p.2 (Spec.fpFormatX s) (Spec.flagsRm s) x y)) ∧
  Spec.Elementwise1 .vfsqrt Spec.fpWidth (fun s x => Spec.rounded (Spec.fpFormatX s) (Spec.flagsRm s) (fSqrt ((Spec.fpFormatX s).decode x))) ∧
  Spec.Elementwise1 .vfrece Spec.fpWidth (fun s x => (Spec.fpFormatX s).frece x) ∧
  Spec.Elementwise1 .vfrsqe Spec.fpWidth (fun s x => (Spec.fpFormatX s).frsqe x) ∧
  Spec.Elementwise1 .vfabs Spec.fpWidth (fun s x => (x % 2 ^ (Spec.fpWidth s - 1), 0)) ∧
  Spec.Elementwise1 .vfneg Spec.fpWidth (fun s x => ((x + 2 ^ (Spec.fpWidth s - 1)) % 2 ^ Spec.fpWidth s, 0)) ∧
  (∀ p ∈ [(Instr.vfma, false, false), (Instr.vfms, false, true), (Instr.vfnma, true, true)],
    Spec.Elementwise3 p.1 Spec.fpWidth (fun s x y d => Spec.rounded (Spec.fpFormatX s) (Spec.flagsRm s) (fMulAdd (Spec.flagsRm s) p.2.1 p.2.2
      ((Spec.fpFormatX s).decode x) ((Spec.fpFormatX s).decode y) ((Spec.fpFormatX s).decode d))))

/-- The moves across elements, and the reductions, which fold the active elements in increasing order (R162, R166, R167). -/
def Obligations.VectorCross : Prop :=
  (Spec.VectorOp .vsel (fun s => [.v s.ir.a.toNat, .v s.ir.b.toNat]) Spec.intWidth (fun _ _ => true)
    (fun s j => if Spec.active s j then vElem (Spec.vA s).val (Spec.intWidth s) j else vElem (Spec.vB s).val (Spec.intWidth s) j)
    (fun s q => singles [(Spec.vA s).quadLab q, (Spec.vB s).quadLab q]) false Spec.maskLab (fun _ => 0) ∧
  Spec.CrossElement .vperm (fun s j =>
    let k := vElem (Spec.vB s).val (Spec.intWidth s) j
    if k < Spec.count s then vElem (Spec.vA s).val (Spec.intWidth s) k else 0) ∧
  Spec.CrossElement .vslideup (fun s j =>
    let k := vElem (Spec.vB s).val (Spec.intWidth s) 0
    if k ≤ j then vElem (Spec.vA s).val (Spec.intWidth s) (j - k) else 0) ∧
  Spec.CrossElement .vslidedn (fun s j =>
    let k := vElem (Spec.vB s).val (Spec.intWidth s) 0
    if j + k < Spec.count s then vElem (Spec.vA s).val (Spec.intWidth s) (j + k) else 0) ∧
  Spec.VectorOp .viota (fun _ => []) Spec.intWidth (fun _ _ => true) (fun s j => Spec.activeBelow s j % 2 ^ Spec.intWidth s)
    (fun _ _ => []) false Spec.maskLab (fun _ => 0) ∧
  Spec.VectorOp .vcomp (fun s => [.v s.ir.a.toNat]) Spec.intWidth (fun _ _ => true)
    (fun s j => match (List.range (Spec.count s)).find? (fun i => Spec.active s i && Spec.activeBelow s i == j) with
      | some i => vElem (Spec.vA s).val (Spec.intWidth s) i | none => 0)
    (fun s _ => [(Spec.vA s).labs]) false Spec.maskLab (fun _ => 0)) ∧
  (∀ p ∈ Spec.vredOps, Spec.Reduction p.1 Spec.intWidth (fun s x y => (p.2 (Spec.intWidth s) x y, 0))) ∧
  Spec.Reduction .vfredadd Spec.fpWidth (fun s x y => Spec.rounded (Spec.fpFormatX s) (Spec.flagsRm s)
    (fAdd (Spec.flagsRm s) ((Spec.fpFormatX s).decode x) ((Spec.fpFormatX s).decode y))) ∧
  Spec.Reduction .vfredmin Spec.fpWidth (fun s x y => (Spec.fpFormatX s).minmax false x y) ∧
  Spec.Reduction .vfredmax Spec.fpWidth (fun s x y => (Spec.fpFormatX s).minmax true x y)

/-- Between a vector element and a scalar register (R168), VCMP into a mask (R165), and VCVT (R169). The model's own choices here: log 36. -/
def Obligations.VectorMoveCompareConvert : Prop :=
  Spec.VectorOp .vbcast (fun s => [.s s.ir.a.toNat]) Spec.intWidth (fun _ _ => true)
    (fun s _ => (Spec.aReg s).val.toNat % 2 ^ Spec.intWidth s) (fun s _ => singles [(Spec.aReg s).lab]) false (fun _ => []) (fun _ => 0) ∧
  (∀ s l lf, Spec.Named s [.v s.ir.d.toNat, .s s.ir.a.toNat] → Spec.FreeS s s.ir.a → s.ir.imm.toNat < Spec.count s →
    Spec.Labels s [(Spec.vD s).quadLab (Spec.intWidth s * s.ir.imm.toNat / 128), s.act.clab] l lf →
    ∃ u, exec .vext s = .next (u.finish s.npc) ∧
      Spec.ScalarGets s u s.ir.a (BitVec.ofNat 64 (vElem (Spec.vD s).val (Spec.intWidth s) s.ir.imm.toNat)) l lf) ∧
  (∀ s l lf, Spec.Named s [.v s.ir.d.toNat, .s s.ir.a.toNat] → Spec.FreeV s (s.ir.d.setWidth 4) → s.ir.imm.toNat < Spec.count s →
    let q := Spec.intWidth s * s.ir.imm.toNat / 128
    Spec.Labels s [(Spec.vD s).quadLab q, (Spec.aReg s).lab, s.act.clab] l lf →
    ∃ u, exec .vins s = .next (u.finish s.npc) ∧ Spec.VectorGets s u (s.ir.d.setWidth 4) (Spec.intWidth s)
      (fun j => if j = s.ir.imm.toNat then (Spec.aReg s).val.toNat % 2 ^ Spec.intWidth s else vElem (Spec.vD s).val (Spec.intWidth s) j)
      ((List.range 4).map (fun p => if p = q then l else (Spec.vD s).quadLab p)) lf) ∧
  (∀ s l lf, Spec.Named s [.v s.ir.a.toNat, .v s.ir.b.toNat] → s.ir.md.toNat ≤ 9 →
    Spec.GroupLabels s ([(Spec.vA s).labs, (Spec.vB s).labs] ++ singles (Spec.maskLab s ++ [s.act.clab])) l lf →
    ∃ u, exec .vcmp s = .next (u.finish s.npc) ∧
      (if s.ir.md.toNat < 6 then Spec.MaskGets s u (s.ir.d.setWidth 3)
          (Spec.ofBits 64 (fun i => decide (i < Spec.count s) && Spec.active s i && Spec.vcmpInt s i)) l lf
        else Spec.MaskGets s u (s.ir.d.setWidth 3)
          (Spec.ofBits 64 (fun i => decide (i < 512 / Spec.fpWidth s) && Spec.active s i && (Spec.vcmpFp s i).1)) l
          (Spec.activeFlags s (512 / Spec.fpWidth s) (fun i => (Spec.vcmpFp s i).2) ||| lf))) ∧
  (∀ s ls lf, Spec.Named s [.v s.ir.d.toNat, .v s.ir.a.toNat] → Spec.FreeV s (s.ir.d.setWidth 4) →
    let n := 512 / Nat.max (cvtWidth s.ir.x.toNat) (cvtWidth s.ir.y.toNat)
    let w := cvtWidth s.ir.y.toNat
    let mode := if s.act.flags.toNat % 8 = 6 ∧ s.ir.y.toNat ≠ 2 ∧ s.ir.y.toNat ≠ 3 then 0 else s.act.flags.toNat % 8
    let r := cvtFold (s.act.rdM s.ir.k).val (Spec.vA s).val s.ir.x.toNat s.ir.y.toNat mode n 0 s.me.rngst
    let written := fun i => decide (n ≤ i) || Spec.active s i
    Spec.QuadLabels s (Spec.quadSources s w written (fun _ => [(Spec.vA s).labs]) false (Spec.maskLab s)) ls lf →
    ∃ u, Spec.VectorGets s u (s.ir.d.setWidth 4) w (fun i => if written i then r.1.getD i 0 % 2 ^ w else vElem (Spec.vD s).val w i) ls (r.2.1 ||| lf) ∧
      exec .vcvt s = .next ((u.setMe { u.me with rngst := r.2.2 }).finish s.npc))

/-- The MASK group: each result is written whole, with the product of the source labels and CLAB (R176). The model's own choices here: log 36. -/
def Obligations.Masks : Prop :=
  (∀ p ∈ [(Instr.mand, fun a b => a && b), (.mor, fun a b => a || b), (.mxor, fun a b => a != b), (.mandn, fun a b => a && !b)],
    Spec.MaskOp p.1 (fun s => [(Spec.kA s).lab, (Spec.kB s).lab]) (fun s => Spec.ofBits 64 (fun i => p.2 ((Spec.kA s).val.getLsbD i) ((Spec.kB s).val.getLsbD i)))) ∧
  Spec.MaskOp .mnot (fun s => [(Spec.kA s).lab]) (fun s => Spec.ofBits 64 (fun i => !(Spec.kA s).val.getLsbD i)) ∧
  (∀ s l lf, Spec.Named s [.s s.ir.a.toNat] → Spec.Labels s [(Spec.aReg s).lab, s.act.clab] l lf →
    ∃ u, exec .stom s = .next (u.finish s.npc) ∧ Spec.MaskGets s u (s.ir.d.setWidth 3) (Spec.aReg s).val l lf) ∧
  Spec.MaskToScalar .mpopc (fun a => BitVec.ofNat 64 ((List.range 64).filter (fun i => a.getLsbD i)).length) ∧
  Spec.MaskToScalar .mfirst (fun a => BitVec.ofNat 64 ((List.range 64).takeWhile (fun i => !a.getLsbD i)).length) ∧
  Spec.MaskToScalar .mtos (fun a => a)

/-- J and CALL, whole: their encodings, targets, the link and CALL's REGBOUND (R178). And the conditional branches, JR and LOOP (R137, R177, R179,
R180). The model's own choice, in the clause of JR alone: log 36. -/
def Obligations.BranchesAndJumps : Prop :=
  (Spec.BranchOp .beq (fun a b => decide (a.toNat = b.toNat)) ∧ Spec.BranchOp .bne (fun a b => decide (a.toNat ≠ b.toNat)) ∧
  Spec.BranchOp .blt (fun a b => decide (a.toInt < b.toInt)) ∧ Spec.BranchOp .bge (fun a b => decide (b.toInt ≤ a.toInt)) ∧
  Spec.BranchOp .bltu (fun a b => decide (a.toNat < b.toNat)) ∧ Spec.BranchOp .bgeu (fun a b => decide (b.toNat ≤ a.toNat)) ∧
  Spec.MaskBranch .bmany (fun a => decide (a.toNat ≠ 0)) ∧ Spec.MaskBranch .bmnone (fun a => decide (a.toNat = 0))) ∧
  (∀ s : State, exec .j s = .next (s.finish (Spec.target s 22))) ∧
  (∀ s : State, Spec.Within s (.s 63) → Spec.FreeS s 63 →
    ∃ u, exec .call s = .next (u.finish (Spec.target s 22)) ∧ Spec.ScalarGets s u 63 (s.act.pc + 4) s.act.clab (Spec.ps s s.act.clab)) ∧
  (∀ s : State, ¬ Spec.Within s (.s 63) → exec .call s = .next (s.raise .regbound 63)) ∧
  (∀ w : BitVec 32, w.toNat / 2 ^ 30 = 0 → ∀ p ∈ [(0x48, Instr.j), (0x49, .call)], w.toNat / 2 ^ 22 % 128 = p.1 →
    ∃ o, decode [w] = .ok { op := p.2, ops := o } ∧ o.imm.toNat = w.toNat % 2 ^ 22 ∧ o.sw = w.getLsbD 29) ∧
  (∀ s k f, Spec.Named s [.s s.ir.d.toNat, .s s.ir.a.toNat] → Spec.FreeS s s.ir.d → s.labOf (Spec.aReg s).lab ≠ none →
    Spec.Joins s [(Spec.aReg s).lab] k f →
    ∃ t u, Spec.ControlGets s t k f ∧ Spec.ScalarGets t u s.ir.d (s.act.pc + 4) k (Spec.ps t k) ∧
      exec .jr s = .next (u.finish (Spec.aReg s).val)) ∧
  (∀ s k f, Spec.Within s (.s s.ir.a.toNat) → Spec.FreeS s s.ir.a → s.labOf (Spec.aReg s).lab ≠ none → Spec.Joins s [(Spec.aReg s).lab] k f →
    ∃ t, Spec.ControlGets s t k f ∧
      ((Spec.aReg s).val = 0 → exec .loop s = .next (t.finish s.npc)) ∧
      ((Spec.aReg s).val ≠ 0 → ∀ l g, Spec.Labels t [(Spec.aReg s).lab, k] l g →
        ∃ u, Spec.ScalarGets t u s.ir.a ((Spec.aReg s).val - 1) l g ∧
          exec .loop s = .next (u.finish (if (Spec.aReg s).val.toNat = 1 then s.npc else Spec.target s 10))))

/-- The end of every instruction: without a switch marker the pc moves on and nothing else changes; with one, an activation with results outstanding
parks at the next instruction and the core is free for another, and one without goes on (R63, R80). -/
def Obligations.EndOfInstruction : Prop :=
  (∀ (s : State) (pc : Word), s.act.elect = none → s.ir.sw = false ∨ Spec.AtRest s →
    s.finish pc = s.setMe { s.me with stallSince := none, twait := false, act := { s.act with pc := pc } }) ∧
  (∀ (s : State) (pc : Word), s.act.elect = none → s.ir.sw = true → s.act.cancelled = false → s.act.outs ≠ [] → Spec.Alone s.me →
    (s.finish pc).me = { s.me with
      running := false, stallSince := none, twait := false, act := { s.act with pc := pc }
      parked := s.me.parked ++ [{ s.act with pc := pc, park := some .outs, npc := pc }] } ∧ (s.finish pc).mem = s.mem)

/-- TFENCE, whole: it waits for the outstanding results, then raises ARITH for the enabled flags, which stay, or goes on (R332). And NOP, SLEEP, YIELD
and DONE: what each does once it is at rest (R80, R181, R302, R334). -/
def Obligations.SystemFlow : Prop :=
  (∀ s : State, exec .nop s = .next (s.finish s.npc)) ∧
  (∀ s : State, s.act.outs ≠ [] → s.act.cancelled = false → Spec.Alone s.me → ∃ u, exec .tfence s = .next u ∧ Spec.Parks s u .outs s.act.pc) ∧
  (∀ s : State, let f := s.act.flags.toNat; let e := Spec.ofBits 9 (fun i => decide (f / 2 ^ (8 + i) % 2 = 1) && decide (f / 2 ^ (24 + i) % 2 = 1))
    Spec.AtRest s → (e = 0 → exec .tfence s = .next (s.finish s.npc)) ∧
      (e ≠ 0 → exec .tfence s = .next (s.raise .arith (BitVec.ofNat 64 (e.toNat * 2 ^ 8))) ∧
        (s.act.elect = none → Spec.CanTrap s .arith →
          Spec.TrapTaken s (s.raise .arith (BitVec.ofNat 64 (e.toNat * 2 ^ 8))) .arith (BitVec.ofNat 64 (e.toNat * 2 ^ 8)) s.act.pc))) ∧
  (∀ s : State, Spec.AtRest s → Spec.Within s (.s s.ir.a.toNat) → Spec.Alone s.me → (Spec.aReg s).val = 0 →
    ∃ u, exec .sleep s = .next u ∧ Spec.Parks s u (.sleepMsg s.me.accepted) s.npc) ∧
  (∀ s : State, Spec.AtRest s → Spec.Within s (.s s.ir.a.toNat) → Spec.Alone s.me → (Spec.aReg s).val ≠ 0 → (Spec.aReg s).val.toNat < 2 ^ 32 →
    ∃ u, exec .sleep s = .next u ∧ Spec.Parks s u (.sleep (s.clock + (Spec.aReg s).val)) s.npc) ∧
  (∀ s : State, Spec.AtRest s → Spec.Alone s.me → s.me.halted = false → s.act.elect = none →
    ∃ u, exec .yield s = .next u ∧ u.me.running = true ∧ u.me.ready = [] ∧
      u.act = { s.act with pc := s.npc, level := (s.me.chans[s.act.chan.toNat]'s.act.chan.isLt).prio, readyAt := s.clock } ∧ u.mem = s.mem) ∧
  (∀ s : State, s.act.outs = [] → s.act.deferred = [] → s.act.unanswered = 0 → Spec.Alone s.me → s.act.rcd.ctr = 0 → s.act.rcd.ubuf = none →
    s.act.gang = none → (s.job s.slot).counters = [] → (s.me.chans[s.act.chan.toNat]'s.act.chan.isLt).recs = [] →
    ∃ u, exec .done s = .next u ∧ u.me.running = false ∧ u.me.act = Act.blank ∧ u.me.parked = s.me.parked ∧
      (u.me.chans[s.act.chan.toNat]'s.act.chan.isLt).act = false ∧ u.mem = s.mem)

/-- TRAP takes SWTRAP with the value of sa; every cause but PFAIL, whose value is measured at its entry, enters its handler with the state of R336 and
R337; ERET gives the interrupted activation its mode, control label, stack and pc again, and its registers are as they were (R42, R331, R336, R337,
R339). -/
def Obligations.TrapsTaken : Prop :=
  (∀ s, Spec.Within s (.s s.ir.a.toNat) → Spec.CanTrap s .swtrap → s.act.elect = none →
    ∃ u, exec .trap s = .next u ∧ Spec.TrapTaken s u .swtrap (Spec.aReg s).val s.act.pc) ∧
  (∀ s c v, c ≠ .pfail → Spec.CanTrap s c → Spec.TrapTaken s (s.raise c v) c v (if s.act.elect = none then s.act.pc else s.act.pc - 4)) ∧
  (∀ s t, s.act.trap = some t → Spec.AtRest s → s.act.dfr = false →
    ∃ u, exec .eret s = .next u ∧ u.act.pc = s.me.xpc ∧ u.act.sup = t.sup ∧ u.act.clab = t.clab ∧ u.act.cstack = t.cstack ∧
      u.act.trap = none ∧ u.act.deferred = t.deferred ∧ u.act.sregs = s.act.sregs ∧ u.act.vregs = s.act.vregs ∧ u.act.mregs = s.act.mregs ∧
      u.mem = s.mem ∧ ∀ c, c ≠ s.cur → u.core c = s.core c)

/-- GROW, whose new registers read zero with TRUE, SHRINK, and BAR outside a gang (R182, R183, R282, R370); ELECT outside a gang takes the next
instruction alone (R330). The model's own choices here: log 36. -/
def Obligations.AllotmentAndGang : Prop :=
  (∀ s : State, s.act.trap = none → ∃ u, exec .grow s = .next (u.finish s.npc) ∧ Spec.Inside s u ∧
    u.act = { s.act with
      sa := if s.act.sa.toNat < s.ir.d.toNat % 16 then s.ir.d.setWidth 4 else s.act.sa
      va := if s.act.va.toNat < s.ir.a.toNat % 8 then s.ir.a.setWidth 3 else s.act.va
      sregs := u.act.sregs, vregs := u.act.vregs } ∧
    (∀ r : BitVec 6, u.act.rd r = if r.toNat < 8 * s.act.sa.toNat then s.act.rd r else { val := 0, lab := 0 }) ∧
    ∀ v : BitVec 4, u.act.rdV v = if v.toNat < 4 * s.act.va.toNat then s.act.rdV v else { val := 0, l0 := 0, l1 := 0, l2 := 0, l3 := 0 }) ∧
  (∀ s : State, s.act.trap = none → Spec.AtRest s → ∃ u, exec .shrink s = .next (u.finish s.npc) ∧ Spec.Inside s u ∧
    u.act.sa.toNat = Min.min s.act.sa.toNat (s.ir.d.toNat % 16) ∧ u.act.va.toNat = Min.min s.act.va.toNat (s.ir.a.toNat % 8) ∧
    (∀ r : BitVec 6, r.toNat < 8 * u.act.sa.toNat → u.act.rd r = s.act.rd r) ∧
    (∀ r : BitVec 6, 8 * u.act.sa.toNat ≤ r.toNat → u.act.rd r = { val := 0, lab := 0 }) ∧
    (∀ v : BitVec 4, v.toNat < 4 * u.act.va.toNat → u.act.rdV v = s.act.rdV v) ∧
    (∀ v : BitVec 4, 4 * u.act.va.toNat ≤ v.toNat → u.act.rdV v = { val := 0, l0 := 0, l1 := 0, l2 := 0, l3 := 0 }) ∧
    u.act.mregs = s.act.mregs ∧ u.act.flags = s.act.flags ∧ u.act.clab = s.act.clab) ∧
  (∀ s : State, Spec.Within s (.s s.ir.d.toNat) → Spec.AtRest s → s.act.gang = none →
    ∃ u, exec .bar s = .next (u.finish s.npc) ∧ Spec.StatusGets s u s.ir.d (BitVec.allOnes 64)) ∧
  (∀ s w0 ws i ru, s.act.gang = none → s.fetchWord (s.act.pc + 4) = .ok w0 → s.fetchFrom (s.act.pc + 4) (wordCount w0) = .ok ws →
    decode ws = .ok i → electable i = some ru → Spec.Named s ru →
    (i.op = .getc → let n := i.ops.imm.toNat
      Spec.MayAccess s n i.ops.d ∨ (s.act.trap.isSome = true ∧ 0xC0 ≤ n ∧ n ≤ 0x13F ∧ n % 64 < 8 * s.act.sa.toNat)) →
    exec .elect s = .next (s.setAct { s.act with pc := s.act.pc + 4, elect := some none }))

/-- GETC writes the register's value under TRUE, for every listed selector that the mode may access (R37, R38, R184); a handler reads and writes the
registers and labels of the activation it interrupted through XREG and XLAB (R338). The model's own choices here: logs 10 and 36. -/
def Obligations.GetControl : Prop :=
  (∀ s, Spec.MayAccess s s.ir.imm.toNat s.ir.d → Spec.FreeS s s.ir.d →
    ∃ u v, exec .getc s = .next (u.finish s.npc) ∧ Spec.ScalarGets s u s.ir.d v 0 0 ∧
      (∀ p ∈ Spec.controlValues s, s.ir.imm.toNat = p.1 → v = p.2) ∧
      (s.ir.imm.toNat = 4 → s.act.slot < 8 → v.toNat = s.act.sa.toNat + s.act.va.toNat * 2 ^ 4 + s.act.slot * 2 ^ 8) ∧
      (s.ir.imm.toNat = 7 → s.cur < 9216 → v.toNat = s.cur + s.plant.modId.toNat * 2 ^ 16 + s.me.tslot.toNat * 2 ^ 32) ∧
      (s.ir.imm.toNat = 0x1A → (∀ i, i < 64 → i < 16 ∨ 22 ≤ i → v.getLsbD i = s.me.carve.getLsbD i) ∧
        v.toNat / 2 ^ 16 % 64 = if s.me.carveRun = none then (32 - s.me.lsplit.toNat) % 64 else s.me.carve.toNat / 2 ^ 16 % 64) ∧
      (s.ir.imm.toNat = 0x8B → let n := (match s.act.trap with | some t => t.deferred | none => s.act.deferred).length
        n < 32 → v.toNat = n + if s.act.dfr then 32 else 0)) ∧
  (∀ s : State, let n := s.ir.imm.toNat; let r := s.act.sregs[n % 64]'(Nat.mod_lt _ (by decide))
    s.act.trap.isSome = true → 0xC0 ≤ n → n ≤ 0x13F → n % 64 < 8 * s.act.sa.toNat → Spec.Within s (.s s.ir.d.toNat) → Spec.FreeS s s.ir.d →
    ∃ u v, exec .getc s = .next (u.finish s.npc) ∧ Spec.ScalarGets s u s.ir.d v 0 0 ∧ (n ≤ 0xFF → v = r.val) ∧ (0x100 ≤ n → v.toNat = r.lab.toNat)) ∧
  (∀ s : State, s.act.trap.isSome = true → Spec.Within s (.s s.ir.a.toNat) → s.ir.imm.toNat < 8 * s.act.sa.toNat → s.ir.imm.toNat < 64 →
    ∃ u, exec .xregWrite s = .next (u.finish s.npc) ∧ Spec.Inside s u ∧ u.act = { s.act with sregs := u.act.sregs } ∧
      ∀ i : BitVec 6, u.act.sregs[i.toNat]'i.isLt = if i.toNat = s.ir.imm.toNat ∧ i ≠ 0 then { val := (Spec.aReg s).val, lab := 0 } else s.act.sregs[i.toNat]'i.isLt) ∧
  (∀ s : State, s.act.trap.isSome = true → Spec.Within s (.s s.ir.a.toNat) → s.ir.imm.toNat < 8 * s.act.sa.toNat → s.ir.imm.toNat < 64 →
    s.handleOk (Spec.aReg s).val = true →
    ∃ u, exec .xlabWrite s = .next (u.finish s.npc) ∧ Spec.Inside s u ∧ u.act = { s.act with sregs := u.act.sregs } ∧
      ∀ i : BitVec 6, u.act.sregs[i.toNat]'i.isLt = if i.toNat = s.ir.imm.toNat ∧ i ≠ 0
        then { val := (s.act.sregs[i.toNat]'i.isLt).val, lab := (Spec.aReg s).val.setWidth 16 } else s.act.sregs[i.toNat]'i.isLt)

/-- SETC writes the fields that R38 and R40 give each register, and nothing else; a register that is read-only keeps its value (R14, R37, R38, R40,
R184, R205, R227, R228, R245, R356, R359, R408). The model's own choices here: log 10. -/
def Obligations.SetControl : Prop :=
  (∀ s : State, Spec.MayAccess s s.ir.imm.toNat s.ir.a →
    (∀ p ∈ Spec.controlWrites s (Spec.aReg s).val, s.ir.imm.toNat = p.1 → exec .setc s = .next (p.2.finish s.npc)) ∧
    (s.ir.imm.toNat ∈ Spec.readOnlyControls → exec .setc s = .next (s.finish s.npc))) ∧
  (∀ s : State, Spec.Within s (.s s.ir.a.toNat) → (Spec.aReg s).val.toNat % 8 ≠ 5 → (Spec.aReg s).val.toNat % 8 ≠ 7 →
    exec .setcFlags s = .next ((s.setAct { s.act with flags := (Spec.aReg s).val &&& 0x1FF01FF07 }).finish s.npc)) ∧
  (∀ s : State, Spec.Within s (.s s.ir.a.toNat) → exec .setcPix s = .next ((if s.act.sup then s.setAct { s.act with pix := BitVec.ofNat 64 ((Spec.aReg s).val.toNat % 128) } else s).finish s.npc)) ∧
  (∀ s : State, Spec.Within s (.s s.ir.a.toNat) → exec .setcMxwt s = .next ((if s.act.sup then s.setMyCluster { s.myCluster with mxwt := BitVec.ofNat 64 ((Spec.aReg s).val.toNat % 2 ^ 32) } else s).finish s.npc)) ∧
  (∀ s : State, Spec.Within s (.s s.ir.a.toNat) → let v := (Spec.aReg s).val.toNat
    (s.act.sup = false ∨ v / 2 % 4 = 3 → exec .setcVpool s = .next (s.finish s.npc)) ∧
    (s.act.sup = true → v / 2 % 4 ≠ 3 → ∃ u : State, exec .setcVpool s = .next (u.finish s.npc) ∧ u = { s with cores := u.cores, clusters := u.clusters } ∧
      u.me = { s.me with vpool := BitVec.ofNat 3 v, copies := [], victims := u.me.victims } ∧ (∀ c, c ≠ s.cur → u.core c = s.core c) ∧
      ∀ k, u.cluster k = { s.cluster k with clt := (u.cluster k).clt })) ∧
  (∀ s : State, Spec.Within s (.s s.ir.a.toNat) → let v := (Spec.aReg s).val.toNat
    exec .setcOrdcfg s = .next ((if s.act.sup = true ∧ 0 < v % 2 ^ 16 ∧ 0 < v / 2 ^ 16 % 2 ^ 12 ∧ 8 ≤ v / 2 ^ 28 % 32 ∧ v / 2 ^ 28 % 32 ≤ 30 ∧ 0 < v / 2 ^ 40
      then s.setMyCluster { s.myCluster with ordcfg := (Spec.aReg s).val &&& 0xFFFFFF01FFFFFFFF } else s).finish s.npc)) ∧
  (∀ s : State, Spec.Within s (.s s.ir.a.toNat) → let minc := (Spec.aReg s).val.toNat % 64; let maxc := (Spec.aReg s).val.toNat / 256 % 64
    (maxc < minc ∨ 32 < maxc → exec .setcCarve s = .next (s.finish s.npc)) ∧
    (minc ≤ maxc ∧ maxc ≤ 32 → ∃ k : Word, exec .setcCarve s = .next ((s.setMe { s.me with carve := k }).finish s.npc) ∧
      ∀ i, k.getLsbD i = if i < 6 ∨ 8 ≤ i ∧ i < 14 then (Spec.aReg s).val.getLsbD i
        else if i = 32 then s.me.carve.getLsbD 32 && !(Spec.aReg s).val.getLsbD 32 else s.me.carve.getLsbD i)) ∧
  (∀ s : State, Spec.Within s (.s s.ir.a.toNat) → s.act.sup = false →
    exec .setcLsplit s = .next (s.finish s.npc) ∧ exec .setcAccmap s = .next (s.finish s.npc) ∧ exec .setcMsquota s = .next (s.finish s.npc)) ∧
  (∀ s : State, Spec.Within s (.s s.ir.a.toNat) → s.act.sup = true → s.myCluster.mxq = Vector.replicate 8 {} →
    ∃ m : BitVec 16, exec .setcAccmap s = .next ((s.setMe { s.me with accmap := m, accRel := 0 }).finish s.npc) ∧
      ∀ i, i < 16 → m.getLsbD i = ((Spec.aReg s).val.getLsbD i && ((List.range 8).all (fun j => 8 * s.cl + j == s.cur || !(s.core (8 * s.cl + j)).accmap.getLsbD i)))) ∧
  (∀ s : State, Spec.Within s (.s s.ir.a.toNat) → s.act.sup = true → Spec.otherQuotas s + (Spec.aReg s).val.toNat % 2048 ≤ 1024 →
    charge s.me.mustSave ≤ (Spec.aReg s).val.toNat % 2048 → exec .setcMsquota s = .next ((s.setMe { s.me with msquota := (Spec.aReg s).val &&& 0x107FF }).finish s.npc)) ∧
  (∀ s : State, Spec.Within s (.s s.ir.a.toNat) → 1024 < Spec.otherQuotas s + (Spec.aReg s).val.toNat % 2048 ∨
    (Spec.aReg s).val.toNat % 2048 < charge s.me.mustSave → exec .setcMsquota s = .next (s.finish s.npc)) ∧
  (∀ s : State, Spec.Within s (.s s.ir.a.toNat) → 32 < (Spec.aReg s).val.toNat % 64 ∨
    (∃ ch ∈ s.me.chans.toList, ch.touches ((Spec.aReg s).val.toNat % 64 * 8192) = true) → exec .setcLsplit s = .next (s.finish s.npc)) ∧
  (∀ s : State, Spec.Within s (.s s.ir.a.toNat) → s.act.sup = true → (Spec.aReg s).val.toNat % 64 ≤ 32 → s.me.carveRun = none →
    (∀ ch ∈ s.me.chans.toList, ch.touches ((Spec.aReg s).val.toNat % 64 * 8192) = false) →
    ∃ u : State, exec .setcLsplit s = .next (u.finish s.npc) ∧ u.me.lsplit.toNat = (Spec.aReg s).val.toNat % 64) ∧
  (∀ s : State, Spec.Within s (.s s.ir.a.toNat) → ∃ u, exec .xdefrDrop s = .next (u.finish s.npc) ∧ Spec.Inside s u ∧
    ((Spec.aReg s).val.getLsbD 6 = false → u = s) ∧
    ((Spec.aReg s).val.getLsbD 6 = true → s.act.trap = none → u.act = { s.act with deferred := [] }) ∧
    (∀ t, (Spec.aReg s).val.getLsbD 6 = true → s.act.trap = some t → u.act = { s.act with trap := some { t with deferred := [] } }))


/-- LD, of every size, from a granule of the core's own portion: the value, the label, and that nothing else changes; LDFE of a full word likewise,
and of an empty one it parks (R267 to R270). The model's own choices here: logs 35 and 36. -/
def Obligations.ScratchpadLoad : Prop :=
  (∀ (s t : State) (l : Handle) (f : Word),
    let n := (Spec.sizeOf s.ir.md.toNat).1
    let x := Spec.memAddr s n
    let k := Spec.scratchKey s x
    s.ir.md.toNat < 8 → s.ir.md.toNat ≠ 4 → Spec.Named s [.s s.ir.d.toNat, .s s.ir.a.toNat] → Spec.FreeS s s.ir.d → s.labOf (Spec.aReg s).lab ≠ none →
    Spec.Calm s → Spec.Own s x → x.toNat % 16 + n ≤ 16 → Spec.OwnTag s x → Spec.LoadLabel s t k (Spec.aReg s).lab l f →
    ∃ u : State, exec .ld s = .next (u.finish s.npc) ∧ Spec.Access s u ∧ Spec.KeepsMemory s u ∧ Spec.KeepsS s u [s.ir.d] ∧ u.act.vregs = s.act.vregs ∧
      u.act.outs = s.act.outs ∧ u.act.flags = s.act.flags ||| f ∧
      u.act.rd s.ir.d = (if s.ir.d = 0 then { val := 0, lab := 0 } else if Spec.hidden s t l then { val := 0, lab := 0xFFFE }
        else { val := Spec.loaded s.mem k n (Spec.sizeOf s.ir.md.toNat).2, lab := l })) ∧
  (∀ (s t : State) (l : Handle) (f : Word),
    let x := Spec.memAddr s 16
    let k := Spec.scratchKey s x
    s.ir.md.toNat = 4 → s.ir.d.toNat % 2 = 0 → s.ir.d ≠ 0 → Spec.Named s [.s s.ir.d.toNat, .s (s.ir.d.toNat + 1), .s s.ir.a.toNat] →
    Spec.FreeS s s.ir.d → Spec.FreeS s (s.ir.d + 1) → s.labOf (Spec.aReg s).lab ≠ none →
    Spec.Calm s → Spec.Own s x → x.toNat % 16 = 0 → Spec.OwnTag s x → Spec.LoadLabel s t k (Spec.aReg s).lab l f → Spec.hidden s t l = false →
    ∃ u : State, exec .ld s = .next (u.finish s.npc) ∧ Spec.Access s u ∧ Spec.KeepsMemory s u ∧ Spec.KeepsS s u [s.ir.d, s.ir.d + 1] ∧
      u.act.rd s.ir.d = { val := Spec.loaded s.mem k 8 false, lab := l } ∧ u.act.rd (s.ir.d + 1) = { val := Spec.loaded s.mem (k + 8) 8 false, lab := l }) ∧
  (∀ (s t : State) (l : Handle) (f : Word),
    let x := Spec.memAddr s 8
    let k := Spec.scratchKey s x
    Spec.Named s [.s s.ir.d.toNat, .s s.ir.a.toNat] → Spec.AtRest s → s.labOf (Spec.aReg s).lab ≠ none → Spec.Calm s → Spec.Own s x → x.toNat % 8 = 0 →
    Spec.OwnTag s x → s.full false k = true → Spec.LoadLabel s t k (Spec.aReg s).lab l f → Spec.hidden s t l = false →
    ∃ u : State, exec .ldfe s = .next (u.finish s.npc) ∧ Spec.Access s u ∧ Spec.KeepsMemory s u ∧ Spec.KeepsS s u [s.ir.d] ∧
      u.act.rd s.ir.d = (if s.ir.d = 0 then { val := 0, lab := 0 } else { val := Spec.loaded s.mem k 8 false, lab := l })) ∧
  (∀ s : State,
    let x := Spec.memAddr s 8
    Spec.Named s [.s s.ir.d.toNat, .s s.ir.a.toNat] → Spec.AtRest s → s.labOf (Spec.aReg s).lab ≠ none → Spec.Calm s → Spec.Own s x → x.toNat % 8 = 0 →
    s.full false (Spec.scratchKey s x) = false → Spec.Alone s.me →
    ∃ u : State, exec .ldfe s = .next u ∧ Spec.Parks s u (.ldfe x s.ir.d (Spec.aReg s).lab s.ir.sw s.issue) s.npc)

/-- ST, of every size, and STFE store the register's low bytes at the computed address and change no other byte; the granule's tag takes the label;
STFE, FESET and FECLR set the word's full bit as they say (R129, R235, R268 to R270). The model's own choices here: log 35. -/
def Obligations.ScratchpadStore : Prop :=
  (∀ (s : State) (l : Handle) (f : Word),
    let n := (Spec.sizeOf s.ir.md.toNat).1
    let x := Spec.memAddr s n
    let k := Spec.scratchKey s x
    let q := s.ir.md.toNat == 4
    s.ir.md.toNat ≤ 4 → (q = true → s.ir.d.toNat % 2 = 0) →
    Spec.Named s (.s s.ir.d.toNat :: .s s.ir.a.toNat :: if q then [.s (s.ir.d.toNat + 1)] else []) → s.labOf (Spec.aReg s).lab ≠ none →
    Spec.Calm s → Spec.Own s x → x.toNat % 16 + n ≤ 16 → Spec.OwnTag s x → Spec.TagReady s k n l →
    Spec.Labels s ((Spec.dReg s).lab :: (if q then [(s.act.rd (s.ir.d + 1)).lab] else []) ++ [(Spec.aReg s).lab, s.act.clab]) l f →
    ∃ u : State, exec .st s = .next (u.finish s.npc) ∧ Spec.Access s u ∧ Spec.KeepsS s u [] ∧ Spec.KeepsV s u [] ∧ u.act.outs = s.act.outs ∧
      u.act.flags = s.act.flags ||| (f &&& flagLW) ∧ u.fe = s.fe ∧ u.rdTag false (k / 16) = Spec.newTag s k n l ∧
      Spec.Stores s u k (if q then toBytes 8 (Spec.dReg s).val.toNat ++ toBytes 8 (s.act.rd (s.ir.d + 1)).val.toNat else toBytes n (Spec.dReg s).val.toNat)) ∧
  (∀ (s : State) (l : Handle) (f : Word),
    let x := Spec.memAddr s 8
    let k := Spec.scratchKey s x
    Spec.Named s [.s s.ir.d.toNat, .s s.ir.a.toNat] → s.labOf (Spec.aReg s).lab ≠ none → Spec.Calm s → Spec.Own s x → x.toNat % 8 = 0 →
    Spec.OwnTag s x → Spec.TagReady s k 8 l → Spec.Labels s [(Spec.dReg s).lab, (Spec.aReg s).lab, s.act.clab] l f →
    ∃ u : State, exec .stfe s = .next (u.finish s.npc) ∧ Spec.Access s u ∧ Spec.KeepsS s u [] ∧ u.full false k = true ∧
      u.rdTag false (k / 16) = Spec.newTag s k 8 l ∧ Spec.Stores s u k (toBytes 8 (Spec.dReg s).val.toNat)) ∧
  (∀ p ∈ [(Instr.feset, true), (.feclr, false)], ∀ s : State,
    let x := (Spec.aReg s).val
    Spec.Named s [.s s.ir.a.toNat] → s.labOf (Spec.aReg s).lab ≠ none → Spec.Calm s → Spec.Own s x → x.toNat % 8 = 0 →
    ∃ u : State, exec p.1 s = .next (u.finish s.npc) ∧ Spec.Access s u ∧ Spec.KeepsS s u [] ∧ u.mem = s.mem ∧ u.tags = s.tags ∧
      u.full false (Spec.scratchKey s x) = p.2 ∧
      ∀ k, k / 8 ≠ Spec.scratchKey s x / 8 → 2 ^ 39 ≤ k → k < 2 ^ 40 → u.full false k = s.full false k)

/-- An ATOM of the core's own portion: memory gets the new value, the old one stays outstanding for D, and no other byte changes; ACAS2 compares and
swaps 16 bytes. The fences are markers; FENCE.EW raises the floor to the stamps of the engine writes seen; FENCE.SYS waits for posted writes (R262,
R264, R271 to R273). The model's own choices here: logs 9, 35 and 36. -/
def Obligations.AtomicsAndFences : Prop :=
  (∀ p ∈ Spec.atomOps, ∀ (s : State) (ls l : Handle) (f g : Word),
    let x := (Spec.aReg s).val
    let k := Spec.scratchKey s x
    let n := p.2.2
    let old : Word := BitVec.ofNat 64 (ofBytes (Memory.readN s.mem k n))
    let rm := if s.act.flags.toNat % 8 = 6 then 0 else s.act.flags.toNat % 8
    let r := Spec.atomNew p.2.1 rm old (Spec.bReg s).val (Spec.dReg s).val
    Spec.Named s (.s s.ir.d.toNat :: .s s.ir.a.toNat :: Spec.bRegs s) → s.labOf (Spec.aReg s).lab ≠ none → x.toNat % n = 0 → Spec.Room s →
    Spec.FreeS s s.ir.d → Spec.Calm s → Spec.Own s x → Spec.OwnTag s x → Spec.TagReady s k 8 ls →
    Spec.AtomLabels s ((Spec.bReg s).lab :: if p.2.1 = .cas then [(Spec.dReg s).lab] else []) k ls l f g →
    ∃ (u : State) (op : LOp), exec p.1 s = .next (u.finish s.npc) ∧
      u.act.outs = s.act.outs ++ [{ op := op, iss := s.issue, writes := [.s s.ir.d old l], flags := g ||| r.2 }] ∧
      Spec.KeepsS s u [] ∧ u.act.flags = s.act.flags ||| (f &&& flagLW) ∧
      Spec.Stores s u k (toBytes n r.1.toNat)) ∧
  (∀ (s : State) (ls l : Handle) (f g : Word),
    let x := (Spec.aReg s).val
    let k := Spec.scratchKey s x
    let old0 : Word := BitVec.ofNat 64 (ofBytes (Memory.readN s.mem k 8))
    let old1 : Word := BitVec.ofNat 64 (ofBytes (Memory.readN s.mem (k + 8) 8))
    let d1 := s.act.rd (s.ir.d + 1)
    let b1 := s.act.rd (s.ir.b + 1)
    s.ir.d.toNat % 2 = 0 → s.ir.d ≠ 0 → s.ir.b.toNat % 2 = 0 → s.ir.lit = none →
    Spec.Named s [.s s.ir.d.toNat, .s (s.ir.d.toNat + 1), .s s.ir.a.toNat, .s s.ir.b.toNat, .s (s.ir.b.toNat + 1)] →
    s.labOf (Spec.aReg s).lab ≠ none → x.toNat % 16 = 0 → Spec.Room s → Spec.FreeS s s.ir.d → Spec.FreeS s (s.ir.d + 1) → Spec.Calm s → Spec.Own s x →
    Spec.OwnTag s x → Spec.TagReady s k 8 ls →
    Spec.AtomLabels s [(s.act.rd s.ir.b).lab, b1.lab, (Spec.dReg s).lab, d1.lab] k ls l f g →
    ∃ (u : State) (op : LOp), exec .acas2 s = .next (u.finish s.npc) ∧
      u.act.outs = s.act.outs ++ [{ op := op, iss := s.issue, writes := [.s s.ir.d old0 l, .s (s.ir.d + 1) old1 l], flags := g }] ∧
      Spec.KeepsS s u [] ∧
      Spec.Stores s u k (if old0 = (Spec.dReg s).val ∧ old1 = d1.val then toBytes 8 (s.act.rd s.ir.b).val.toNat ++ toBytes 8 b1.val.toNat
        else Memory.readN s.mem k 16)) ∧
  (∀ s : State, Spec.AtRest s →
    exec .fenceE s = .next (s.finish s.npc) ∧ exec .fenceI s = .next (s.finish s.npc) ∧
    (∃ u : State, exec .fenceEw s = .next (u.finish s.npc) ∧ u.act = { s.act with floor := tmax s.act.floor (tmaxO s.act.engStamp s.act.floor) } ∧
      u.mem = s.mem ∧ ∀ c, c ≠ s.cur → u.core c = s.core c) ∧
    (s.act.posted = false → exec .fenceSys s = .next (s.finish s.npc)) ∧
    (s.act.posted = true → Spec.Alone s.me → ∃ u : State, exec .fenceSys s = .next u ∧ Spec.Parks s u (.fence 2) s.npc))

/-- The vector loads and stores of the core's own portion, without labels: active elements only, in element order (R170 to R175). The model's own
choices here: log 35. -/
def Obligations.VectorMemory : Prop :=
  (∀ s : State, Spec.Named s [.v s.ir.d.toNat, .s s.ir.a.toNat] → Spec.FreeV s (s.ir.d.setWidth 4) → Spec.Calm s → s.act.focld.getLsbD 0 = false →
    Spec.Unlabelled s ((Spec.aReg s).lab :: (Spec.vD s).labs) → Spec.OwnElements s Spec.contiguous →
    (∃ u : State, exec .vld s = .next (u.finish s.npc) ∧ Spec.Access s u ∧ Spec.KeepsMemory s u ∧ Spec.KeepsS s u [] ∧ Spec.KeepsV s u [s.ir.d.setWidth 4] ∧
      (∀ i, i < Spec.count s → vElem (u.act.rdV (s.ir.d.setWidth 4)).val (Spec.intWidth s) i = Spec.gathered s Spec.contiguous i) ∧
      (u.act.rdV (s.ir.d.setWidth 4)).labs = [0, 0, 0, 0]) ∧
    (∃ u : State, exec .vst s = .next (u.finish s.npc) ∧ Spec.Access s u ∧ Spec.KeepsS s u [] ∧ Spec.KeepsV s u [] ∧ (∀ g, u.rdTag false g = s.rdTag false g) ∧ u.fe = s.fe ∧
      u.mem = Spec.scattered s Spec.contiguous)) ∧
  (∀ s : State, Spec.Named s [.v s.ir.d.toNat, .s s.ir.a.toNat, .s s.ir.b.toNat] → Spec.FreeV s (s.ir.d.setWidth 4) → Spec.Calm s →
    s.act.focld.getLsbD 0 = false → s.act.pix = 0 → Spec.Unlabelled s ((Spec.aReg s).lab :: (s.act.rd s.ir.b).lab :: (Spec.vD s).labs) →
    Spec.OwnElements s Spec.strided →
    (∃ u : State, exec .vlds s = .next (u.finish s.npc) ∧ Spec.Access s u ∧ Spec.KeepsMemory s u ∧ Spec.KeepsS s u [] ∧ Spec.KeepsV s u [s.ir.d.setWidth 4] ∧
      (∀ i, i < Spec.count s → vElem (u.act.rdV (s.ir.d.setWidth 4)).val (Spec.intWidth s) i = Spec.gathered s Spec.strided i)) ∧
    (∃ u : State, exec .vsts s = .next (u.finish s.npc) ∧ Spec.Access s u ∧ Spec.KeepsS s u [] ∧ Spec.KeepsV s u [] ∧ u.mem = Spec.scattered s Spec.strided)) ∧
  (∀ s : State, Spec.Named s [.v s.ir.d.toNat, .s s.ir.a.toNat, .v s.ir.b.toNat] → Spec.FreeV s (s.ir.d.setWidth 4) → Spec.Calm s → Spec.Room s →
    s.act.focld.getLsbD 0 = false → s.act.pix = 0 → Spec.Unlabelled s ((Spec.aReg s).lab :: (Spec.vB s).labs ++ (Spec.vD s).labs) →
    Spec.OwnElements s Spec.byIndex → (∃ i, i < Spec.count s ∧ Spec.active s i = true) →
    (∃ (u : State) (o : Out) (x : VReg), exec .vgath s = .next (u.finish s.npc) ∧ Spec.KeepsMemory s u ∧ Spec.KeepsS s u [] ∧ Spec.KeepsV s u [] ∧
      u.act.outs = s.act.outs ++ [o] ∧ o.writes = [.v (s.ir.d.setWidth 4) x] ∧ o.flags = 0 ∧
      (∀ i, i < Spec.count s → vElem x.val (Spec.intWidth s) i = Spec.gathered s Spec.byIndex i)) ∧
    (∃ u : State, exec .vscat s = .next (u.finish s.npc) ∧ Spec.Access s u ∧ Spec.KeepsS s u [] ∧ Spec.KeepsV s u [] ∧ u.mem = Spec.scattered s Spec.byIndex))

/-- An idle core takes the ready activation that R302 puts first, at its channel's base priority; a core that runs, is halted or is asked to stop
takes none (R302, R335, R361). -/
def Obligations.TakesTheFirst : Prop :=
  (∀ (s : State) (c : Nat), (s.core c).running = true ∨ (s.core c).halted = true ∨ (s.core c).stopReq = true → s.dispatch c = s) ∧
  (∀ (s : State) (c : Nat), let k := s.core c
    k.running = false → k.halted = false → k.stopReq = false → k.queue = [] → k.ready ≠ [] →
    ∃ a ∈ k.ready, (∀ b ∈ k.ready, Spec.NotAfter a b) ∧
      s.dispatch c = s.setCore c { k with
        ready := k.ready.filter (fun b => b.slot != a.slot), running := true, stalled := false
        act := { a with level := (k.chans[a.chan.toNat]'a.chan.isLt).prio } })

/-- SEND, REPLY, SENDV, SENDX: the message enters its queue with its payload and label, and the activation goes on; CHSET sends its six bits to the
channel (R308, R315 to R317, R321). The model's own choices here: logs 11, 21 and 47. -/
def Obligations.Sending : Prop :=
  (∀ (s : State) (l : Lab) (f : Word), let t := (Spec.dReg s).val
    Spec.Named s (.s s.ir.d.toNat :: .s s.ir.a.toNat :: Spec.bRegs s) → s.labOf (Spec.dReg s).lab ≠ none → (Spec.bReg s).val = 0 →
    Spec.MayReach s t → Spec.QueueRoom s (t.getLsbD 39) → s.act.cancelled = false →
    Spec.FullLabel s (singles [(Spec.dReg s).lab, (Spec.aReg s).lab, (Spec.bReg s).lab, s.act.clab]) l f →
    ∃ u, exec .send s = .next (u.finish s.npc) ∧ Spec.Sent s u (Spec.receiver s t) (t.getLsbD 39) [] l f) ∧
  (∀ s : State, let t := (Spec.dReg s).val
    Spec.Named s (.s s.ir.d.toNat :: .s s.ir.a.toNat :: Spec.bRegs s) → 0 < (Spec.bReg s).val.toNat → (Spec.bReg s).val.toNat ≤ 256 →
    Spec.MayReach s t → Spec.QueueRoom s (t.getLsbD 39) → s.act.cancelled = false → Spec.Calm s →
    Spec.OwnRange s (Spec.aReg s).val (Spec.bReg s).val.toNat →
    Spec.Unlabelled s [(Spec.dReg s).lab, (Spec.aReg s).lab, (Spec.bReg s).lab] →
    ∃ u, exec .send s = .next (u.finish s.npc) ∧ Spec.Sent s u (Spec.receiver s t) (t.getLsbD 39) (Spec.payloadOf s) (some [0]) 0) ∧
  (∀ (s : State) (l : Lab) (f : Word), let t := (Spec.dReg s).val
    Spec.Named s (.s s.ir.d.toNat :: .s s.ir.a.toNat :: Spec.bRegs s) → s.labOf (Spec.dReg s).lab ≠ none → (Spec.bReg s).val = 0 →
    t.toNat % 2 ^ 32 = 0 → t.toNat < 2 ^ 38 → s.act.rcd.smod ≠ s.plant.modId ∨ (s.act.sup = true ∧ 56 * 2 ^ 32 ≤ t.toNat) ∨ s.inSub s.slot s.act.rcd.score.toNat = true →
    Spec.QueueRoom s true → s.act.cancelled = false →
    Spec.FullLabel s (singles [(Spec.dReg s).lab, (Spec.aReg s).lab, (Spec.bReg s).lab, s.act.clab]) l f →
    ∃ u, exec .reply s = .next (u.finish s.npc) ∧
      Spec.Sent s u (s.act.rcd.score.toNat, s.act.rcd.smod.toNat, t.toNat / 2 ^ 32) true [] l f) ∧
  (∀ (s : State) (l : Lab) (f : Word), let t := (Spec.dReg s).val; let k := (Spec.bReg s).val.toNat
    Spec.Named s (.s s.ir.d.toNat :: .v s.ir.a.toNat :: Spec.bRegs s ++ (Spec.sendvRegs s).map (fun r => .v r.toNat)) → s.labOf (Spec.dReg s).lab ≠ none →
    1 ≤ k → k ≤ 4 → s.ir.a.toNat + k ≤ 16 → Spec.MayReach s t → Spec.QueueRoom s (t.getLsbD 39) → s.act.cancelled = false →
    Spec.FullLabel s ([(Spec.dReg s).lab] :: (Spec.sendvRegs s).map (fun r => (s.act.rdV r).labs) ++ singles [(Spec.bReg s).lab, s.act.clab]) l f →
    ∃ u, exec .sendv s = .next (u.finish s.npc) ∧
      Spec.Sent s u (Spec.receiver s t) (t.getLsbD 39) ((Spec.sendvRegs s).flatMap (fun r => toBytes 64 (s.act.rdV r).val.toNat)) l f) ∧
  (∀ (s : State) (l : Lab) (f : Word), let t := (Spec.dReg s).val
    Spec.Named s (.s s.ir.d.toNat :: (Spec.sendxRegs s).map (fun r => .s r.toNat)) → s.labOf (Spec.dReg s).lab ≠ none →
    Spec.MayReach s t → Spec.QueueRoom s (t.getLsbD 39) → s.act.cancelled = false →
    Spec.FullLabel s (singles ((Spec.dReg s).lab :: (Spec.sendxRegs s).map (fun r => (s.act.rd r).lab) ++ [s.act.clab])) l f →
    ∃ u, exec .sendx s = .next (u.finish s.npc) ∧
      Spec.Sent s u (Spec.receiver s t) (t.getLsbD 39) ((Spec.sendxRegs s).flatMap (fun r => toBytes 8 (s.act.rd r).val.toNat)) l f) ∧
  (∀ s : State, let t := (Spec.dReg s).val; let b := (Spec.bReg s).val
    Spec.Named s (.s s.ir.d.toNat :: Spec.bRegs s) → s.labOf (Spec.dReg s).lab ≠ none → Spec.MayReach s t → t.toNat < 2 ^ 38 → b.toNat < 64 →
    (∀ i, i < 3 → (b.getLsbD (2 * i) && b.getLsbD (2 * i + 1)) = false) → (s.act.sup = true ∨ (Spec.receiver s t).2.2 < 56) →
    (s.me.residents.map (fun a => a.chsets)).sum < 8 → s.act.cancelled = false → s.cur < 9216 →
    ∃ (u : State) (m : Msg), exec .chset s = .next (u.finish s.npc) ∧ u.net = s.net ++ [m] ∧ m.core = (Spec.receiver s t).1 ∧
      m.dmod.toNat = (Spec.receiver s t).2.1 ∧ m.chan.toNat = (Spec.receiver s t).2.2 ∧ m.chset = some (BitVec.ofNat 6 b.toNat) ∧
      m.from_ = some (s.cur, s.act.aid) ∧ m.seq = s.me.sendSeq ∧ u = { s with net := u.net, cores := u.cores } ∧
      (∀ c, c ≠ s.cur → u.core c = s.core c) ∧
      u.me = { Spec.counted s.me with
        sendSeq := s.me.sendSeq + 1
        act := { s.act with unanswered := s.act.unanswered + 1, chsets := s.act.chsets + 1 } })

/-- HOSTQ writes the entry and then HEAD, or gives 1 when the queue is full and 2 when there is none; CHBIND and WATCH park until the channel or the
home of the word has answered; UNWATCH frees the watch of its address (R318 to R320, R322 to R324). The model's own choices here: logs 12, 34 and 36. -/
def Obligations.QueuesAndWatches : Prop :=
  (∀ s : State, Spec.Named s (.s s.ir.d.toNat :: .s s.ir.a.toNat :: Spec.bRegs s) → Spec.AtRest s → (Spec.bReg s).val.toNat ≤ 256 →
    s.labOf (Spec.aReg s).lab ≠ none → s.me.hqbase.getLsbD 0 = false →
    ∃ u, exec .hostq s = .next (u.finish s.npc) ∧ Spec.StatusGets s u s.ir.d 2) ∧
  (∀ s : State, let n := (Spec.bReg s).val.toNat; let h := BitVec.ofNat 64 (s.me.hqbase.toNat / 64 * 64); let k := Spec.scratchKey s h
    let base : Word := BitVec.ofNat 64 (ofBytes (Memory.readN s.mem k 8)); let size := 2 ^ ((Memory.read s.mem (k + 8)).toNat % 16)
    let head := ofBytes (Memory.readN s.mem (k + 16) 8); let tail := ofBytes (Memory.readN s.mem (k + 24) 8)
    let x : Word := base + BitVec.ofNat 64 (head % size * 512)
    Spec.Named s (.s s.ir.d.toNat :: .s s.ir.a.toNat :: Spec.bRegs s) → Spec.AtRest s → n ≤ 256 → s.me.hqbase.getLsbD 0 = true → Spec.Calm s →
    Spec.OwnRange s h 32 → (0 < n → Spec.OwnRange s (Spec.aReg s).val n) → Spec.Unlabelled s [(Spec.aReg s).lab, (Spec.bReg s).lab] →
    (size ≤ (head + 2 ^ 64 - tail) % 2 ^ 64 →
      ∃ u, exec .hostq s = .next (u.finish s.npc) ∧ Spec.KeepsMemory s u ∧ Spec.KeepsS s u [s.ir.d] ∧
        u.act.rd s.ir.d = (if s.ir.d = 0 then { val := 0, lab := 0 } else { val := 1, lab := 0 })) ∧
    ((head + 2 ^ 64 - tail) % 2 ^ 64 < size → Spec.OwnRange s x 512 → (Spec.scratchKey s x + 512 ≤ k ∨ k + 32 ≤ Spec.scratchKey s x) →
      ∃ (u : State) (t : Time), exec .hostq s = .next (u.finish s.npc) ∧ Spec.KeepsS s u [s.ir.d] ∧
        u.act.rd s.ir.d = { val := 0, lab := 0 } ∧
        Memory.readN u.mem (Spec.scratchKey s x) 512 = Spec.hostQueueEntry s (if n = 0 then [] else Spec.payloadOf s) t ∧
        ofBytes (Memory.readN u.mem (k + 16) 8) = (head + 1) % 2 ^ 64 ∧
        ∀ a, (a < Spec.scratchKey s x ∨ Spec.scratchKey s x + 512 ≤ a) → (a < k + 16 ∨ k + 24 ≤ a) → Memory.read u.mem a = Memory.read s.mem a)) ∧
  (∀ s : State, let x := (Spec.aReg s).val; let r : Line := BitVec.ofNat 512 (ofBytes (Memory.readN s.mem (Spec.scratchKey s x) 32)); let b := (Spec.bReg s).val
    Spec.Named s (.s s.ir.d.toNat :: .s s.ir.a.toNat :: Spec.bRegs s) → Spec.AtRest s → Spec.Calm s → Spec.OwnRange s x 32 → x.toNat % 32 = 0 →
    Spec.Unlabelled s [(Spec.aReg s).lab, (Spec.bReg s).lab] → b.toNat / 2 ^ 16 < 2 → b.toNat % 2 ^ 16 < 9216 →
    (s.act.sup = true ∨ r.toNat / 2 ^ 64 % 64 < 56 ∧ s.inSub s.slot (b.toNat % 2 ^ 14) = true) → Spec.Alone s.me →
    ∃ t u, exec .chbind s = .next u ∧ Spec.Access s t ∧ Spec.KeepsMemory s t ∧ Spec.Parks t u (.chbind r b s.ir.d) s.npc) ∧
  (∀ s : State, let x := (Spec.aReg s).val
    Spec.Named s (.s s.ir.d.toNat :: .s s.ir.a.toNat :: Spec.bRegs s) → Spec.AtRest s → Spec.Calm s → Spec.Own s x → x.toNat % 8 = 0 →
    s.labOf (Spec.aReg s).lab ≠ none → (Spec.bReg s).val.toNat < 64 → Spec.Alone s.me →
    ∃ u, exec .watch s = .next u ∧ Spec.Parks s u (.watch x (BitVec.ofNat 6 (Spec.bReg s).val.toNat) (Spec.scratchKey s x) s.ir.d) s.npc) ∧
  (∀ s : State, let x := (Spec.aReg s).val
    Spec.Named s [.s s.ir.d.toNat, .s s.ir.a.toNat] → Spec.AtRest s → s.labOf (Spec.aReg s).lab ≠ none →
    ((∀ p ∈ s.me.watches, p.2.1 ≠ x) → ∃ u, exec .unwatch s = .next (u.finish s.npc) ∧ Spec.StatusGets s u s.ir.d 1) ∧
    (∀ i, s.me.watches.find? (fun p => p.2.1 == x) = some i →
      ∃ t u, exec .unwatch s = .next (u.finish s.npc) ∧ t = s.setMe { s.me with watches := s.me.watches.filter (fun p => p.1 != i.1) } ∧
        Spec.StatusGets t u s.ir.d 0))

/-- LAUNCH takes the lowest free launch counter, with the lowest free graph and phase where the record names none, raises them, sends one start
message to every member and gives the counter's identity; and each of its refusals by status. CCREAD gives a counter's count and state; CCWAIT gives 0
for ZERO, 1 for CANCELLED, 2 for free, and else parks; CCANCEL cancels an open counter and every allocated counter counted to it (R304 to R306, R326,
R327, R329). The model's own choices here: logs 34, 36 and 63. -/
def Obligations.LaunchesAndCounters : Prop :=
  (∀ (s : State) (c g p : Nat) (np : Option Nat), let l := launchRec (Spec.launchLine s)
    Spec.CanLaunch s → l.bad = false → Spec.MayStart s l → Spec.NamesOpen s l → Spec.Takes s l c g np p →
    ∃ (u : State) (ms : List Msg), exec .launch s = .next (u.finish s.npc) ∧
      u.act.rd s.ir.d = (if s.ir.d = 0 then { val := 0, lab := 0 } else { val := BitVec.ofNat 64 c, lab := 0 }) ∧ Spec.KeepsS s u [s.ir.d] ∧
      Spec.KeepsMemory s u ∧ u.net = s.net ++ ms ∧ ms.map (fun m => m.core) = l.members ∧
      (∀ m ∈ ms, m.dmod = (if l.rmod then l.module_ else s.plant.modId) ∧ m.launch = s.launches + 1 ∧ m.chan = l.chan ∧ m.payload = l.args.flatMap (fun w => toBytes 8 w.toNat) ∧ m.lab = some [0] ∧
        m.ctr = BitVec.ofNat 16 c ∧ m.start = true ∧ m.carve = l.carve ∧ m.from_ = some (s.cur, s.act.aid) ∧ m.tslot = s.slot) ∧
      u.act.unanswered = s.act.unanswered + l.members.length ∧
      (u.counter s.slot c).count.toNat = l.members.length % 2 ^ 32 ∧ (u.counter s.slot c).state = .open_ ∧ (u.counter s.slot c).parent = g ∧
      (u.counter s.slot c).succ = l.succ ∧ (u.counter s.slot g).state = .open_ ∧
      (u.counter s.slot g).count = (if l.graph = 0 then 1 else (s.counter s.slot g).count + 1) ∧
      (∀ q, np = some q → q = p ∧ (u.counter s.slot q).state = .open_ ∧ (u.counter s.slot q).count = 1 ∧ (u.counter s.slot q).parent = 3 * 2 ^ 14)) ∧
  (∀ s : State, Spec.CanLaunch s → (launchRec (Spec.launchLine s)).bad = true →
    ∃ u, exec .launch s = .next (u.finish s.npc) ∧ Spec.KeepsMemory s u ∧ Spec.KeepsS s u [s.ir.d] ∧ u.jobs = s.jobs ∧ u.net = s.net ∧
      u.act.rd s.ir.d = (if s.ir.d = 0 then { val := 0, lab := 0 } else { val := 0x10002, lab := 0 })) ∧
  (∀ s : State, let l := launchRec (Spec.launchLine s)
    Spec.CanLaunch s → l.bad = false → ¬ Spec.MayStart s l →
    ∃ u, exec .launch s = .next (u.finish s.npc) ∧ Spec.KeepsMemory s u ∧ Spec.KeepsS s u [s.ir.d] ∧ u.jobs = s.jobs ∧ u.net = s.net ∧
      u.act.rd s.ir.d = (if s.ir.d = 0 then { val := 0, lab := 0 } else { val := 0x10003, lab := 0 })) ∧
  (∀ (s : State) (e : Word), let l := launchRec (Spec.launchLine s)
    Spec.CanLaunch s → l.bad = false → Spec.MayStart s l → (¬ Spec.NamesOpen s l ∧ e = 0x10004 ∨ Spec.NamesOpen s l ∧ Spec.Exhausted s l ∧ e = 0x10001) →
    ∃ u, exec .launch s = .next (u.finish s.npc) ∧ Spec.KeepsMemory s u ∧ Spec.KeepsS s u [s.ir.d] ∧
      u.jobs = s.jobs ∧ u.net = s.net ∧ u.act.rd s.ir.d = (if s.ir.d = 0 then { val := 0, lab := 0 } else { val := e, lab := 0 })) ∧
  (∀ s : State, let id := (Spec.aReg s).val.toNat
    let c := Spec.counterNamed s id
    Spec.Named s [.s s.ir.d.toNat, .s s.ir.a.toNat] → Spec.AtRest s → Spec.Identity (Spec.aReg s).val →
    ∃ t u v, exec .ccread s = .next (u.finish s.npc) ∧ t = (if c.state = .free then s else s.atTime (tmax s.act.floor c.time)) ∧
      Spec.StatusGets t u s.ir.d v ∧ v.toNat % 2 ^ 32 = c.count.toNat ∧
      v.toNat / 2 ^ 32 = match c.state with | .free => 0 | .open_ => 1 | .zero => 2 | .cancelled => 3) ∧
  (∀ s : State, let id := (Spec.aReg s).val.toNat; let c := Spec.counterNamed s id
    Spec.Named s [.s s.ir.d.toNat, .s s.ir.a.toNat] → Spec.AtRest s → Spec.Identity (Spec.aReg s).val →
    (c.state ≠ .open_ → ∃ u, exec .ccwait s = .next (u.finish s.npc) ∧ Spec.KeepsMemory s u ∧ Spec.KeepsS s u [s.ir.d] ∧
      u.act.rd s.ir.d = (if s.ir.d = 0 then { val := 0, lab := 0 } else
        { val := match c.state with | .zero => 0 | .cancelled => 1 | _ => 2, lab := s.act.clab })) ∧
    (c.state = .open_ → Spec.Alone s.me → ∃ t u, exec .ccwait s = .next u ∧
      t = (if s.act.waits = none then (s.setCounter s.slot id { c with waiters := c.waiters + 1 }).setAct { s.act with waits := some id } else s) ∧
      Spec.Parks t u (.ccwait id s.ir.d) s.npc)) ∧
  (∀ s : State, let id := (Spec.aReg s).val.toNat
    Spec.Named s [.s s.ir.d.toNat, .s s.ir.a.toNat] → Spec.AtRest s → Spec.Identity (Spec.aReg s).val → (id = 3 * 2 ^ 14 → s.act.sup = true) →
    ((Spec.counterNamed s id).state ≠ .open_ → ∃ u, exec .ccancel s = .next (u.finish s.npc) ∧ Spec.StatusGets s u s.ir.d 1) ∧
    ((Spec.counterNamed s id).state = .open_ → Spec.Alone s.me → s.me.parked = [] → s.act.rcd.ctr = 0 → (∀ i : Fin 64, s.me.chans[i].recs = []) →
      (∀ p ∈ s.cores, p.1 ≠ s.cur → p.2.residents = [] ∧ p.2.queue = [] ∧ ∀ i : Fin 64, p.2.chans[i].recs = []) →
      ∃ u, exec .ccancel s = .next u ∧ u.me.running = false ∧
        u.me.parked = [{ s.act with park := some (.ccancel id s.ir.d), npc := s.npc }] ∧ u.mem = s.mem ∧ u.net = s.net ∧
        ∀ i, (u.counter s.slot i = s.counter s.slot i ∨ u.counter s.slot i = { s.counter s.slot i with state := .cancelled }) ∧
          (i = id ∨ s.below s.slot id i = true → (s.counter s.slot i).state = .open_ ∨ ((s.counter s.slot i).state = .zero ∧ i ≠ 3 * 2 ^ 14) →
            (u.counter s.slot i).state = .cancelled) ∧
          (i ≠ id → s.below s.slot id i = false → u.counter s.slot i = s.counter s.slot i)))

/-- The 14 label instructions on registers: each of LGET, LSET, LENV, LJOIN, LCLR, LHOLD, LSEL, LCOUNT, LENVN, LPROD, LFOCUS, LCPUSH, LCPOP and LSTAT
completes for every state whose operands it accepts and whose labels are TRUE; and, for all labels, what each reads, gives and attaches; LCPUSH keeps
CLAB on the stack and makes it its product with sa's label, LCPOP gives it back (R186 to R191, R196). The model's own choices here: logs 36 and 49. -/
def Obligations.LabelRegisters : Prop :=
  (∀ i ∈ Spec.labelForms, ∀ s : State, s.act.clab = 0 → (Spec.aReg s).lab = 0 → (Spec.bReg s).lab = 0 →
    Spec.Named s (.s s.ir.d.toNat :: .s s.ir.a.toNat :: Spec.bRegs s) → Spec.FreeS s s.ir.d →
    (i = .lset → Spec.Attachable s (Spec.bReg s).val) →
    (i = .lenv → (tintern 4096 s.myCluster.clt s.slot (some [Spec.stripped s (Spec.bReg s).val])).isSome = true) →
    (i = .lcpush → s.act.cstack.length < 8) → (i = .lcpop → s.act.cstack ≠ []) →
    ∃ u : State, exec i s = .next (u.finish s.npc)) ∧
  Spec.UnderControl .lget (fun s => BitVec.ofNat 64 (Spec.aReg s).lab.toNat) ∧ Spec.UnderControl .lclr (fun s => (Spec.aReg s).val) ∧
  Spec.UnderControl .lcount (fun s => BitVec.ofNat 64 ((s.labOf (Spec.aReg s).lab).getD []).length) ∧
  (∀ s l f, Spec.Named s (.s s.ir.d.toNat :: .s s.ir.a.toNat :: Spec.bRegs s) → Spec.FreeS s s.ir.d →
    Spec.SourceLabels s [.h (Spec.bReg s).lab, .h s.act.clab] l f →
    ∃ u, exec .lenvn s = .next (u.finish s.npc) ∧
      Spec.ScalarGets s u s.ir.d (((s.labOf (Spec.aReg s).lab).getD []).getD (Spec.bReg s).val.toNat 0) l f) ∧
  (∀ s : State, Spec.Named s [.s s.ir.d.toNat, .s s.ir.a.toNat] → Spec.FreeS s s.ir.d → ∃ u v, exec .lhold s = .next (u.finish s.npc) ∧
    Spec.ScalarGets s u s.ir.d v s.act.clab (Spec.ps s s.act.clab) ∧
    (Spec.HoldsInFocus s (Spec.aReg s).lab → v = 1) ∧ (¬ Spec.HoldsInFocus s (Spec.aReg s).lab → v = 0)) ∧
  (∀ s l f, Spec.Named s (.s s.ir.d.toNat :: .s s.ir.a.toNat :: Spec.bRegs s) → Spec.FreeS s s.ir.d →
    (Spec.HoldsInFocus s (Spec.aReg s).lab → Spec.SourceLabels s [.h (Spec.aReg s).lab, .h s.act.clab] l f →
      ∃ u, exec .lsel s = .next (u.finish s.npc) ∧ Spec.ScalarGets s u s.ir.d (Spec.aReg s).val l f) ∧
    (¬ Spec.HoldsInFocus s (Spec.aReg s).lab → Spec.SourceLabels s [.h (Spec.bReg s).lab, .h s.act.clab] l f →
      ∃ u, exec .lsel s = .next (u.finish s.npc) ∧ Spec.ScalarGets s u s.ir.d (Spec.bReg s).val l f)) ∧
  (∀ s l f, Spec.Named s (.s s.ir.d.toNat :: .s s.ir.a.toNat :: Spec.bRegs s) → Spec.FreeS s s.ir.d →
    Spec.Labels s [(Spec.aReg s).lab, (Spec.bReg s).lab, s.act.clab] l f →
    ∃ u, exec .lprod s = .next (u.finish s.npc) ∧ Spec.ScalarGets s u s.ir.d (Spec.aReg s).val l f) ∧
  (∀ s l f, let b := Spec.bReg s
    Spec.Named s (.s s.ir.d.toNat :: .s s.ir.a.toNat :: Spec.bRegs s) → Spec.FreeS s s.ir.d →
    Spec.Attachable s b.val →
    Spec.Labels s [BitVec.ofNat 16 b.val.toNat, b.lab, s.act.clab] l f →
    ∃ u, exec .lset s = .next (u.finish s.npc) ∧ Spec.ScalarGets s u s.ir.d (Spec.aReg s).val l
      (if s.labOf b.lab = none ∨ s.labOf s.act.clab = none then f else f &&& 0xFFFFFFFFFFFEFFFF)) ∧
  (∀ s g l f, Spec.Named s (.s s.ir.d.toNat :: .s s.ir.a.toNat :: Spec.bRegs s) → Spec.FreeS s s.ir.d →
    (Spec.Inconsistent s (Spec.bReg s).val → g = some []) → (¬ Spec.Inconsistent s (Spec.bReg s).val → g = some [Spec.stripped s (Spec.bReg s).val]) →
    Spec.SourceLabels s [.h (Spec.aReg s).lab, .l g, .h (Spec.bReg s).lab, .h s.act.clab] l f →
    ∃ u, exec .lenv s = .next (u.finish s.npc) ∧ Spec.ScalarGets s u s.ir.d (Spec.aReg s).val l f) ∧
  (∀ s l f, let a := Spec.aReg s; let b := Spec.bReg s
    Spec.Named s (.s s.ir.d.toNat :: .s s.ir.a.toNat :: Spec.bRegs s) → Spec.FreeS s s.ir.d →
    (a.val ≠ b.val → Spec.SourceLabels s [.h a.lab, .h s.act.clab] l f →
      ∃ u, exec .ljoin s = .next (u.finish s.npc) ∧ Spec.ScalarGets s u s.ir.d a.val l (f ||| 1 <<< 15)) ∧
    (a.val = b.val → a.lab = b.lab → Spec.SourceLabels s [.h a.lab, .h s.act.clab] l f →
      ∃ u, exec .ljoin s = .next (u.finish s.npc) ∧ Spec.ScalarGets s u s.ir.d a.val l f) ∧
    (∀ x w, a.val = b.val → a.lab ≠ b.lab → lunion s.lab s.me.lpol (s.labOf a.lab) (s.labOf b.lab) = some (x, w) →
      Spec.SourceLabels s [.l x, .h s.act.clab] l f →
      ∃ u, exec .ljoin s = .next (u.finish s.npc) ∧ Spec.ScalarGets s u s.ir.d a.val l (f ||| if w then 1 <<< 14 else 0))) ∧
  (∀ s : State, Spec.Named s [.s s.ir.d.toNat, .s s.ir.a.toNat] → Spec.FreeS s s.ir.d → ∃ t u v, exec .lfocus s = .next (u.finish s.npc) ∧
    Spec.ScalarGets s t s.ir.d v s.act.clab (Spec.ps s s.act.clab) ∧ u = t.setAct { t.act with focus := (Spec.aReg s).val } ∧
    (Spec.Inconsistent s (Spec.aReg s).val → v = 0) ∧ (¬ Spec.Inconsistent s (Spec.aReg s).val → v = 1)) ∧
  Spec.UnderControl .lstat (fun s =>
    if (Spec.aReg s).val = 0 then BitVec.ofNat 64 (4096 - tused s.myCluster.clt)
    else if (Spec.aReg s).val = 1 then BitVec.ofNat 64 s.lab.nogoods.length
    else if (Spec.aReg s).val = 2 then s.lab.live else if (Spec.aReg s).val = 3 then s.lab.premise
    else if (Spec.aReg s).val = 4 then s.lab.retired else if (Spec.aReg s).val = 5 then BitVec.ofNat 64 s.act.cstack.length
    else if (Spec.aReg s).val = 6 then BitVec.ofNat 64 (65534 - tused (s.dtab (dieOf (s.cur / 8)))) else BitVec.allOnes 64) ∧
  (∀ s l f, Spec.Within s (.s s.ir.a.toNat) → s.labOf (Spec.aReg s).lab ≠ none → s.act.cstack.length < 8 →
    Spec.Labels s [s.act.clab, (Spec.aReg s).lab] l f →
    ∃ u, exec .lcpush s = .next (u.finish s.npc) ∧ Spec.Inside s u ∧
      u.act = { s.act with clab := l, cstack := s.act.clab :: s.act.cstack, flags := s.act.flags ||| (f &&& flagLW) }) ∧
  (∀ s l ls, s.act.cstack = l :: ls →
    ∃ u, exec .lcpop s = .next (u.finish s.npc) ∧ Spec.Inside s u ∧ u.act = { s.act with clab := l, cstack := ls })

/-- ASSUME, RETIRE, COMMIT and LSCRUB: the status that R192 gives, and on 0 the state that R117 and R135 give; NOGOOD enters its condition as nogoods,
all or nothing, with the status of R193; LWAIT gives the outcome of a decided label and parks on another (R117, R132, R135, R192, R193, R195). The
model's own choices here: logs 12 and 36. -/
def Obligations.AssumptionsAndNogoods : Prop :=
  (∀ i ∈ [Instr.assume, .retire, .commit, .lscrub], ∀ s : State, Spec.Named s [.s s.ir.d.toNat, .s s.ir.a.toNat] → Spec.AtRest s →
    s.labOf (Spec.aReg s).lab ≠ none → s.labOf s.act.clab ≠ none →
    (63 < (Spec.aReg s).val.toNat → ∃ u, exec i s = .next (u.finish s.npc) ∧ Spec.StatusGets s u s.ir.d 2) ∧
    ((Spec.aReg s).val.toNat < 64 → s.labOf (Spec.aReg s).lab ≠ some [0] ∨ s.labOf s.act.clab ≠ some [0] →
      ∃ u, exec i s = .next (u.finish s.npc) ∧ Spec.StatusGets s u s.ir.d 5)) ∧
  (∀ s : State, Spec.MayChange s → let v := (Spec.aReg s).val; let j := Spec.jl s; let b := Spec.assumption v
    (∃ u st, exec .assume s = .next u ∧ (st = 0 ∨ st = 1) ∧
      Spec.Broadcasts s u .assume [b] st (if st = 0 then { j with live := j.live ||| b } else j) ∧
      (st = 0 ↔ Spec.bitIn j.live v = false ∧ Spec.bitIn j.premise v = false ∧ Spec.bitIn j.retired v = false ∧
        ∀ o ∈ s.labOps, o.tslot = s.slot → o.kind = .lscrub → o.status = 0 → o.envs ≠ [b])) ∧
    (∃ u st, exec .retire s = .next u ∧ (st = 0 ∨ st = 1) ∧
      Spec.Broadcasts s u .retire [b] st (if st = 0 then { j with live := j.live &&& ~~~ b, retired := j.retired ||| b } else j) ∧
      (st = 0 ↔ Spec.bitIn j.live v = true)) ∧
    (∃ u st k, exec .commit s = .next u ∧ Spec.Broadcasts s u .commit [b] st k ∧
      (Spec.bitIn j.live v = false → st = 1 ∧ k = j) ∧
      (Spec.bitIn j.live v = true → (∃ g ∈ j.nogoods, g.2 = b) → st = 3 ∧ k = j) ∧
      (Spec.bitIn j.live v = true → (∀ g ∈ j.nogoods, g.2 ≠ b) → st = 0 ∧ k.live = j.live &&& ~~~ b ∧ k.premise = j.premise ||| b ∧
        k.retired = j.retired ∧ (∀ g ∈ k.nogoods, ∃ h ∈ j.nogoods, g = (h.1, h.2 &&& ~~~ b)) ∧
        ∀ h ∈ j.nogoods, ∃ g ∈ k.nogoods, Spec.Subset g.2 (h.2 &&& ~~~ b))) ∧
    (∃ u st k, exec .lscrub s = .next u ∧ Spec.Broadcasts s u .lscrub [b] st k ∧
      (Spec.bitIn j.premise v = false ∧ Spec.bitIn j.retired v = false → st = 1 ∧ k = j) ∧
      (Spec.bitIn j.premise v = true ∨ Spec.bitIn j.retired v = true → st = 0 ∧ k.live = j.live ∧ k.premise = j.premise &&& ~~~ b ∧
        k.retired = j.retired &&& ~~~ b ∧ ∀ g, g ∈ k.nogoods ↔ g ∈ j.nogoods ∧ Spec.bitIn g.2 v = false))) ∧
  (∀ (s : State) (c : Lab) (f : Word), let es := (c.getD []).map (fun e => (Spec.aReg s).val ||| e); let j := Spec.jl s
    Spec.Named s [.s s.ir.d.toNat, .s s.ir.a.toNat] → Spec.AtRest s → Spec.Alone s.me → s.labOf (Spec.aReg s).lab ≠ none → s.labOf s.act.clab ≠ none →
    Spec.FullLabel s (singles [(Spec.aReg s).lab, s.act.clab]) c f →
    let T := fun (t : State) => Spec.Inside s t ∧ t.act = { s.act with flags := s.act.flags ||| f }
    (c = some [] → ∃ t u, exec .nogood s = .next (u.finish s.npc) ∧ T t ∧ Spec.StatusGets t u s.ir.d 7) ∧
    (c ≠ some [] → (∃ e ∈ es, strip j e = 0) → ∃ t u, exec .nogood s = .next u ∧ T t ∧ Spec.Broadcasts t u .nogood es 4 j) ∧
    (c ≠ some [] → (∀ e ∈ es, strip j e ≠ 0) → (∀ e ∈ es, Spec.Struck j (strip j e)) →
      ∃ t u, exec .nogood s = .next u ∧ T t ∧ Spec.Broadcasts t u .nogood es 6 j) ∧
    ((∀ e ∈ es, strip j e ≠ 0) → (∃ e ∈ es, ¬ Spec.Struck j (strip j e)) → j.nogoods.length + es.length ≤ 256 →
      ∃ t u k, exec .nogood s = .next u ∧ T t ∧ Spec.Broadcasts t u .nogood es 0 k ∧ k.live = j.live ∧ k.premise = j.premise ∧
        k.retired = j.retired ∧ (∀ e ∈ es, Spec.Struck k (strip j e)) ∧ ∀ e, Spec.Struck j e → Spec.Struck k e)) ∧
  (∀ (s : State) (l : Handle) (f v : Word), Spec.Named s (.s s.ir.d.toNat :: .s s.ir.a.toNat :: Spec.bRegs s) → Spec.AtRest s → Spec.FreeS s s.ir.d →
    Spec.Settled s (s.cur / 8) s.slot (Spec.aReg s).lab → (s.labOf (Spec.aReg s).lab = some [0] ∧ v = 0 ∨ s.labOf (Spec.aReg s).lab = some [] ∧ v = 1 ∨ s.labOf (Spec.aReg s).lab = none ∧ v = 2) →
    Spec.SourceLabels s [.h (Spec.bReg s).lab, .h s.act.clab] l f →
    let t := s.setAct { s.act with floor := Spec.later s.act.floor (Spec.outcomeTime s s.slot (Spec.aReg s).lab) }
    ∃ u, exec .lwait s = .next (u.finish s.npc) ∧ Spec.ScalarGets t u s.ir.d v l f) ∧
  (∀ (s : State) (l : Handle) (f : Word),
    Spec.Named s (.s s.ir.d.toNat :: .s s.ir.a.toNat :: Spec.bRegs s) → Spec.AtRest s → Spec.Alone s.me → Spec.Undecided s → Spec.Labels s [(Spec.bReg s).lab, s.act.clab] l f →
    ∃ t u, exec .lwait s = .next u ∧ Spec.Inside s t ∧ t.act = { s.act with flags := s.act.flags ||| (f &&& flagLW) } ∧
      Spec.Parks t u (.lwait (Spec.aReg s).lab l s.clock (Spec.bReg s).val s.ir.d) s.npc)


/-- VFCVTN to narrow puts the 32 codes at their places, with the draws of stochastic rounding in element order; VFCVTN from narrow gives 32 binary32
numbers in two registers; inactive elements keep what they had. TIDW makes the 64 bytes at sb the record of the identifier and parks until every
cluster has dropped its copy; TIDR stores the record and parks (R97, R197, R199 to R202). The model's own choices here: logs 13 and 48. -/
def Obligations.NarrowConversionsAndRecords : Prop :=
  (∀ s : State, let r := Spec.cvtRecord s; let d := s.act.rdV (s.ir.d.setWidth 4)
    Spec.Named s [.v s.ir.d.toNat, .v s.ir.a.toNat, .v (s.ir.a.toNat + 1), .s s.ir.b.toNat] → Spec.FreeV s (s.ir.d.setWidth 4) →
    Spec.Convertible s true → Spec.PlainCvt s [s.act.rdV (s.ir.a.setWidth 4), s.act.rdV (s.ir.a.setWidth 4 + 1), d] →
    ∃ u : State, exec .vfcvtnN s = .next (u.finish s.npc) ∧ u = { s with cores := u.cores, clusters := u.clusters } ∧
      (∀ c, c ≠ s.cur → u.core c = s.core c) ∧ u.me = { s.me with act := u.act, rngst := Spec.drawn s.me.rngst (Spec.drawsTo s 31) } ∧
      u.act = { s.act with vregs := u.act.vregs, flags := s.act.flags ||| Spec.flagsOf s (Spec.narrowed s) } ∧
      Spec.KeepsV s u [s.ir.d.setWidth 4] ∧ (u.act.rdV (s.ir.d.setWidth 4)).labs = [0, 0, 0, 0] ∧
      ∀ i, i < 32 → (∀ j, j < 32 → Spec.active s j = true → (Spec.narrowed s j).1 < 2 ^ (codeAt r j).2) →
        (u.act.rdV (s.ir.d.setWidth 4)).val.toNat / 2 ^ (codeAt r i).1 % 2 ^ (codeAt r i).2 =
          if Spec.active s i then (Spec.narrowed s i).1 else d.val.toNat / 2 ^ (codeAt r i).1 % 2 ^ (codeAt r i).2) ∧
  (∀ s : State, let d0 := s.ir.d.setWidth 4; let d1 : BitVec 4 := s.ir.d.setWidth 4 + 1
    Spec.Named s [.v s.ir.d.toNat, .v (s.ir.d.toNat + 1), .v s.ir.a.toNat, .s s.ir.b.toNat] →
    Spec.FreeV s d0 → Spec.FreeV s d1 → Spec.Convertible s false →
    Spec.PlainCvt s [s.act.rdV (s.ir.a.setWidth 4), s.act.rdV d0, s.act.rdV d1] →
    ∃ u : State, exec .vfcvtnF s = .next (u.finish s.npc) ∧ Spec.Inside s u ∧
      u.act = { s.act with vregs := u.act.vregs, flags := s.act.flags ||| Spec.flagsOf s (Spec.widened s) } ∧ Spec.KeepsV s u [d0, d1] ∧
      (u.act.rdV d0).labs = [0, 0, 0, 0] ∧ (u.act.rdV d1).labs = [0, 0, 0, 0] ∧
      ∀ i, i < 32 → vElem (u.act.rdV (if i < 16 then d0 else d1)).val 32 (i % 16) =
        if Spec.active s i then (Spec.widened s i).1 % 2 ^ 32 else vElem (s.act.rdV (if i < 16 then d0 else d1)).val 32 (i % 16)) ∧
  (∀ s : State, let a := s.act.rd s.ir.a; let b := s.act.rd s.ir.b
    let r : Line := BitVec.ofNat 512 (ofBytes (Memory.readN s.mem (Spec.scratchKey s b.val) 64))
    Spec.Named s [.s s.ir.a.toNat, .s s.ir.b.toNat] → Spec.AtRest s → Spec.Alone s.me → a.val.toNat < 1024 → Spec.Calm s → Spec.OwnRange s b.val 64 →
    Spec.Unlabelled s [a.lab, b.lab] → tMalformed r = false →
    ∃ t u : State, exec .tidw s = .next u ∧ Spec.Parks t u (.tidw a.val.toNat) s.npc ∧ Spec.KeepsMemory s t ∧ Spec.KeepsS s t [] ∧
      (∀ n, t.tidOf s.slot n = if n = a.val.toNat then r else s.tidOf s.slot n) ∧ ∀ j, j ≠ s.slot → t.job j = s.job j) ∧
  (∀ s : State, let a := s.act.rd s.ir.a; let b := s.act.rd s.ir.b
    Spec.Named s [.s s.ir.a.toNat, .s s.ir.b.toNat] → Spec.AtRest s → Spec.Alone s.me → a.val.toNat < 1024 → Spec.Calm s → Spec.OwnRange s b.val 64 →
    Spec.Unlabelled s [a.lab, b.lab] →
    ∃ t u : State, exec .tidr s = .next u ∧ Spec.Parks t u (.tidw a.val.toNat) s.npc ∧ Spec.Access s t ∧ Spec.KeepsS s t [] ∧
      Spec.Stores s t (Spec.scratchKey s b.val) (toBytes 64 (s.tidOf s.slot a.val.toNat).toNat))

/-- TOPEN opens the lowest free entry over the box at sb, or begins an acquisition with it, or gives 1, 3 or 4; TACQ begins an acquisition of a free
or a stale handle, or gives 1 or 2 (R251, R277, R278). The model's own choices here: logs 14 and 36. -/
def Obligations.TileOpening : Prop :=
  (∀ (s : State) (l : Handle) (f : Word), let a := s.act.rd s.ir.a; let b := s.act.rd s.ir.b; let c := s.act.rd s.ir.c
    let r := s.tidOf s.slot a.val.toNat; let box : BitVec 256 := BitVec.ofNat 256 (ofBytes (Memory.readN s.mem (Spec.scratchKey s b.val) 32))
    Spec.TileReady s [s.ir.d, s.ir.a, s.ir.b, s.ir.c] → Spec.Labels s [a.lab, b.lab, c.lab, s.act.clab] l f →
    (1023 < a.val.toNat ∨ r = 0 ∨ 7 ≤ tFmt r ∧ tFmt r ≤ 12 → ∃ u, exec .topen s = .next (u.finish s.npc) ∧ Spec.Gives s u 4 l f ∧ u.handles = s.handles) ∧
    (a.val.toNat < 1024 → r ≠ 0 → tIsMx r = false → Spec.Calm s → Spec.OwnRange s b.val 32 → (∀ k, 2 ^ 39 ≤ k → k < 2 ^ 40 → s.rdTag false (k / 16) = 0) →
      (2 < c.val.toNat ∨ boxMalformed r box = true → ∃ u, exec .topen s = .next (u.finish s.npc) ∧ Spec.KeepsMemory s u ∧ u.handles = s.handles ∧
        Spec.KeepsS s u [s.ir.d] ∧ u.act.rd s.ir.d = (if s.ir.d = 0 then { val := 0, lab := 0 } else { val := 3, lab := l })) ∧
      (c.val.toNat ≤ 2 → boxMalformed r box = false →
        (Spec.AllOpen s → ∃ u, exec .topen s = .next (u.finish s.npc) ∧ Spec.KeepsMemory s u ∧ u.handles = s.handles ∧ Spec.KeepsS s u [s.ir.d] ∧
          u.act.rd s.ir.d = (if s.ir.d = 0 then { val := 0, lab := 0 } else { val := 1, lab := l })) ∧
        (∀ i, Spec.LowestClosed s i → c.val = 0 → ∃ u, exec .topen s = .next (u.finish s.npc) ∧ Spec.KeepsMemory s u ∧ Spec.KeepsS s u [s.ir.d] ∧
          u.act.rd s.ir.d = (if s.ir.d = 0 then { val := 0, lab := 0 } else { val := Spec.valueOf i (s.thandle i), lab := l }) ∧
          u.thandle i = { open_ := true, gen := (s.thandle i).gen, tslot := s.slot, tid := BitVec.ofNat 10 a.val.toNat, box := box, rcd := r } ∧
          ∀ j, j ≠ i → u.thandle j = s.thandle j) ∧
        (∀ i bs, Spec.LowestClosed s i → c.val ≠ 0 → Spec.Alone s.me →
          let e : THandle := { open_ := true, gen := (s.thandle i).gen, tslot := s.slot, tid := BitVec.ofNat 10 a.val.toNat, box := box, rcd := r }
          (s.setThandle i e).tblocks s.cur s.act.sup c.val.toNat e = .ok bs →
          ∃ u, exec .topen s = .next u ∧ Spec.Acquires s u i c.val.toNat l 1 f ∧ (u.thandle i).blocks = bs ∧ (u.thandle i).box = box)))) ∧
  (∀ p ∈ [(Instr.tacqRd, 1), (.tacqWr, 2)], ∀ (s : State) (i : Nat) (e : THandle) (l : Handle) (f : Word), let a := s.act.rd s.ir.a
    Spec.TileReady s [s.ir.d, s.ir.a] → Spec.Opened s a.val i e → Spec.Labels s [a.lab, s.act.clab] l f →
    (e.wait = true ∨ (e.kind ≠ 0 ∧ e.holder ≠ s.cur / 8) → ∃ u, exec p.1 s = .next (u.finish s.npc) ∧ Spec.Gives s u 2 l f ∧ u.handles = s.handles) ∧
    (e.wait = false → e.kind ≠ 0 → e.holder = s.cur / 8 → e.stale = false →
      ∃ u, exec p.1 s = .next (u.finish s.npc) ∧ Spec.Gives s u 1 l f ∧ u.handles = s.handles) ∧
    (e.wait = false → e.kind ≠ 0 → e.holder = s.cur / 8 → e.stale = true → Spec.Alone s.me →
      ∃ u, exec p.1 s = .next u ∧ Spec.AcquiresAfresh s u i e p.2 e.ask l 0 f) ∧
    (∀ bs, e.wait = false → e.kind = 0 → Spec.Alone s.me → s.tblocks s.cur s.act.sup p.2 e = .ok bs →
      ∃ u, exec p.1 s = .next u ∧ Spec.Acquires s u i p.2 l 0 f ∧ (u.thandle i).blocks = bs))

/-- TREL, TCLOSE and TGIVE park until the holder's work under the handle has settled; TCLOSE of a handle without tenure frees the entry at once; TGIVE
to the own cluster changes nothing; TSPLIT divides a box under write tenure at a cell's edge into two handles; TRENEW gives G of a write tenure and
moves E of a read tenure on, with the lease of every line, or has a stale one granted afresh; TSTAT gives the state of a handle, and 0x10 of a stale
one (R251, R254, R257, R258, R279, R280). The model's own choices here: logs 14, 16 and 36. -/
def Obligations.TileReleasing : Prop :=
  (∀ (s : State) (i : Nat) (e : THandle), Spec.Opened s (s.act.rd s.ir.a).val i e → Spec.Named s [.s s.ir.a.toNat] → Spec.AtRest s →
    s.labOf (s.act.rd s.ir.a).lab ≠ none →
    (e.kind ≠ 0 → e.holder = s.cur / 8 → Spec.Alone s.me → ∃ u, exec .trel s = .next u ∧ Spec.Parks s u (.trel i e.gen 0) s.npc) ∧
    (e.wait = false → e.kind ≠ 0 → Spec.Alone s.me → ∃ u, exec .tclose s = .next u ∧ Spec.Parks s u (.trel i e.gen 1) s.npc) ∧
    (e.wait = false → e.kind = 0 → ∃ u : State, exec .tclose s = .next (u.finish s.npc) ∧ u.act = s.act ∧ u.mem = s.mem ∧
      (u.thandle i).open_ = false ∧ (u.thandle i).gen.toNat = (if e.gen.toNat = 2 ^ 24 - 1 then 1 else e.gen.toNat + 1) ∧
      ∀ j, j ≠ i → u.thandle j = s.thandle j)) ∧
  (∀ (s : State) (i : Nat) (e : THandle), let b := (s.act.rd s.ir.b).val
    Spec.Opened s (s.act.rd s.ir.a).val i e → Spec.Named s [.s s.ir.a.toNat, .s s.ir.b.toNat] → Spec.AtRest s → s.labOf (s.act.rd s.ir.a).lab ≠ none →
    s.labOf (s.act.rd s.ir.b).lab ≠ none → e.kind ≠ 0 → e.holder = s.cur / 8 → e.wait = false → b.toNat < 1152 → s.inSub s.slot (8 * b.toNat) = true →
    (b.toNat = s.cur / 8 → exec .tgive s = .next (s.finish s.npc)) ∧
    (b.toNat ≠ s.cur / 8 → Spec.Alone s.me → ∃ u, exec .tgive s = .next u ∧ Spec.Parks s u (.trel i e.gen (2 + b.toNat)) s.npc)) ∧
  (∀ (s : State) (i : Nat) (e : THandle) (l : Handle) (f : Word), let a := s.act.rd s.ir.a; let b := s.act.rd s.ir.b; let dim := s.ir.md.toNat % 4
    let cut := bOrg e.box dim + b.val.toNat; let n : Int := 2 ^ tBlk e.rcd dim
    Spec.TileReady s [s.ir.d, s.ir.a, s.ir.b] → Spec.Opened s a.val i e → e.kind = 2 → e.holder = s.cur / 8 → Spec.Labels s [a.lab, b.lab, s.act.clab] l f →
    (tExt e.rcd dim = 0 ∨ b.val = 0 ∨ bExt e.box dim ≤ b.val.toNat →
      ∃ u, exec .tsplit s = .next (u.finish s.npc) ∧ Spec.Gives s u 3 l f ∧ u.handles = s.handles) ∧
    (tExt e.rcd dim ≠ 0 → b.val ≠ 0 → b.val.toNat < bExt e.box dim → cut.emod n ≠ 0 ∨ tCirc e.rcd dim = true →
      ∃ u, exec .tsplit s = .next (u.finish s.npc) ∧ Spec.Gives s u 2 l f ∧ u.handles = s.handles) ∧
    (tExt e.rcd dim ≠ 0 → b.val ≠ 0 → b.val.toNat < bExt e.box dim → cut.emod n = 0 → tCirc e.rcd dim = false → Spec.AllOpen s →
      ∃ u, exec .tsplit s = .next (u.finish s.npc) ∧ Spec.Gives s u 1 l f ∧ u.handles = s.handles) ∧
    (∀ j, tExt e.rcd dim ≠ 0 → b.val ≠ 0 → b.val.toNat < bExt e.box dim → cut.emod n = 0 → tCirc e.rcd dim = false → Spec.LowestClosed s j →
      ∃ u, exec .tsplit s = .next (u.finish s.npc) ∧ Spec.Gives s u (Spec.valueOf j (s.thandle j)) l f ∧
        (∀ x ∈ (u.thandle i).blocks, x ∈ e.blocks ∧ (x.cell.getD dim 0 : Int) < cut.fdiv n) ∧
        (∀ x ∈ (u.thandle j).blocks, x ∈ e.blocks ∧ cut.fdiv n ≤ (x.cell.getD dim 0 : Int)) ∧
        (∀ x ∈ e.blocks, x ∈ (u.thandle i).blocks ∨ x ∈ (u.thandle j).blocks) ∧
        (u.thandle i).gen = e.gen ∧ (u.thandle j).gen = (s.thandle j).gen ∧
        (∀ h ∈ [u.thandle i, u.thandle j], h.open_ = true ∧ h.kind = 2 ∧ h.holder = e.holder ∧ h.rcd = e.rcd ∧ h.stamp = e.stamp) ∧
        ∀ k, k ≠ i → k ≠ j → u.thandle k = s.thandle k)) ∧
  (∀ (s : State) (i : Nat) (e : THandle) (l : Handle) (f : Word), let a := s.act.rd s.ir.a; let b := s.act.rd s.ir.b
    let n : Time := if b.val = 0 then BitVec.ofNat 48 (2 ^ (s.myCluster.ordcfg.toNat / 2 ^ 28 % 32)) else BitVec.ofNat 48 (Min.min b.val.toNat (2 ^ 30))
    Spec.TileReady s [s.ir.d, s.ir.a, s.ir.b] → Spec.Opened s a.val i e → e.holder = s.cur / 8 → Spec.Labels s [a.lab, b.lab, s.act.clab] l f →
    (e.kind = 2 → ∃ u, exec .trenew s = .next (u.finish s.npc) ∧ Spec.Gives s u (BitVec.ofNat 64 e.stamp.toNat) l f ∧ u.handles = s.handles) ∧
    (e.kind = 1 → e.stale = true → e.wait = false → Spec.Alone s.me →
      ∃ u, exec .trenew s = .next u ∧ Spec.AcquiresAfresh s u i e 1 n l 2 f) ∧
    (e.kind = 1 → e.stale = false →
      let x := tmax e.stamp (s.act.floor + n)
      ∃ u, exec .trenew s = .next (u.finish s.npc) ∧ Spec.Gives s u (BitVec.ofNat 64 x.toNat) l f ∧ (u.thandle i) = { e with stamp := x } ∧
        (∀ k, k ≠ i → u.thandle k = s.thandle k) ∧ (∀ k, (u.stamp k).wts = (s.stamp k).wts) ∧
        (∀ bl ∈ e.blocks, ∀ y ∈ bl.lines, (u.stamp y).rts = tmax (s.stamp y).rts x) ∧
        ∀ y, (∀ bl ∈ e.blocks, y ∉ bl.lines) → u.stamp y = s.stamp y)) ∧
  (∀ (s : State) (l : Handle) (f : Word), let a := s.act.rd s.ir.a
    Spec.TileReady s [s.ir.d, s.ir.a] → Spec.Labels s [a.lab, s.act.clab] l f →
    ∃ u v, exec .tstat s = .next (u.finish s.npc) ∧ Spec.Gives s u v l f ∧ u.handles = s.handles ∧
      ((∀ i e, ¬ Spec.Opened s a.val i e) → v = 0x10) ∧
      (∀ i e, Spec.Opened s a.val i e → v = BitVec.ofNat 64 (e.kind + (if e.kind ≠ 0 ∧ e.holder = s.cur / 8 then 4 else 0) +
        (if e.stale then 8 else 0) + (if e.wait then 32 else 0) + e.tid.toNat * 64 + (if e.kind ≠ 0 ∨ e.wait = true then e.holder else 0) * 2 ^ 16)))

/-- VLDT and VSTT move the active elements inside the box between the vector and the places of the tensor (R274, R281). The model's own choices here:
logs 14 and 15. -/
def Obligations.TileVectors : Prop :=
  (∀ kind ∈ [1, 2], ∀ (s : State) (e : THandle), Spec.TileAccess s e kind → s.act.focld.getLsbD 0 = false → s.boxShort e = true →
    Spec.FreeV s (s.ir.d.setWidth 4) →
    ∃ u : State, exec .vldt s = .next (u.finish s.npc) ∧ Spec.Access s { u with wstamps := s.wstamps } ∧ (kind = 1 → u.wstamps = s.wstamps) ∧ Spec.KeepsMemory s u ∧ Spec.KeepsS s u [] ∧ Spec.KeepsV s u [s.ir.d.setWidth 4] ∧
      ∀ i, i < 512 / Spec.intWidth s → vElem (u.act.rdV (s.ir.d.setWidth 4)).val (Spec.intWidth s) i =
        if Spec.tileActive s e i then Spec.tileRead e (ofBytes (s.rdBytes (kind == 2) (Spec.scratchKey s (Spec.tileAddr s e i)) (Spec.intWidth s / 8)))
        else vElem (s.act.rdV (s.ir.d.setWidth 4)).val (Spec.intWidth s) i) ∧
  (∀ (s : State) (e : THandle), Spec.TileAccess s e 2 →
    let on := (List.range (512 / Spec.intWidth s)).filter (Spec.tileActive s e)
    let n := Spec.intWidth s / 8
    (∀ i ∈ on, ∀ j ∈ on, i ≠ j → (Spec.tileAddr s e i).toNat + n ≤ (Spec.tileAddr s e j).toNat ∨ (Spec.tileAddr s e j).toNat + n ≤ (Spec.tileAddr s e i).toNat) →
    ∃ u : State, exec .vstt s = .next (u.finish s.npc) ∧ u.mem = s.mem ∧ Spec.KeepsS s u [] ∧ Spec.KeepsV s u [] ∧ u.act.flags = s.act.flags ∧
      (∀ i ∈ on, ∀ j, j < n → u.rdByte true (Spec.scratchKey s (Spec.tileAddr s e i) + j) =
        BitVec.ofNat 8 (Spec.tileCode s e i / 2 ^ (8 * j))) ∧
      ∀ k, k < 2 ^ 60 → (∀ i ∈ on, k < Spec.scratchKey s (Spec.tileAddr s e i) ∨ Spec.scratchKey s (Spec.tileAddr s e i) + n ≤ k) → u.rdByte true k = s.rdByte true k)

/-- MMA and MMAS queue a command with the copies of their operands; MZERO, MLOAD and MSTORE queue theirs; a full queue stalls the core; MWAIT parks
while a command of the core names the accumulator, then takes its flags, or raises the fault that it holds (R203, R208, R209, R213, R215, R216). The
model's own choices here: logs 13 and 16. -/
def Obligations.MatrixCommands : Prop :=
  (∀ p ∈ [(Instr.mma, false), (.mmas, true)], ∀ (s : State) (i j : Nat) (a b : THandle) (l : Handle) (f : Word),
    let e := if p.2 = true ∧ s.ir.e ≠ 0 then [s.ir.e] else []
    Spec.Named s ([.a s.ir.d.toNat, .s s.ir.a.toNat, .s s.ir.b.toNat, .s s.ir.c.toNat] ++ e.map (fun r => .s r.toNat)) →
    s.labOf (s.act.rd s.ir.a).lab ≠ none → s.labOf (s.act.rd s.ir.b).lab ≠ none → (∀ r ∈ e, s.labOf (s.act.rd r).lab ≠ none) →
    Spec.Holding s (s.act.rd s.ir.a).val i a → Spec.Holding s (s.act.rd s.ir.b).val j b → Spec.MatrixFits a b (s.act.rd s.ir.c).val p.2 →
    Spec.Labels s ([(s.act.rd s.ir.a).lab, (s.act.rd s.ir.b).lab, (s.act.rd s.ir.c).lab] ++ e.map (fun r => (s.act.rd r).lab) ++ [s.act.clab]) l f →
    Spec.MatrixRoom s → ∃ u, exec p.1 s = .next (u.finish s.npc) ∧ Spec.Accepts s u (Spec.matrixCommand s p.2 i j a b l) (f &&& flagLW)) ∧
  (∀ s : State, Spec.Named s [.a s.ir.d.toNat] → Spec.MatrixRoom s →
    ∃ u, exec .mzero s = .next (u.finish s.npc) ∧ Spec.Accepts s u
      { kind := .mzero, acc := s.ir.d.setWidth 4, lab := s.act.clab, core := s.cur, aid := s.act.aid, tslot := s.me.tslot, sup := s.act.sup } 0) ∧
  (∀ p ∈ [(Instr.mload, MxKind.mload, Kind.rd), (.mstore, .mstore, .wr)], ∀ (s t : State) (ps : List Piece), let a := s.act.rd s.ir.a
    Spec.Named s [.a s.ir.d.toNat, .s s.ir.a.toNat] → s.labOf a.lab ≠ none → s.pieces s.cur s.act.sup p.2.2 a.val 4096 = .ok ps →
    s.walks none ps = .ok t → Spec.MatrixRoom s →
    ∃ u, exec p.1 s = .next (u.finish s.npc) ∧ Spec.Accepts t u
      { kind := p.2.1, acc := s.ir.d.setWidth 4, lab := a.lab, lab2 := s.act.clab, addr := a.val, spans := ps.map (fun q => (q.key, q.off, q.len)),
        lines := stampedLines ps, core := s.cur, aid := s.act.aid, tslot := s.me.tslot, sup := s.act.sup } 0) ∧
  (∀ s : State, let q := Spec.matrixQueue s
    Spec.Named s [.a s.ir.d.toNat] → s.act.cancelled = false →
    (q.fault = none → q.active ≠ none → q.shadow ≠ none → exec .mzero s = .next s.stall) ∧
    (∀ i, q.fault = some i → exec .mzero s = .next ((s.setAcc s.cl i (s.acc s.cl i).discarded).finish s.npc))) ∧
  (∀ s : State, let i := s.ir.d.toNat % 16; let acc := s.myCluster.accs[i]'(Nat.mod_lt _ (by decide)); let q := Spec.matrixQueue s
    let names := fun (m : Option MxCmd) => ∃ c, m = some c ∧ c.acc.toNat = i
    Spec.Named s [.a s.ir.d.toNat] → Spec.AtRest s →
    (names q.active ∨ names q.shadow → Spec.Alone s.me → ∃ u, exec .mwait s = .next u ∧ Spec.Parks s u (.mwait (s.ir.d.setWidth 4)) s.npc) ∧
    (¬ names q.active → ¬ names q.shadow → acc.pend = none →
      ∃ u : State, exec .mwait s = .next (u.finish s.npc) ∧ u.mem = s.mem ∧ Spec.KeepsS s u [] ∧
        u.act = { s.act with flags := s.act.flags ||| BitVec.ofNat 64 (acc.pfl.toNat * 256), engStamp := u.act.engStamp } ∧
        (u.myCluster.accs[i]'(Nat.mod_lt _ (by decide))) = { acc with pfl := 0, wmax := ferase acc.wmax s.act.aid }) ∧
    (∀ c v, ¬ names q.active → ¬ names q.shadow → acc.pend = some (c, v) →
      ∃ t : State, exec .mwait s = .next (t.raise c v) ∧ t = { s with clusters := t.clusters } ∧
        (t.myCluster.accs[i]'(Nat.mod_lt _ (by decide))) = { acc with pend := none } ∧
        Spec.matrixQueue t = { q with fault := if q.fault = some (BitVec.ofNat 4 i) then none else q.fault }))

/-- BTGO starts a chain on an idle channel, or queues its head on one that runs; CLGO gives the collective its number, the record and its label;
RINGWAIT and SYNCW load the word, a long-latency result, once it differs, and park until then (R283, R288, R289, R430). The model's own choices here:
log 17. -/
def Obligations.EngineStarts : Prop :=
  (∀ (s : State) (l : Handle) (f : Word), let a := s.act.rd s.ir.a; let b := s.act.rd s.ir.b; let x := Spec.channel s a.val.toNat
    Spec.Named s [.s s.ir.a.toNat, .s s.ir.b.toNat] → s.labOf a.lab ≠ none → s.labOf b.lab ≠ none → a.val.toNat < 16 → b.val.toNat % 64 = 0 → s.act.cancelled = false →
    Spec.Labels s [a.lab, b.lab, s.act.clab] l f →
    (x.state ≠ 1 → ∃ u : State, exec .btgo s = .next (u.finish s.npc) ∧ u.mem = s.mem ∧ u.act = { s.act with flags := s.act.flags ||| (f &&& flagLW) } ∧
      Spec.channel u a.val.toNat = { state := 1, raddr := b.val, lab := l, core := s.cur, aid := s.act.aid, sup := s.act.sup } ∧
      ∀ m, m ≠ a.val.toNat → Spec.channel u m = Spec.channel s m) ∧
    (x.state = 1 → x.queued = 0 → ∃ u : State, exec .btgo s = .next (u.finish s.npc) ∧ u.mem = s.mem ∧
      u.act = { s.act with flags := s.act.flags ||| (f &&& flagLW) } ∧
      Spec.channel u a.val.toNat = { x with queued := b.val, qlab := l, qcore := s.cur, qaid := s.act.aid, qsup := s.act.sup } ∧
      ∀ m, m ≠ a.val.toNat → Spec.channel u m = Spec.channel s m) ∧
    (x.state = 1 → x.queued ≠ 0 → exec .btgo s = .next s.stall)) ∧
  (∀ s : State, let a := s.act.rd s.ir.a; let r : Line := BitVec.ofNat 512 (ofBytes (Memory.readN s.mem (Spec.scratchKey s a.val) 64))
    Spec.Named s [.s s.ir.d.toNat, .s s.ir.a.toNat] → a.val.toNat % 64 = 0 → Spec.Calm s → Spec.OwnRange s a.val 64 → Spec.Unlabelled s [a.lab] →
    s.myCluster.colls.length < 16 → s.act.cancelled = false → Spec.Room s → Spec.FreeS s s.ir.d → r.toNat / 2 ^ 384 % 2 ^ 64 ≠ 0 →
    ∃ (u : State) (op : LOp) (c : Coll), exec .clgo s = .next (u.finish s.npc) ∧ Spec.KeepsMemory s u ∧ Spec.KeepsS s u [] ∧
      u.act.outs = s.act.outs ++ [{ op := op, iss := s.issue, writes := [.s s.ir.d (BitVec.ofNat 64 s.myCluster.collSeq) 0], flags := 0 }] ∧
      u.myCluster.colls = s.myCluster.colls ++ [c] ∧ c.seq = s.myCluster.collSeq ∧ c.rcd = r ∧ c.addr = a.val ∧ c.core = s.cur ∧ c.aid = s.act.aid ∧
      c.sup = s.act.sup ∧ c.lab = 0 ∧ c.since = s.clock ∧ c.data = none ∧ c.ending = none ∧ u.myCluster.collSeq = s.myCluster.collSeq + 1) ∧
  (∀ s : State, let a := s.act.rd s.ir.a; let b := s.act.rd s.ir.b; let k := Spec.scratchKey s (a.val + 16)
    let head : Word := BitVec.ofNat 64 (ofBytes (Memory.readN s.mem k 8))
    Spec.Named s [.s s.ir.d.toNat, .s s.ir.a.toNat, .s s.ir.b.toNat] → Spec.AtRest s → a.val.toNat % 32 = 0 → Spec.Calm s → Spec.OwnRange s a.val 32 →
    Spec.Unlabelled s [a.lab, b.lab] →
    (head ≠ b.val → ∃ u : State, exec .ringwait s = .next (u.finish s.npc) ∧ Spec.Access s u ∧ Spec.KeepsMemory s u ∧ Spec.KeepsS s u [] ∧
      u.act.outs = [{ op := .ringwait a.val b.val s.ir.d [0, 0], iss := s.issue, writes := [.s s.ir.d head 0], flags := 0 }]) ∧
    (head = b.val → Spec.Alone s.me → ∃ u, exec .ringwait s = .next u ∧ Spec.Parks s u (.ringwait a.val b.val s.ir.d [0, 0] s.ir.sw s.issue) s.npc)) ∧
  (∀ s : State, let a := s.act.rd s.ir.a; let d := s.act.rd s.ir.d; let k := Spec.scratchKey s (a.val + 8)
    let gen := ofBytes (Memory.readN s.mem k 4)
    Spec.Named s [.s s.ir.d.toNat, .s s.ir.a.toNat] → Spec.AtRest s → a.val.toNat % 16 = 0 → Spec.Calm s → Spec.OwnRange s a.val 16 →
    Spec.Unlabelled s [a.lab, d.lab] →
    (gen ≠ d.val.toNat % 2 ^ 32 → ∃ u : State, exec .syncw s = .next (u.finish s.npc) ∧ Spec.Access s u ∧ Spec.KeepsMemory s u ∧ Spec.KeepsS s u [] ∧
      u.act.outs = [{ op := .syncw a.val (BitVec.ofNat 32 d.val.toNat) s.ir.d [0, 0], iss := s.issue, writes := [.s s.ir.d (BitVec.ofNat 64 gen) 0], flags := 0 }]) ∧
    (gen = d.val.toNat % 2 ^ 32 → Spec.Alone s.me →
      ∃ u, exec .syncw s = .next u ∧ Spec.Parks s u (.syncw a.val (BitVec.ofNat 32 d.val.toNat) s.ir.d [0, 0] s.ir.sw s.issue) s.npc))

/-- MSAVE adds a range, empties the set or gives its charge; TLBI drops the translations it names and marks the handles granted through them stale;
CONTAIN arms, closes and opens a Shutter and makes it permanent, by the operation in sb; all park, CONTAIN until every boundary router has taken the
change (R239, R342 to R344, R395). The model's own choices here: logs 27 and 32. -/
def Obligations.SavesShootdownsAndContainment : Prop :=
  (∀ s : State, let a := s.act.rd s.ir.a; let b := s.act.rd s.ir.b; let set := s.me.mustSave
    Spec.Named s [.s s.ir.d.toNat, .s s.ir.a.toNat, .s s.ir.b.toNat] → Spec.AtRest s → Spec.Alone s.me →
    (b.val = 0 → ∃ (t u : State) (code : Word) (new : List MustSave), exec .msave s = .next u ∧ Spec.Parks t u (.msave code s.ir.d) s.npc ∧
      t = s.setMe { s.me with mustSave := new } ∧
      (a.val = 0 → code = 0 ∧ new = []) ∧ (a.val = 1 → code = BitVec.ofNat 64 (charge set * 65536) ∧ new = set) ∧
      (1 < a.val.toNat → code = 3 ∧ new = set)) ∧
    (b.val ≠ 0 → (a.val.toNat % 64 ≠ 0 ∨ b.val.toNat % 64 ≠ 0 ∨ 2 ^ 32 < b.val.toNat) →
      ∃ u, exec .msave s = .next u ∧ Spec.Parks (s.setMe { s.me with mustSave := set }) u (.msave 3 s.ir.d) s.npc) ∧
    (b.val ≠ 0 → a.val.toNat % 64 = 0 → b.val.toNat % 64 = 0 → s.labOf a.lab ≠ none → Spec.Calm s → Spec.OwnRange s a.val b.val.toNat →
      (∀ k, 2 ^ 39 ≤ k → k < 2 ^ 40 → s.rdTag false (k / 16) = 0) →
      ∃ (t u : State) (code : Word) (new : List MustSave), exec .msave s = .next u ∧ Spec.Parks t u (.msave code s.ir.d) s.npc ∧
        t = s.setMe { s.me with mustSave := new } ∧
        (set.length = 16 → code = 2 ∧ new = set) ∧
        (set.length ≠ 16 → s.me.msquota.toNat % 2048 < charge set + (b.val.toNat + 65535) / 65536 → code = 1 ∧ new = set) ∧
        (set.length ≠ 16 → charge set + (b.val.toNat + 65535) / 65536 ≤ s.me.msquota.toNat % 2048 →
          code = 0 ∧ ∃ r, new = set ++ [r] ∧ r.addr = a.val ∧ r.len = b.val ∧ r.tslot = s.slot))) ∧
  (∀ p ∈ [(Instr.tlbiPg, 0), (.tlbiTn, 1), (.tlbiAll, 2)], ∀ s : State, let a := s.act.rd s.ir.a; let b := s.act.rd s.ir.b
    let slot := b.val.toNat % 64; let size : BitVec 2 := BitVec.ofNat 2 (b.val.toNat / 256)
    let hit := fun (e : TEntry) => Spec.ShotDown p.2 a.val slot size e
    s.act.sup = true → Spec.Named s [.s s.ir.a.toNat, .s s.ir.b.toNat] → (p.2 = 0 → s.labOf a.lab ≠ none) → Spec.AtRest s → Spec.Alone s.me →
    b.val.toNat < 2 ^ 10 → b.val.toNat / 64 % 4 = 0 → size ≠ 3 →
    ((∀ q ∈ s.handles, q.2.kind = 0 → q.2.wait = true → ∀ bl ∈ q.2.blocks, ∀ e ∈ bl.pages, ¬ hit e) →
    ∃ t u : State, exec p.1 s = .next u ∧ Spec.Parks t u (.tlbi (BitVec.ofNat 2 p.2) a.val slot size) s.npc ∧
      t = { s with cores := t.cores, clusters := t.clusters, handles := t.handles } ∧
      (∀ k e, e ∈ (t.cluster k).tcache ↔ e ∈ (s.cluster k).tcache ∧ ¬ hit e) ∧
      (∀ i, t.thandle i = { s.thandle i with stale := (t.thandle i).stale } ∧
        ((t.thandle i).stale = true ↔ (s.thandle i).stale = true ∨ (s.thandle i).kind ≠ 0 ∧
          ∃ bl ∈ (s.thandle i).blocks.take (s.thandle i).taken, ∃ e ∈ bl.pages, hit e)) ∧
      ∀ c, (t.core c).act = (s.core c).act) ∧
    (∀ (i c : Nat) (e : THandle) (x : Act) (d : BitVec 6) (l : Handle) (m : BitVec 2) (bs : List Block), s.handles = [(i, e)] → e.kind = 0 → e.wait = true →
      (∃ bl ∈ e.blocks, ∃ y ∈ bl.pages, hit y) → s.acquirer i = some (c, x, d, l, m) →
      (s.shoot (tlbiHits (BitVec.ofNat 2 p.2) a.val slot size)).tblocks e.core e.sup e.want e = .ok bs →
      ∃ u : State, exec p.1 s = .next u ∧ u.thandle i = { e with blocks := bs, taken := 0, holder := c / 8, since := s.clock })) ∧
  (∀ i ∈ Spec.containRows, ∀ s : State, let n := Spec.containEntry s; let e := Spec.shutterOf s; let rect := (s.act.rd s.ir.a).val
    let park := fun (t u : State) (op : BitVec 2) => Spec.Parks t u (.contain op (BitVec.ofNat 6 n) rect) s.npc
    let with_ := fun (x : Shutter) => { s with plant := { s.plant with shutters := fset s.plant.shutters n x } }
    (Spec.MayContain s 0 → Spec.Alone s.me → s.me.running = true → e.state = 0 → s.armedElsewhere n rect = false →
      ∃ u, exec i s = .next u ∧ park (with_ { e with rect := rect, state := 1 }) u 0) ∧
    (Spec.MayContain s 0 → e.state ≠ 0 ∨ s.armedElsewhere n rect = true → exec i s = .next (s.raise .prot rect)) ∧
    (Spec.MayContain s 1 → e.state = 1 →
      ∃ (u : State) (x : Shutter), exec i s = .next u ∧ fget u.plant.shutters n = some x ∧ x.rect = e.rect ∧ x.state = 2) ∧
    (Spec.MayContain s 1 → Spec.Alone s.me → s.me.running = true → e.state ≠ 1 → ∃ u, exec i s = .next u ∧ park s u 1) ∧
    (Spec.MayContain s 2 → Spec.Alone s.me → s.me.running = true → e.state = 2 → e.perm = false → ∃ u, exec i s = .next u ∧ park (with_ {}) u 2) ∧
    (Spec.MayContain s 2 → e.perm = true → exec i s = .next (s.raise .prot rect)) ∧
    (Spec.MayContain s 3 → Spec.Alone s.me → s.me.running = true → ∃ u, exec i s = .next u ∧ park (with_ { e with perm := true }) u 3))

/-- What each event gives the activation that it wakes: a status under its control label, or nothing; it goes on at the next instruction, and an idle
core takes it (R197, R239, R264, R282, R313, R324, R329, R334, R343). The model's own choices here: logs 12, 27, 32, 36, 61 and 62. -/
def Obligations.WaitsEnd : Prop :=
  (∀ (s : State) (a : Act) (x : Word) (ch : BitVec 6) (key : Nat) (d : BitVec 6), Spec.Waits s a (.watch x ch key d) →
    (∀ i, watchSlot (s.core s.arg.n).watches x = some i → ∃ t u, exec .watchRegistered s = .next u ∧
      t = s.setCore s.arg.n { s.core s.arg.n with watches := fset (s.core s.arg.n).watches i (x, ch, key) } ∧
      Spec.Returns t u s.arg.n a d (BitVec.ofNat 64 i) a.floor) ∧
    (watchSlot (s.core s.arg.n).watches x = none → ∃ u, exec .watchRegistered s = .next u ∧ Spec.Returns s u s.arg.n a d (BitVec.allOnes 64) a.floor)) ∧
  (∀ (s : State) (a : Act) (v : Word) (d : BitVec 6), Spec.Waits s a (.hostq v d) →
    ∃ u, exec .hostqComplete s = .next u ∧ Spec.Returns s u s.arg.n a d v a.floor) ∧
  (∀ (s : State) (a : Act) (v : Word) (d : BitVec 6), Spec.Waits s a (.msave v d) →
    ∃ u, exec .msaveRecorded s = .next u ∧ Spec.Returns s u s.arg.n a d v a.floor) ∧
  (∀ (s : State) (a : Act) (n : Nat) (d : BitVec 6), Spec.Waits s a (.ccancel n d) → a.cancelled = false →
    ∃ u, exec .ccancelComplete s = .next u ∧ Spec.Returns s u s.arg.n a d 0 a.floor) ∧
  (∀ (s : State) (a : Act) (n : Nat) (d : BitVec 6) (v : Word), let slot := (s.core s.arg.n).tslot.toNat; let c := s.counterOr slot n
    Spec.Waits s a (.ccwait n d) → (c.state = .zero ∧ v = 0 ∨ c.state = .cancelled ∧ v = 1) →
    Spec.Sole s s.arg.n a →
    ∃ t u, exec .ccwaitWake s = .next u ∧ Spec.Returns t u s.arg.n { a with waits := none } d v (tmax c.time a.floor) ∧
      t = { s with jobs := t.jobs, cores := t.cores } ∧ (∀ k, k ≠ s.arg.n → (t.core k).parked = (s.core k).parked) ∧
      (t.core s.arg.n).parked = (s.core s.arg.n).parked.map (fun x => if x.slot = a.slot then { a with waits := none } else x) ∧
      ∀ k, (t.core k).ready = (s.core k).ready ∧ (t.core k).act = (s.core k).act) ∧
  (∀ (s : State) (a : Act) (till : Word), Spec.Waits s a (.sleep till) →
    ((s.clock - till).toNat < 2 ^ 63 → ∃ u, exec .sleepExpiry s = .next u ∧ Spec.GoesOn s u s.arg.n a) ∧
    (2 ^ 63 ≤ (s.clock - till).toNat → exec .sleepExpiry s = .next s)) ∧
  (∀ (s : State) (a : Act) (i : Nat), Spec.Waits s a (.tidw i) → ∃ u, exec .tidwRetire s = .next u ∧ Spec.GoesOn s u s.arg.n a) ∧
  (∀ (s : State) (a : Act) (op : BitVec 2) (e : BitVec 6) (r : Word), Spec.Waits s a (.contain op e r) →
    ∃ u, exec .containTaken s = .next u ∧ Spec.GoesOn s u s.arg.n a) ∧
  (∀ (s : State) (a : Act) (sc : BitVec 2) (x : Word) (slot : Nat) (size : BitVec 2), Spec.Waits s a (.tlbi sc x slot size) →
    (∀ p ∈ s.handles, p.2.stale = true → p.2.kind = 0 ∨ ∀ b ∈ p.2.blocks.take p.2.taken, ∀ e ∈ b.pages, ¬ Spec.ShotDown sc.toNat x slot size e) →
    sc ≠ 3 → ∃ u, exec .tlbiComplete s = .next u ∧ Spec.GoesOn s u s.arg.n a) ∧
  (∀ (s : State) (a : Act) (f : BitVec 2), let k := s.arg.n / 8; let fl := tmaxO a.engStamp a.floor
    Spec.Waits s a (.fence f) → Spec.Sole s s.arg.n a → a.outs = [] → a.deferred = [] →
    (f ≠ 1 → ∃ u, exec .fenceComplete s = .next u ∧ Spec.Wakes s u s.arg.n a { a with pc := a.npc, posted := false }) ∧
    (f = 1 → ∃ t u : State, exec .fenceComplete s = .next u ∧ t = s.setCluster k { s.cluster k with ltime := tmax (s.cluster k).ltime fl } ∧
      Spec.Wakes t u s.arg.n a { a with pc := a.npc, posted := false, floor := fl })) ∧
  (∀ (s : State) (g : Gang), fget (s.cluster s.arg.n).gangs s.arg.m = some g → g.barArr ≠ [] →
    (∀ i, i < 8 → g.mask.getLsbD i = true → g.done.getLsbD i = true ∨ ∃ p ∈ g.barArr, p.1 = i) →
    (∀ i, i < 8 → ∀ a ∈ (s.core (8 * s.arg.n + i)).parked, a.elect = none) →
    ∃ u, exec .barRelease s = .next u ∧ fget (u.cluster s.arg.n).gangs s.arg.m = some { g with barArr := [], barGen := g.barGen + 1 }) ∧
  (∀ (s : State) (g : Gang) (i : Nat) (x : Time) (a : Act) (d : BitVec 6), let c := 8 * s.arg.n + i
    fget (s.cluster s.arg.n).gangs s.arg.m = some g → g.barArr = [(i, x)] → i < 8 →
    (∀ j, j < 8 → g.mask.getLsbD j = true → g.done.getLsbD j = true ∨ j = i) →
    (s.core c).parked.find? (fun y => y.gang == some s.arg.m && (match y.park with | some (.bar _) => true | _ => false)) = some a →
    a.park = some (.bar d) → a.elect = none → Spec.Sole s c a →
    ∃ t u, exec .barRelease s = .next u ∧ t = s.setCluster s.arg.n { s.cluster s.arg.n with
      gangs := fset (s.cluster s.arg.n).gangs s.arg.m { g with barArr := [], barGen := g.barGen + 1 } } ∧
      Spec.Returns t u c a d 0 (tmax x a.floor)) ∧
  (∀ (s : State) (g : Gang) (a : Act), let c := 8 * s.arg.n + s.arg.k % 8
    fget (s.cluster s.arg.n).gangs s.arg.m = some g → g.elected = some (s.arg.k % 8) → a.electGen = g.electGen → fget g.results a.electGen = none →
    (s.core c).parked.find? (fun x => x.gang == some s.arg.m && (match x.park with | some (.elect _) => true | _ => false)) = some a → Spec.Sole s c a →
    ∃ u, exec .electExecute s = .next u ∧ Spec.Wakes s u c a { a with pc := a.pc + 4, elect := some (some s.arg.m) })

/-- LDFE, RINGWAIT, SYNCW and MWAIT end their waits with the word, the flags or the fault; LWAIT with its outcome or 3 (R195, R215, R216, R270, R288).
The model's own choices here: logs 12 and 36. -/
def Obligations.LoadsAndOutcomesEnd : Prop :=
  (∀ (s : State) (a : Act) (x : Word) (d : BitVec 6) (sw : Bool) (iss : Issue), Spec.Waits s a (.ldfe x d 0 sw iss) → Spec.OwnAt s s.arg.n a x → x.toNat % 8 = 0 →
    iss.clab = 0 → iss.focld = false → iss.elect = none → (sw = false ∨ (a.outs = [] ∧ a.deferred = [])) →
    (s.full false (Spec.ownKey s.arg.n x) = true → ∃ u, exec .ldfeWake s = .next u ∧
      Spec.LoadsAtWake s u s.arg.n a d (BitVec.ofNat 64 (ofBytes (Memory.readN s.mem (Spec.ownKey s.arg.n x) 8)))) ∧
    (s.full false (Spec.ownKey s.arg.n x) = false → exec .ldfeWake s = .next s)) ∧
  (∀ (s : State) (a : Act) (x old : Word) (d : BitVec 6) (sw : Bool) (iss : Issue),
    let v : Word := BitVec.ofNat 64 (ofBytes (Memory.readN s.mem (Spec.ownKey s.arg.n (x + 16)) 8))
    Spec.Waits s a (.ringwait x old d [0, 0] sw iss) → Spec.Sole s s.arg.n a → Spec.OwnAt s s.arg.n a (x + 16) → x.toNat % 32 = 0 →
    iss.clab = 0 → iss.elect = none →
    (v ≠ old → ∃ u, exec .ringwaitWake s = .next u ∧ Spec.LeavesAtWake s u s.arg.n a sw { op := .ringwait x old d [0, 0], iss := iss, writes := [.s d v 0], flags := 0 }) ∧
    (v = old → exec .ringwaitWake s = .next s)) ∧
  (∀ (s : State) (a : Act) (x : Word) (old : BitVec 32) (d : BitVec 6) (sw : Bool) (iss : Issue),
    let v := ofBytes (Memory.readN s.mem (Spec.ownKey s.arg.n (x + 8)) 4)
    Spec.Waits s a (.syncw x old d [0, 0] sw iss) → Spec.Sole s s.arg.n a → Spec.OwnAt s s.arg.n a (x + 8) → x.toNat % 16 = 0 →
    iss.clab = 0 → iss.elect = none →
    (v ≠ old.toNat → ∃ u, exec .syncwWake s = .next u ∧
      Spec.LeavesAtWake s u s.arg.n a sw { op := .syncw x old d [0, 0], iss := iss, writes := [.s d (BitVec.ofNat 64 v) 0], flags := 0 }) ∧
    (v = old.toNat → exec .syncwWake s = .next s)) ∧
  (∀ (s : State) (a : Act) (i : BitVec 4), let k := s.arg.n / 8; let acc := (s.cluster k).accs[i.toNat]'i.isLt
    Spec.Waits s a (.mwait i) → (s.cluster k).names s.arg.n i = false →
    (acc.pend = none → ∃ (t u : State) (b : Act), exec .mwaitWake s = .next u ∧ Spec.Wakes t u s.arg.n a b ∧ t.mem = s.mem ∧
      b = { a with pc := a.npc, flags := a.flags ||| BitVec.ofNat 64 (acc.pfl.toNat * 256), engStamp := b.engStamp } ∧
      (t.cluster k).accs[i.toNat]'i.isLt = { acc with pfl := 0, wmax := ferase acc.wmax a.aid }) ∧
    (∀ c v, acc.pend = some (c, v) → ∃ t u : State, exec .mwaitWake s = .next u ∧ t = { s with clusters := t.clusters } ∧
      (t.cluster k).accs[i.toNat]'i.isLt = { acc with pend := none } ∧ (∀ q ∈ (t.cluster k).mxq.toList, q.fault ≠ some i) ∧
      Spec.Wakes t u s.arg.n a { a with pend := some { cause := c, xval := v, xpc := a.pc } })) ∧
  (∀ (s : State) (a : Act) (h l : Handle) (since limit : Word) (d : BitVec 6), let k := s.arg.n / 8; let lab := tlab (s.cluster k).clt h
    let slot := (s.core s.arg.n).tslot.toNat; let settled := Spec.Settled s k slot h
    Spec.Waits s a (.lwait h l since limit d) →
    (∀ v, settled → (lab = some [0] ∧ v = 0 ∨ lab = some [] ∧ v = 1 ∨ lab = none ∧ v = 2) →
      ∃ u, exec .lwaitWake s = .next u ∧ Spec.ReturnsUnder s u s.arg.n a d v l (Spec.later a.floor (Spec.outcomeTime s slot h))) ∧
    (¬ settled ∨ Spec.Pending lab → exec .lwaitWake s = .next s ∧
      (limit ≠ 0 → limit.toNat ≤ (s.clock - since).toNat → ∃ u, exec .lwaitTimeout s = .next u ∧ Spec.ReturnsUnder s u s.arg.n a d 3 l a.floor) ∧
      (limit = 0 ∨ (s.clock - since).toNat < limit.toNat → exec .lwaitTimeout s = .next s)))

/-- A change of the label state reaches the dies in the order of the job's broadcasts, the tables sweep, and the instruction retires with its status
(R132, R133, R194). The model's own choices here: logs 12 and 36. -/
def Obligations.LabelBroadcasts : Prop :=
  (∀ (s : State) (o : LabOp), let d := s.arg.m; let jb := s.job o.tslot
    s.labOps.find? (fun x => x.id == s.arg.n) = some o → d ∈ o.dies →
    (∀ p ∈ s.labOps, p.tslot = o.tslot → p.id < o.id → d ∉ p.dies ∧ (p.sweeps = true → Spec.SweptOn s p d)) → o.kind ≠ .lscrub →
    ∃ u : State, exec .stateBroadcastApply s = .next u ∧ u = { s with jobs := u.jobs, labOps := u.labOps } ∧ (u.job o.tslot).lab = jb.lab ∧
      ((∃ p ∈ s.labOps, p.tslot = o.tslot ∧ p.id ≠ o.id ∧ d ∈ p.dies) →
        u.jobLab o.tslot d = if o.status = 0 then applyLab o.kind o.envs (s.jobLab o.tslot d) else s.jobLab o.tslot d) ∧
      ((∀ p ∈ s.labOps, p.tslot = o.tslot → p.id ≠ o.id → d ∉ p.dies) → u.jobLab o.tslot d = jb.lab) ∧
      (∀ e, e ≠ d → u.jobLab o.tslot e = s.jobLab o.tslot e) ∧
      u.labOps = s.labOps.map (fun p => if p.id = o.id then { p with dies := p.dies.filter (fun e => e != d) } else p)) ∧
  (∀ (s : State) (o : LabOp), let m := s.arg.m; let die := (if m < 2000 then dieOf m else m - 2000) % 8; let j := s.jobLab o.tslot die
    s.labOps.find? (fun x => x.id == s.arg.n) = some o → o.sweeps = true → die ∉ o.dies →
    let table := fun (t : State) => if m < 2000 then (t.cluster m).clt else t.dtab (m - 2000)
    ∃ (u : State) (ds : List (Nat × Nat)), exec .tableSweep s = .next u ∧ u = { s with clusters := u.clusters, dlt := u.dlt, labOps := u.labOps } ∧
      (∀ i, fget (table u) i = (fget (table s) i).map (fun e =>
          if e.damaged = true ∨ e.tslot.toNat ≠ o.tslot then e
          else { e with envs := lclean j e.envs, conts := e.conts.take (((lclean j e.envs).length + 3) / 4 - 1) })) ∧
      (∀ k h, (k, h) ∈ ds ↔ k = m ∧ (∃ p ∈ table s, p.1 = h) ∧ Spec.Pending (tlab (table s) (BitVec.ofNat 16 h)) ∧ ¬ Spec.Pending (tlab (table u) (BitVec.ofNat 16 h))) ∧
      u.labOps = s.labOps.map (fun p => if p.id = o.id then { p with swept := m :: p.swept, decided := ds ++ p.decided } else p)) ∧
  (∀ (s : State) (o : LabOp) (a : Act) (d : BitVec 6),
    s.labOps.find? (fun x => x.id == s.arg.n) = some o → s.opDone o = true →
    (s.core o.core).parked.find? (fun x => match x.park with | some (.labelOp i _) => i == o.id | _ => false) = some a →
    a.park = some (.labelOp o.id (some d)) → a.elect = none → Spec.Sole s o.core a →
    let jb := s.job o.tslot
    ∃ t u, exec .labelOpRetire s = .next u ∧
      t = { s.setJob o.tslot { jb with labTime := some (Spec.later o.time jb.labTime) } with labOps := s.labOps.filter (fun p => p.id != o.id) } ∧
      Spec.Returns t u o.core a d o.status a.floor) ∧
  (∀ (s : State) (o : LabOp), s.labOps.find? (fun x => x.id == s.arg.n) = some o → o.dies ≠ [] → exec .labelOpRetire s = .next s)

/-- A result lands in its register with its label and flags, and wakes an activation that waits for the last one; a trap that waited for results is
taken (R79, R80, R336). The model's own choices here: log 9. -/
def Obligations.ResultsAndTraps : Prop :=
  (∀ (s : State) (o : Out) (d : BitVec 6) (v : Word) (l : Handle), let k := s.core s.arg.n; let a := k.act
    k.running = true → a.slot = s.arg.m → a.park = none → a.outs[s.arg.k]? = some o → o.writes = [.s d v l] → o.iss.elect = none →
    ∃ u : State, exec .resultLands s = .next u ∧ u = { s with cores := u.cores, clusters := u.clusters } ∧
      (∀ c, c ≠ s.arg.n → u.core c = s.core c) ∧
      (u.core s.arg.n).act = { a with outs := a.outs.eraseIdx s.arg.k, flags := a.flags ||| o.flags, sregs := (u.core s.arg.n).act.sregs, trap := (u.core s.arg.n).act.trap } ∧
      (u.core s.arg.n).act.rd d = (if d = 0 then { val := 0, lab := 0 } else { val := v, lab := l }) ∧
      (a.trap = none → ∀ r, r ≠ d → (u.core s.arg.n).act.rd r = a.rd r)) ∧
  (∀ (s : State) (a : Act) (o : Out) (d : BitVec 6) (v : Word) (l : Handle), let k := s.core s.arg.n
    s.parkedAt s.arg.n s.arg.m = some a → Spec.Sole s s.arg.n a → a.park = some .outs → a.outs = [o] → s.arg.k = 0 → a.deferred = [] →
    o.writes = [.s d v l] → o.iss.elect = none → k.halted = true →
    ∃ (u : State) (b : Act), exec .resultLands s = .next u ∧ u.mem = s.mem ∧ (u.core s.arg.n).ready = k.ready ++ [b] ∧
      (u.core s.arg.n).parked = k.parked.filter (fun x => x.slot != a.slot) ∧ b.outs = [] ∧ b.flags = a.flags ||| o.flags ∧ b.park = none ∧ b.pc = a.pc ∧
      b.rd d = (if d = 0 then { val := 0, lab := 0 } else { val := v, lab := l })) ∧
  (∀ (s : State) (p : PendTrap), let k := s.core s.arg.n
    let t := ({ s with cur := s.arg.n }).setCore s.arg.n { k with act := { k.act with pend := none } }
    k.running = true → k.halted = false → k.act.pend = some p → p.deferred = false → p.pix = none → p.cause ≠ .pfail →
    k.stallSince = none → k.twait = false → Spec.CanTrap t p.cause →
    ∃ u, exec .trapEntry s = .next u ∧ Spec.TrapTaken t u p.cause p.xval p.xpc) ∧
  (∀ s : State, (s.core s.arg.n).act.pend = none → exec .trapEntry s = .next s)

/-- The head of a send queue enters the networks, unless a record of that queue waits (R371); a message that arrives, or waits at the router, is
placed in its ring and answered; an answer counts at its sender; a refused one counts in MSGCNT (R299 to R301, R305, R308, R379). The model's own
choices here: logs 11 and 60. -/
def Obligations.MessagesMove : Prop :=
  (∀ (s : State) (m : Msg) (l : List Msg), let k := s.core s.arg.n
    (if s.arg.m = 0 then k.sendReq else k.sendRep) = m :: l → (∀ x ∈ s.waiting, ¬ Spec.SameQueue m x) → (∀ x ∈ s.net, Spec.SameQueue m x → s.willWait x = false) →
    exec .messageLeavesQueue s = .next { s.setCore s.arg.n { k with
      stalled := false, sendReq := if s.arg.m = 0 then l else k.sendReq, sendRep := if s.arg.m = 0 then k.sendRep else l } with net := s.net ++ [m] }) ∧
  (∀ (s : State) (m x : Msg) (l : List Msg), let k := s.core s.arg.n
    (if s.arg.m = 0 then k.sendReq else k.sendRep) = m :: l → x ∈ s.waiting → Spec.SameQueue m x → exec .messageLeavesQueue s = .next s) ∧
  (∀ (s : State) (m : Msg), s.net[s.arg.n]? = some m → Spec.MayPlace s m → s.overtakes m = false →
    ∃ u, exec .messageArrival s = .next u ∧ u.net = s.net.eraseIdx s.arg.n ∧ Spec.Placed s u m) ∧
  (∀ (s : State) (m : Msg), s.net[s.arg.n]? = some m → s.overtakes m = true → exec .messageArrival s = .next s) ∧
  (∀ (s : State) (m : Msg), s.waiting[s.arg.n]? = some m → Spec.MayPlace s m →
    (∀ x ∈ s.waiting.take s.arg.n, x.core ≠ m.core ∨ x.chan ≠ m.chan) →
    ∃ u, exec .recordPlaced s = .next u ∧ u.waiting = s.waiting.eraseIdx s.arg.n ∧ Spec.Placed s u m) ∧
  (∀ (s : State) (w : Answer), let k := s.core w.core
    s.answers[s.arg.n]? = some w → k.running = true → k.act.aid = w.aid → k.act.park = none →
    ∃ u, exec .messageAnswer s = .next u ∧ u = { s with answers := s.answers.eraseIdx s.arg.n, cores := u.cores } ∧
      (∀ c, c ≠ w.core → u.core c = s.core c) ∧
      (u.core w.core).act = { k.act with unanswered := k.act.unanswered - 1, chsets := k.act.chsets - (if w.chset then 1 else 0) } ∧
      (u.core w.core).msgcnt = (if w.kind = 1 then bump k.msgcnt 0 else if w.kind = 2 then bump k.msgcnt 1 else k.msgcnt)) ∧
  (∀ (s : State) (a : Act) (w : Answer), let k := s.core w.core
    s.answers[s.arg.n]? = some w → (∀ r ∈ k.residents, r.aid = w.aid → r = a) → a ∈ k.parked → a.aid = w.aid → Spec.Sole s w.core a → a.park = some .answers →
    a.unanswered = 1 → k.running = true → a.rcd.ctr = 0 → a.rcd.ubuf = none → a.gang = none → (s.job k.tslot.toNat).counters = [] →
    (k.chans[a.chan.toNat]'a.chan.isLt).recs = [] →
    ∃ u : State, exec .messageAnswer s = .next u ∧ (u.core w.core).parked = k.parked.filter (fun x => x.slot != a.slot) ∧
      (u.core w.core).ready = k.ready ∧ (u.core w.core).act = k.act ∧ ((u.core w.core).chans[a.chan.toNat]'a.chan.isLt).act = false ∧ u.mem = s.mem)

/-- SQWAKE fires once its queue is short enough; a channel yields an activation for its oldest record; waiting raises a level; CHSET and CHBIND change
the entry (R298, R302, R303, R308, R321 to R323). The model's own choices here: logs 34 and 36. -/
def Obligations.ChannelsMove : Prop :=
  (∀ s : State, let k := s.core s.arg.n; let w := (k.sqwake.toNat / 2 ^ (if s.arg.m = 0 then 0 else 16)) % 2 ^ 11
    let len := (if s.arg.m = 0 then k.sendReq else k.sendRep).length
    (w / 64 % 2 = 1 → len ≤ w / 256 % 8 → ∃ (u : State) (m : Msg), exec .sqwakeWake s = .next u ∧ u.net = s.net ++ [m] ∧ m.core = s.arg.n ∧
      m.chan.toNat = w % 64 ∧ m.payload = [] ∧ m.lab = some [0] ∧ m.time = (s.cluster (s.arg.n / 8)).ltime ∧ m.score = BitVec.ofNat 14 s.arg.n ∧
      (∀ i, i < 64 → (u.core s.arg.n).sqwake.getLsbD i = (k.sqwake.getLsbD i && decide (i ≠ 6 + (if s.arg.m = 0 then 0 else 16)))) ∧
      u = { s with cores := u.cores, net := u.net }) ∧
    (w / 64 % 2 = 0 → exec .sqwakeWake s = .next s)) ∧
  (∀ (s : State) (r : Rec) (l : List Rec), let i := BitVec.ofNat 6 s.arg.m; let k := s.core s.arg.n; let ch := k.chans[i.toNat]'i.isLt
    ch.recs = r :: l → ch.act = false → ch.bound = true → ch.pend ≠ 0 → ch.en = true → ch.hold = false → (ch.ready = true ∨ ch.auto = true) →
    k.stopReq = false → k.running = true → (k.tslot ≠ 0 ∨ 56 ≤ i.toNat) →
    ∃ u : State, exec .channelYield s = .next u ∧ u.mem = s.mem ∧ (u.core s.arg.n).chans[i.toNat]'i.isLt =
        { ch with act := true, pend := ch.pend - 1, ready := ch.ready && ch.auto, recs := l } ∧
      (u.core s.arg.n).queue = k.queue ++ [{ chan := i, level := ch.prio, since := s.clock, entry := ch.entry, rbase := ch.rbase, rsize := ch.rsize, rcd := r }]) ∧
  (∀ s : State, let k := s.core s.arg.n
    (s.arg.flag = false → exec .ageing s = .next (s.setCore s.arg.n { k with ready := k.ready.map (fun a =>
      if a.slot = s.arg.m ∧ k.age ≠ 0 ∧ k.age.toNat * Config.cyclesPerUs ≤ (s.clock - a.readyAt).toNat ∧ a.level ≠ 7 then { a with level := a.level + 1, readyAt := s.clock } else a) })) ∧
    (s.arg.flag = true → exec .ageing s = .next (s.setCore s.arg.n { k with queue := k.queue.map (fun q =>
      if q.chan.toNat = s.arg.m ∧ k.age ≠ 0 ∧ k.age.toNat * Config.cyclesPerUs ≤ (s.clock - q.since).toNat ∧ q.level ≠ 7 then { q with level := q.level + 1, since := s.clock } else q) }))) ∧
  (∀ (s : State) (m : Msg) (op : BitVec 6), let ch := Spec.chanOf s m
    s.net[s.arg.n]? = some m → m.chset = some op → s.overtakes m = false → m.dmod = s.plant.modId → s.turnedAway m = false →
    (m.sup = true ∨ Spec.MayPass s m) → ch.recs = [] → (s.core m.core).running = true →
    ∃ u : State, exec .chsetApply s = .next u ∧ u.net = s.net.eraseIdx s.arg.n ∧ u.mem = s.mem ∧
      Spec.chanOf u m = (if ch.bound then { ch with
        ready := (ch.ready || op.getLsbD 0) && !op.getLsbD 1, hold := (ch.hold || op.getLsbD 2) && !op.getLsbD 3
        en := (ch.en || op.getLsbD 4) && !op.getLsbD 5 } else ch) ∧
      ∀ f a, m.from_ = some (f, a) → u.answers = s.answers ++ [⟨f, a, 0, true⟩]) ∧
  (∀ (s : State) (a : Act) (r : Line) (b : Word) (d : BitVec 6), let c := b.toNat % 2 ^ 14; let k := s.core c; let n := r.toNat
    let i : BitVec 6 := BitVec.ofNat 6 (n / 2 ^ 64); let ch := k.chans[i.toNat]'i.isLt
    let entry : Word := BitVec.ofNat 64 n; let base := n / 2 ^ 128 % 2 ^ 18; let size := n / 2 ^ 146 % 2 ^ 14
    Spec.Waits s a (.chbind r b d) → (s.cluster (c / 8)).gated = false → k.running = true →
    (entry ≠ 0 → entry.toNat % 4 ≠ 0 ∨ size < 2 ∨ 8192 < size ∨ base % 32 ≠ 0 →
      ∃ t u, exec .chbindApply s = .next u ∧ t = s.setCore c { k with chans := k.chans.set i.toNat ch i.isLt } ∧
        (ch.recs = [] → Spec.Returns t u s.arg.n a d 3 a.floor)) ∧
    (n % 2 ^ 64 = 0 → n / 2 ^ 70 = 0 → ch.recs = [] →
      ∃ t u, exec .chbindApply s = .next u ∧
        ((ch.pend ≠ 0 ∨ ch.act = true) → t = s.setCore c { k with chans := k.chans.set i.toNat ch i.isLt } ∧ Spec.Returns t u s.arg.n a d 1 a.floor) ∧
        (ch.pend = 0 → ch.act = false → t = s.setCore c { k with chans := k.chans.set i.toNat { ch with bound := false, en := false } i.isLt } ∧
          Spec.Returns t u s.arg.n a d 0 a.floor)) ∧
    (entry ≠ 0 → entry.toNat % 4 = 0 → entry.toNat < 2 ^ 60 → n / 2 ^ 76 % 2 ^ 52 = 0 → 2 ≤ size → size ≤ 8192 → base % 32 = 0 → n / 2 ^ 160 % 2 ^ 32 = 0 →
      ch.bound = false → ch.pend = 0 → ch.recs = [] → base + size * 32 ≤ k.scratchSize →
      ∃ t u new, exec .chbindApply s = .next u ∧ t = s.setCore c { k with chans := k.chans.set i.toNat new i.isLt } ∧
        Spec.Returns t u s.arg.n a d 0 a.floor ∧ new.bound = true ∧ new.en = true ∧ new.entry = entry ∧ new.prio = BitVec.ofNat 3 (n / 2 ^ 70) ∧
        new.auto = r.getLsbD 73 ∧ new.contig = r.getLsbD 74 ∧ new.hold = r.getLsbD 75 ∧ new.rep = b.getLsbD 16 ∧ new.ready = false ∧ new.pend = 0 ∧
        new.rbase = BitVec.ofNat 21 (c % 8 * 2 ^ 18 + base) ∧ new.rsize = BitVec.ofNat 14 size ∧ new.rhead = 0 ∧ new.rtail = 0 ∧ new.recs = [] ∧
        new.region = 0 ∧ new.rgsize = 0 ∧ new.level = 0 ∧ new.lve = decide (n / 2 ^ 192 % 2 ^ 64 ≠ 0)))

/-- LTIME ticks, and the broadcast of the greatest one raises what lags, drops copies and raises stamps; an idle cluster is gated and its CYCLE stands
still until it is powered; a walk fills the translation cache, a fill the cache portion; CUR moves by one unit an interval (R41, R226, R227, R229,
R238, R244); a gate forced before the trace has drained drops its records and counts them, and a GAP record goes first when the cluster is powered
again (R421). The model's own choices here: logs 1, 16, 33, 51 and 57. -/
def Obligations.TimeAndCaches : Prop :=
  (∀ s : State, let k := s.cluster s.arg.n
    let tick := k.ordcfg.toNat / 2 ^ 16 % 2 ^ 12
    (k.gated = false → tick ≤ (s.clock - k.tickAt).toNat →
      exec .ltimeTick s = .next (s.setCluster s.arg.n { k with ltime := k.ltime + 1, tickAt := k.tickAt + BitVec.ofNat 64 tick })) ∧
    (k.gated = true ∨ (s.clock - k.tickAt).toNat < tick → exec .ltimeTick s = .next s)) ∧
  (∀ s : State, ∃ u : State, exec .ltimeBroadcast s = .next u ∧
    (∀ k, k < 1152 → (u.cluster k).ltime = if (s.cluster k).gated then (s.cluster k).ltime else Spec.raised s.maxLtime (s.cluster k).ltime 40) ∧
    (∀ c, let keep := fun (x : Copy) => !Spec.lagging x.lease (u.cluster (c / 8)).ltime (2 ^ 44)
      (u.core c).copies = (s.core c).copies.filter keep ∧ (u.core c).victims = (s.core c).victims.filter keep) ∧ u.mem = s.mem) ∧
  (∀ s : State, exec .stampSweep s = .next { s with
    stamps := s.stamps.map (fun p => (p.1, ⟨Spec.raised s.maxLtime p.2.wts 44, Spec.raised s.maxLtime p.2.rts 44⟩))
    stampBase := Spec.raised s.maxLtime s.stampBase 44
    wstamps := s.wstamps.map (fun p => (p.1, ⟨Spec.raised s.maxLtime p.2.wts 44, Spec.raised s.maxLtime p.2.rts 44⟩))
    handles := s.handles.map (fun p => (p.1, if p.2.kind = 0 then p.2 else { p.2 with stamp := Spec.raised s.maxLtime p.2.stamp 44 }))
    pages := s.pages.map (fun p => (p.1, { p.2 with stamp := Spec.raised s.maxLtime p.2.stamp 44 }))
    jobs := s.jobs.map (fun p => (p.1, { p.2 with
      counters := p.2.counters.map (fun c => (c.1, { c.2 with time := Spec.raised s.maxLtime c.2.time 44 }))
      labTime := p.2.labTime.map (fun t => Spec.raised s.maxLtime t 44) })) }) ∧
  (∀ s : State, let k := s.cluster s.arg.n
    (k.gated = false → k.idle = true → (∀ i, i < 8 → (s.core (8 * s.arg.n + i)).idle = true) →
      exec .clusterPowerGate s = .next (s.setCluster s.arg.n { k with gated := true, gatedAt := s.clock })) ∧
    (k.gated = false → k.workless = true → k.dbg.buffer ≠ [] → (∀ i, i < 8 → (s.core (8 * s.arg.n + i)).idle = true) → exec .clusterPowerGate s =
      .next (if s.arg.flag = false then s else s.setCluster s.arg.n { k with gated := true, gatedAt := s.clock, dbg := { k.dbg with
        buffer := [], lost := k.dbg.lost + k.dbg.buffer.length, trdrop := BitVec.ofNat 64 (min 0xFFFFFFFF (k.dbg.trdrop.toNat + k.dbg.buffer.length)) } })) ∧
    (∀ i, i < 8 → (s.core (8 * s.arg.n + i)).running = true → exec .clusterPowerGate s = .next s)) ∧
  (∀ s : State, let k := s.cluster s.arg.n
    k.gated = true → ∃ u : State, exec .clusterPowerUp s = .next u ∧ u.cluster s.arg.n = { k with
      gated := false, ltime := tmax k.ltime s.maxLtime, tickAt := s.clock
      dbg := if k.dbg.lost = 0 then k.dbg else { k.dbg with
        buffer := traceRec 7 0 (s.cycle (8 * s.arg.n)).toNat (BitVec.ofNat 64 k.dbg.lost) :: k.dbg.buffer, lost := 0 } } ∧
      ∀ i, i < 8 → u.cycle (8 * s.arg.n + i) = s.cycle (8 * s.arg.n + i)) ∧
  (∀ (s : State) (e : Word) (sh : Nat), let c := s.arg.n; let x := s.arg.word.toNat; let root := (s.core c).ptroot
    root.getLsbD 0 = true → x < 2 ^ 48 → s.cached c x = none → s.walk (c / 8) (root.toNat / 2 ^ 12 % 2 ^ 39 * 4096) x 4 = some (e, sh) →
    (∀ y, s.tenureAt y = none ∧ s.pageAbroad y = none) →
    ∃ u : State, exec .translationWalk s = .next u ∧ u = { s with clusters := u.clusters, stamps := u.stamps } ∧ u.cached c x = some (e, sh) ∧
      ∀ y, (u.stamp y).wts = (s.stamp y).wts) ∧
  (∀ (s : State) (e : Word) (sh : Nat), let c := s.arg.n; let x := s.arg.word.toNat; let line := leafKey s e sh x / 64; let k := s.core c
    s.arg.k = 0 → s.leaf c x = some (e, sh) → x < 2 ^ 48 → line < 2 ^ 31 → pteTgt e ≠ 2 → s.writes (c / 8) line = false →
    Spec.Usable (s.stamp line).rts (s.cluster (c / 8)).ltime → (∀ i, i < 4 → s.rdTag false (4 * line + i) = 0) →
    k.sets ≠ 0 → k.vpool.getLsbD 0 = false →
    ∃ (u : State) (rest : List Copy), exec .cacheFill s = .next u ∧ u.mem = s.mem ∧ (∀ y ∈ rest, y ∈ k.copies ∧ y.key ≠ line) ∧
      (u.core c).copies = { key := line, bytes := Memory.readN s.mem (64 * line) 64, labs := [0, 0, 0, 0], full := s.full false (64 * line)
                            wts := (s.stamp line).wts, lease := (s.stamp line).rts } :: rest ∧
      (rest.filter (fun y => Config.cacheSet k.sets y.key % k.sets == Config.cacheSet k.sets line % k.sets)).length < 4) ∧
  (∀ s : State, let k := s.core s.arg.n; let keep := fun (y : Copy) => y.key != s.arg.word.toNat
    s.arg.k = 1 → k.vpool.getLsbD 0 = false → ∃ u : State, exec .cacheFill s = .next u ∧ u.mem = s.mem ∧
      (u.core s.arg.n).copies = k.copies.filter keep ∧ (u.core s.arg.n).victims = k.victims.filter keep) ∧
  (∀ s : State, let k := s.core s.arg.n; let cur := k.carve.toNat / 2 ^ 16 % 64
    (k.carveRun = none → exec .carveSample s = .next s) ∧
    (∀ l n m, k.carveRun = some (l, n, m) → ∃ w : Word, exec .carveSample s = .next (s.setCore s.arg.n { k with carve := w }) ∧
      w.toNat / 2 ^ 16 % 64 = (if s.arg.m ≤ 64 * s.arg.k ∧ cur < 32 - n.toNat then cur + 1
        else if 256 * s.arg.word.toNat < s.arg.m ∧ m.toNat < cur then cur - 1 else cur) ∧ w.toNat % 2 ^ 16 = k.carve.toNat % 2 ^ 16))

/-- A tenure is granted block by block, and the last block gives the stamps of R254 and R255 and the result; a release publishes the working version;
a wait beyond TWAIT ends with TENUREWAIT; pages move between modules (R252 to R259). The model's own choices here: logs 14 and 16. -/
def Obligations.TenureMoves : Prop :=
  (∀ (s t : State) (c : Nat) (a : Act) (d : BitVec 6) (l : Handle) (m : BitVec 2) (b : Block), let i := s.arg.n; let e := s.thandle i
    e.wait = true → s.acquirer i = some (c, a, d, l, m) → e.kind = 0 → e.stale = false → e.blocks[e.taken]? = some b →
    (Spec.Kept s i e b → exec .tenureBlockGrant s = .next s) ∧
    (¬ Spec.Kept s i e b → e.taken + 1 ≠ e.blocks.length → s.takePages (e.want == 2) b.lines = some t →
      exec .tenureBlockGrant s = .next (t.setThandle i { e with taken := e.taken + 1, since := s.clock }))) ∧
  (∀ (s : State) (i c : Nat) (a : Act) (d : BitVec 6) (l : Handle) (m : BitVec 2), let e := s.thandle i; let lines := e.blocks.flatMap (·.lines)
    let got := fun (g : Time) => if d = 0 then ({ val := 0, lab := 0 } : Reg) else { val := if m = 0 then 0 else if m = 1 then Spec.valueOf i e else g.setWidth 64, lab := l }
    Spec.LastBlock s i c a d l m →
    (e.want = 1 → let g := if m = 2 then tmax e.stamp (a.floor + e.ask) else a.floor + Spec.skipOf s (c / 8)
      ∃ (u : State) (b : Act), exec .tenureBlockGrant s = .next u ∧
        u.thandle i = { e with kind := 1, wait := false, want := 0, stamp := g, holder := c / 8 } ∧
        (∀ x ∈ lines, u.stamp x = { s.stamp x with rts := tmax (s.stamp x).rts g }) ∧ (∀ x, x ∉ lines → u.stamp x = s.stamp x) ∧
        (u.core c).ready = (s.core c).ready ++ [b] ∧ b.pc = a.npc ∧ b.floor = a.floor ∧ b.rd d = got g ∧ u.mem = s.mem) ∧
    (e.want = 2 → let g := (dedupNat lines).foldl (fun t x => tmax t (s.stamp x).rts) a.floor + Spec.skipOf s (c / 8)
      ∃ (u : State) (b : Act), exec .tenureBlockGrant s = .next u ∧
        u.thandle i = { e with kind := 2, wait := false, want := 0, stamp := g, holder := c / 8 } ∧
        u.stamps = s.stamps ∧ (u.cluster (c / 8)).ltime = tmax (s.cluster (c / 8)).ltime g ∧
        (u.core c).ready = (s.core c).ready ++ [b] ∧ b.pc = a.npc ∧ b.floor = tmax g a.floor ∧ b.rd d = got g ∧ u.mem = s.mem)) ∧
  (∀ (s : State) (a : Act) (i : Nat), let e := s.thandle i
    let g := tmax a.floor (e.lines.foldl (fun t x => tmax t (s.wstamp x).rts) e.stamp)
    Spec.Waits s a (.trel i e.gen 0) → e.open_ = true → s.commandsName i = false → e.kind ≠ 0 → e.holder = s.arg.n / 8 → frising s.wmem = true → s.succs = [] →
    ∃ t u : State, exec .tenureRelease s = .next u ∧ Spec.GoesOn t u s.arg.n a ∧
      t.thandle i = { e with kind := 0, blocks := [], taken := 0, stale := e.wait, holder := if e.wait then e.holder else 0 } ∧
      (e.kind = 1 → t.mem = s.mem ∧ t.stamps = s.stamps) ∧
      (e.kind = 2 → ∀ x ∈ s.ownLines i, t.stamp x = ⟨g, g⟩ ∧ ∀ j, j < 64 →
        Memory.read t.mem (64 * x + j) = (fget s.wmem (64 * x + j)).getD (Memory.read s.mem (64 * x + j)))) ∧
  (∀ (s : State) (a : Act) (i : Nat) (d : BitVec 6) (l : Handle) (m : BitVec 2) (since : Word), let e := s.thandle i
    Spec.Waits s a (.tacq i d l m since) → s.arg.flag = false → Spec.waited s (s.arg.n / 8) since →
    ∃ t v u : State, exec .tenurewait s = .next u ∧ (t.thandle i).wait = false ∧ (t.thandle i).want = 0 ∧ (m = 1 → (t.thandle i).open_ = false) ∧
      Spec.Wakes t v s.arg.n a { a with pend := some { cause := .tenurewait, xval := Spec.valueOf i e, xpc := a.pc } } ∧ Spec.ButTables v u) ∧
  (∀ (s : State) (t : Word), let k := s.core s.arg.n
    s.arg.flag = false → s.parkedAt s.arg.n s.arg.m = none → k.stallSince = some t → k.stalled = true → Spec.waited s (s.arg.n / 8) t →
    exec .tenurewait s = .next (s.setCore s.arg.n { k with stalled := false, twait := true })) ∧
  (∀ s : State, let b := s.bteAt s.arg.n s.arg.m
    s.arg.flag = true → s.arg.m < 16 → b.state = 1 → b.cur ≠ none → s.engStopped s.arg.n b.core = false → b.owed = none → b.since ≠ 0 → Spec.waited s s.arg.n b.since →
    ∃ u : State, exec .tenurewait s = .next u ∧ u.bteAt s.arg.n s.arg.m = { b with owed := some (1, 9), hcause := 9, hstage := 2, haddr := b.waitAt, since := 0, put := false }) ∧
  (∀ s : State, let b := s.bteAt s.arg.n s.arg.m
    s.arg.flag = true → s.arg.m < 16 → b.state = 1 → b.cur ≠ none → s.engStopped s.arg.n b.core = false → b.owed ≠ none → b.waitStage = 4 → b.since ≠ 0 → Spec.waited s s.arg.n b.since →
    ∃ u : State, exec .tenurewait s = .next u ∧ u.bteAt s.arg.n s.arg.m =
      { state := 2, cause := 9, stage := 4, raddr := b.raddr, faddr := b.waitAt, bytes := b.bytes }) ∧
  (∀ s : State, let p := (fget s.pages s.arg.n).getD {}; let conflict := (∃ h ∈ p.holders, h ≠ s.arg.m) ∧ (p.write = true ∨ s.arg.flag = true)
    (s.deadModule s.arg.m = true → exec .pageRecall s = .next s) ∧
    (conflict → s.deadModule s.arg.m = false → exec .pageRecall s = .next { s with pages := fset s.pages s.arg.n { p with recalled := true } }) ∧
    (¬ conflict → p.recalled = false → s.arg.m ≠ s.modId → Spec.Alive s → ∃ (g : Time) (u : State), exec .pageRecall s = .next u ∧
      u = { s with pages := u.pages, plant := { s.plant with peers := u.plant.peers } } ∧ (∃ x, fget u.plant.peers s.arg.m = some x ∧ x.act = true) ∧
      u.pages = fset s.pages s.arg.n { p with holders := s.arg.m :: p.holders.filter (fun h => h != s.arg.m), write := s.arg.flag, stamp := g } ∧
      ((∀ q ∈ s.stamps, q.1 / 1024 ≠ s.arg.n) →
        g = tmax s.stampBase (BitVec.ofNat 48 s.arg.data.toNat) + BitVec.ofNat 48 (2 ^ (8 + s.arg.k % 23)))) ∧
    (¬ conflict → p.recalled = false → s.arg.m = s.modId → 2 ^ 56 ≤ s.arg.n * 65536 → s.arg.n * 65536 < 2 ^ 60 → Spec.Alive s →
      ∃ u : State, exec .pageRecall s = .next u ∧ u = { s with pages := u.pages, cores := u.cores, plant := { s.plant with peers := u.plant.peers } } ∧
        u.pages = fset s.pages s.arg.n { p with holders := [s.modId], write := s.arg.flag })) ∧
  (∀ s : State, let p := (fget s.pages s.arg.n).getD {}; let left := p.holders.filter (fun h => h != s.arg.m)
    p.recalled = true → s.arg.m ∈ p.holders → s.arg.m ≠ s.modId →
    (s.arg.bytes = [] → s.succs = [] → ∃ u : State, exec .pageReturn s = .next u ∧ u.mem = s.mem ∧
      u.pages = if left = [] then ferase s.pages s.arg.n else fset s.pages s.arg.n { p with holders := left }) ∧
    (let key := s.arg.n * 65536 + s.arg.k % 4096 * 16
     p.write = true → s.arg.bytes.length = 16 → s.arg.msg = none → key < 2 ^ 38 →
     ∃ u : State, exec .pageReturn s = .next u ∧ u.pages = s.pages ∧ Memory.readN u.mem key 16 = s.arg.bytes ∧
       (∀ x, x < key ∨ key + 16 ≤ x → Memory.read u.mem x = Memory.read s.mem x) ∧ u.rdTag false (key / 16) = 0 ∧
       u.full false key = !s.arg.flag ∧ u.stamp (key / 64) = ⟨BitVec.ofNat 48 s.arg.data.toNat, BitVec.ofNat 48 s.arg.word.toNat⟩))

/-- The arbiter grants the queue of R205, and a grant adds its chunk's products to the accumulator; MZERO, MLOAD, MSTORE and a finished MMA leave
their queue with what R203 and R213 give (R109, R203 to R205, R213). The model's own choices here: logs 13 and 28. -/
def Obligations.MatrixWork : Prop :=
  (∀ s : State, (∀ q, q < 8 → (Spec.queueOf s s.arg.n q).waits = false) →
    exec .mxeGrant s = .next (s.setCluster s.arg.n { s.cluster s.arg.n with mxEnd := 0 })) ∧
  (∀ (s : State) (q used : Nat), let n := s.arg.n
    (s.cluster n).mxEnd = 0 → (s.cluster n).pick (fun r => s.engStopped n (8 * n + r)) = some (q, used) →
    ∃ u : State, exec .mxeGrant s = .next u ∧ (u.cluster n).mxTurn = q ∧ (u.cluster n).mxUsed = used ∧ u.mem = s.mem) ∧
  (∀ (s : State) (q : Nat) (m : MxCmd), let n := s.arg.n
    Spec.Turn s q → (Spec.queueOf s n q).active = some m → q < 8 →
    (∀ ps, m.core / 8 = n → tFmt m.a.rcd = 4 → m.done < m.unitEnd m.done →
      s.mxBlock m ((List.range (m.unitEnd m.done - m.done)).map (fun i => m.done + i)) = .ok ps → m.lab = 0 →
      ((s.cluster n).accs[m.acc.toNat]'m.acc.isLt).lab = 0 → (∀ x ∈ (s.on m.core).mxTags ps, x = .h 0 ∨ x = .l (some [0])) →
      ∃ u : State, exec .mxeGrant s = .next u ∧ (Spec.queueOf u n q).active = some { m with begun := true, done := m.unitEnd m.done } ∧
        ((u.cluster n).accs[m.acc.toNat]'m.acc.isLt).kdone = m.unitEnd m.done ∧ ((u.cluster n).accs[m.acc.toNat]'m.acc.isLt).v = true ∧
        ∀ i j, i < 32 → j < 32 → Spec.accElem u n m.acc i j = if i < m.rows ∧ j < m.cols then
          Spec.wrap 32 (Spec.accElem s n m.acc i j + (ps.map (fun p => let a := p.1.getD i {}; let b := p.2.getD j {}
            if a.pruned ∨ b.pruned then 0 else Spec.sgn 8 (a.code % 256) * Spec.sgn 8 (b.code % 256))).sum)
          else Spec.accElem s n m.acc i j)) ∧
  (∀ (s : State) (m : MxCmd), let n := s.arg.n; let acc := fun (t : State) => (t.cluster n).accs[m.acc.toNat]'m.acc.isLt
    Spec.Completing s m →
    (m.kind = .mzero → ∃ u : State, exec .mxeCommandComplete s = .next u ∧ Spec.Swapped s u ∧ u.mem = s.mem ∧
      acc u = { acc s with vals := [], lab := m.lab, kdone := 0, v := false, pfl := (acc s).pfl ||| (Spec.psAt s n m.lab >>> 8).setWidth 9 }) ∧
    (m.kind = .mma ∨ m.kind = .mmas → (m.done < m.kn → exec .mxeCommandComplete s = .next s) ∧
      (m.kn ≤ m.done → ∃ u : State, exec .mxeCommandComplete s = .next u ∧ Spec.Swapped s u ∧ u.mem = s.mem ∧ acc u = { acc s with v := false })) ∧
    (m.kind = .mload → Spec.PlainSpans s m → ∃ u : State, exec .mxeCommandComplete s = .next u ∧ Spec.Swapped s u ∧ u.mem = s.mem ∧
      (acc u).lab = 0 ∧ (acc u).v = false ∧ (acc u).kdone = 0 ∧ ∀ i j, i < 32 → j < 32 → Spec.accElem u n m.acc i j =
        ofBytes (((m.spans.flatMap (fun p => Memory.readN s.mem p.1 p.2.2)).drop (4 * (32 * i + j))).take 4)) ∧
    (m.kind = .mstore → Spec.PlainSpans s m → ∃ u : State, exec .mxeCommandComplete s = .next u ∧ Spec.Swapped s u ∧ acc u = { acc s with wmax := (acc u).wmax } ∧
      u.mem = m.spans.foldl (fun mem p => Memory.writeN mem p.1
        ((((List.range 1024).flatMap (fun x => toBytes 4 (Spec.accElem s n m.acc (x / 32) (x % 32)))).drop p.2.1).take p.2.2)) s.mem))

/-- COPY, FILL, COUNTED and FEMARK move one destination unit, or end; a TILE moves its box; at the end a record gets its completion entry, and OWN,
the next record or the halt as R285 gives (R131, R283 to R287, R431). The model's own choices here: logs 17 and 59. -/
def Obligations.TransfersMove : Prop :=
  (∀ (s : State) (b : Bte) (r : Line), let len := lf r 256 32; let n := Spec.nextUnit (lw r 192) len b.pos
    let src := lw r 128 + BitVec.ofNat 64 b.pos; let dst := lw r 192 + BitVec.ofNat 64 b.pos
    Spec.RunsRecord s b r 0 → lw r 448 = 0 → Spec.PortionOf s b.core src n → Spec.PortionOf s b.core dst n →
    ∃ u : State, exec .copy s = .next u ∧ Spec.Advances s u b n len ∧ Spec.Stores s u (Spec.keyIn b.core dst) (Memory.readN s.mem (Spec.keyIn b.core src) n)) ∧
  (∀ (s : State) (b : Bte) (r : Line), let len := (lw r 256).toNat; let n := Spec.nextUnit (lw r 192) len b.pos; let dst := lw r 192 + BitVec.ofNat 64 b.pos
    Spec.RunsRecord s b r 2 → lw r 448 = 0 → len ≠ 0 → Spec.PortionOf s b.core dst n →
    ∃ u : State, exec .fill s = .next u ∧ Spec.Advances s u b n len ∧ Spec.Stores s u (Spec.keyIn b.core dst) (Spec.patternBytes (lw r 128) b.pos n)) ∧
  (∀ (s : State) (b : Bte) (r : Line), let flag := lw r 128; let cnt := lw r 192; let full := s.full false (Spec.keyIn b.core flag)
    Spec.RunsRecord s b r 3 → b.count = none → Spec.PortionOf s b.core flag 8 → flag.toNat % 8 = 0 → Spec.PortionOf s b.core cnt 4 →
    (full = false → exec .counted s = .next s) ∧
    (full = true → ofBytes (Memory.readN s.mem (Spec.keyIn b.core cnt) 4) = 0 →
      ∃ u : State, exec .counted s = .next u ∧ u.mem = s.mem ∧ (u.bteAt s.arg.n s.arg.m).owed = some (0, 0) ∧ (u.bteAt s.arg.n s.arg.m).count = some 0)) ∧
  (∀ (s : State) (b : Bte) (r body : Line) (c : Nat), let len := (lw body 256).toNat
    let dst := lw body 192 + BitVec.ofInt 64 (b.iter * (BitVec.ofNat 32 (lf r 352 32)).toInt); let n := Spec.nextUnit dst len b.pos
    Spec.RunsRecord s b r 3 → b.count = some c → b.body = some body → lf body 64 3 = 2 → lw body 448 = 0 → len ≠ 0 → Spec.PortionOf s b.core (dst + BitVec.ofNat 64 b.pos) n →
    ∃ u : State, exec .counted s = .next u ∧ Spec.Stores s u (Spec.keyIn b.core (dst + BitVec.ofNat 64 b.pos)) (Spec.patternBytes (lw body 128) b.pos n) ∧
      (let d := u.bteAt s.arg.n s.arg.m
       d.bytes = b.bytes + BitVec.ofNat 32 n ∧
       if b.pos + n < len then d.pos = b.pos + n ∧ d.iter = b.iter ∧ d.owed = none
       else if b.iter + 1 < c then d.pos = 0 ∧ d.iter = b.iter + 1 ∧ d.owed = none else d.owed = some (0, 0))) ∧
  (∀ (s : State) (b : Bte) (r : Line), Spec.RunsRecord s b r 4 → Spec.PortionOf s b.core (lw r 128) 1 →
    ∃ u : State, exec .femark s = .next u ∧ u.mem = s.mem ∧ u.full false (Spec.keyIn b.core (lw r 128)) = true ∧ (u.bteAt s.arg.n s.arg.m).owed = some (0, 0)) ∧
  (∀ (s : State) (b : Bte) (r : Line), let t := b.tcopy; let box := BitVec.ofNat 256 (ofBytes (Memory.readN s.mem (Spec.keyIn b.core (lw r 256)) 32))
    let count := ((List.range 4).map (Spec.boxDim box)).prod; let w := tBytes t
    Spec.RunsRecord s b r 1 → r.getLsbD 144 = false → lw r 448 = 0 → lw r 320 = 0 → t ≠ 0 → tFmt t ≤ 6 → tPack t = false → tKeep t = 0 → (∀ k, k < 4 → tCirc t k = false) →
    Spec.PortionOf s b.core (lw r 256) 32 → boxMalformed t box = false → Spec.PortionOf s b.core (lw r 192) (count * w) →
    (∀ n, n < count → Spec.PortionOf s b.core (Spec.boxAddr t box n) w ∧
      ∀ k, k < 4 → tExt t k ≠ 0 → 0 ≤ bOrg box k + Spec.offsetOf box n k ∧ bOrg box k + Spec.offsetOf box n k < tExt t k) →
    ∃ u : State, exec .tile s = .next u ∧ (u.bteAt s.arg.n s.arg.m).owed = some (0, 0) ∧ (u.bteAt s.arg.n s.arg.m).bytes = b.bytes + BitVec.ofNat 32 (count * w) ∧
      Spec.Stores s u (Spec.keyIn b.core (lw r 192)) ((List.range count).flatMap (fun n => Memory.readN s.mem (Spec.keyIn b.core (Spec.boxAddr t box n)) w))) ∧
  (∀ (s : State) (b : Bte) (r : Line), let k := Spec.keyIn b.core b.raddr; let ring := lw r 384
    Spec.Owes s b r 0 0 → (ring = 0 ∨ r.getLsbD 68 = false) →
    ∃ u : State, exec .completionRecord s = .next u ∧ Spec.Stores s u (k + 8) [Memory.read s.mem (k + 8) &&& 0xF7] ∧ Spec.FlagsReach s u b ∧
      (lw r 0 = 0 → u.bteAt s.arg.n s.arg.m = Spec.channelAfter b) ∧
      (lw r 0 ≠ 0 → let d := u.bteAt s.arg.n s.arg.m; d.state = 1 ∧ d.raddr = lw r 0 ∧ d.cur = none ∧ d.owed = none ∧ d.queued = b.queued)) ∧
  (∀ (s : State) (b : Bte) (r : Line) (st c : Byte), let k := Spec.keyIn b.core b.raddr
    Spec.Owes s b r st c → (st = 1 ∨ st = 2) → b.fc = false → lw r 384 = 0 →
    ∃ u : State, exec .completionRecord s = .next u ∧ Spec.Stores s u (k + 9) [c] ∧ Spec.FlagsReach s u b ∧
      u.bteAt s.arg.n s.arg.m = { state := 2, cause := b.hcause, stage := b.hstage, raddr := b.raddr, faddr := b.haddr, bytes := b.bytes }) ∧
  (∀ (s : State) (b : Bte) (r : Line), let ring := lw r 384; let h := ofBytes (Memory.readN s.mem (Spec.keyIn b.core ring) 32)
    let base : Word := BitVec.ofNat 64 h; let size := 2 ^ (h / 2 ^ 64 % 16); let head := h / 2 ^ 128 % 2 ^ 64; let tail := h / 2 ^ 192
    let x := base + BitVec.ofNat 64 (head % size * 16)
    Spec.Owes s b r 3 0 → ring ≠ 0 → ring.toNat % 32 = 0 → Spec.PortionOf s b.core ring 32 → base.toNat % 16 = 0 → Spec.PortionOf s b.core x 16 →
    (size ≤ (head + 2 ^ 64 - tail) % 2 ^ 64 → ∃ u : State, exec .completionRecord s = .next u ∧ u.mem = s.mem ∧ u.bteAt s.arg.n s.arg.m = b) ∧
    ((head + 2 ^ 64 - tail) % 2 ^ 64 < size → x.toNat + 16 ≤ ring.toNat ∨ ring.toNat + 32 ≤ x.toNat →
      ∃ u : State, exec .completionRecord s = .next u ∧ Memory.readN u.mem (Spec.keyIn b.core x) 16 = Spec.completion s b 3 0 ∧
        Memory.readN u.mem (Spec.keyIn b.core (ring + 16)) 8 = toBytes 8 (head + 1) ∧ Spec.FlagsReach s u b ∧ u.bteAt s.arg.n s.arg.m = Spec.channelAfter b))

/-- A collective exchanges once every member is there, and gives each member the fold, the concatenation or the root's block; it writes DST and its
completion record; the watchdog ends it, and an end notice ends the other members (R289, R290, R422, R423). The model's own choices here: log 19. -/
def Obligations.Collectives : Prop :=
  (∀ (s : State) (x : Coll) (group : List Nat), Spec.Gathers s x group →
    (∀ e ∈ group, ∀ y, Spec.mate s x e = some y → Spec.WellFormedColl s y) →
    (∀ e ∈ group, Spec.mate s x e = none → ∃ u : State, exec .collectiveExchange s = .next u ∧ u.mem = s.mem ∧
      ∀ k, (u.cluster k).colls.map (fun y => (y.seq, y.data, y.ending)) = (s.cluster k).colls.map (fun y => (y.seq, y.data, y.ending))) ∧
    (∀ blocks, s.arg.flag = false →
      (∀ e ∈ group, ∃ y, Spec.mate s x e = some y ∧ s.collLive y.core = true ∧ collKey y.rcd = collKey x.rcd ∧ s.collGroup y = .ok group) →
      (∀ e ∈ group, ∀ f ∈ group, ∀ y z, Spec.mate s x e = some y → Spec.mate s x f = some z → y.seq = z.seq → y.core / 8 = z.core / 8 → y = z) →
      s.collBlocks (if collOp x.rcd = 1 then collMembers x.rcd * collCount x.rcd * collSize x.rcd else collCount x.rcd * collSize x.rcd)
        ((List.range group.length).zip (group.map (Spec.mate s x))) s.arg.bytes s.arg.srcs = .ok blocks →
      ∃ u : State, exec .collectiveExchange s = .next u ∧ u.mem = s.mem ∧ ∀ e ∈ group, ∀ y, Spec.mate s x e = some y →
        ∃ z ∈ (u.cluster (y.core / 8)).colls, ∃ d, z.seq = y.seq ∧ z.data = some d ∧
          (collOp x.rcd = 2 → d.map (·.val) = blocks.flatten.map (·.val)) ∧
          (collOp x.rcd = 3 → d.map (·.val) = (blocks.getD (collRoot x.rcd) []).map (·.val)) ∧
          (collOp x.rcd = 0 → collType x.rcd = 4 → collRed x.rcd = 0 → (∀ b ∈ blocks, b.length = 4 * collCount x.rcd) →
            d.map (·.val) = (List.range (collCount x.rcd)).flatMap (fun i =>
              toBytes 4 ((blocks.map (fun b => ofBytes (((b.drop (4 * i)).take 4).map (·.val)))).sum % 2 ^ 32))))) ∧
  (∀ (s : State) (x : Coll), s.collAt s.arg.n s.arg.m = some x → x.data = none → x.ending = none → x.kept = false → s.collLive x.core = true → x.core / 8 = s.arg.n →
    collBad x.rcd = true → ∃ u : State, exec .collectiveExchange s = .next u ∧ u.mem = s.mem ∧
      ∃ z ∈ (u.cluster s.arg.n).colls, z.seq = x.seq ∧ z.ending = some (2, 1)) ∧
  (∀ (s : State) (x : Coll) (head : Nat) (place : Word) (st c : Byte), Spec.RingReady s x head place → x.ending = some (st, c) → st.toNat < 3 ∨ 5 < st.toNat →
    ∃ u : State, exec .collectiveComplete s = .next u ∧ Spec.Reports s u x head place st c 0) ∧
  (∀ (s : State) (x : Coll) (head : Nat) (place : Word) (d : List CByte), let dst := lw x.rcd 192
    Spec.RingReady s x head place → x.ending = none → x.kept = false → x.data = some d → (∀ p ∈ d, ∀ a ∈ p.srcs, a.2 = some [0]) → Spec.PortionOf s x.core dst d.length →
    Spec.Apart dst d.length (lw x.rcd 384) 32 → Spec.Apart dst d.length place 16 →
    ∃ u : State, exec .collectiveComplete s = .next u ∧ Spec.Reports s u x head place 0 0 d.length ∧
      Memory.readN u.mem (Spec.keyIn x.core dst) d.length = d.map (·.val)) ∧
  (∀ (s : State) (x : Coll) (group : List Nat), let limit := (s.cluster s.arg.n).clwdog.toNat % 2 ^ 24
    s.collAt s.arg.n s.arg.m = some x → x.ending = none → x.kept = false → s.collLive x.core = true → x.core / 8 = s.arg.n → limit ≠ 0 →
    limit * Config.cyclesPerUs ≤ (s.clock - x.since).toNat → s.collGroup x = .ok group →
    ∃ u : State, exec .haltedpeer s = .next u ∧ u.mem = s.mem ∧ (∃ z ∈ (u.cluster s.arg.n).colls, z.seq = x.seq ∧ z.ending = some (4, 0)) ∧
      ∀ e ∈ group, s.collSlot x e = true → ∀ y, s.collLeft (e % 2 ^ 14) (collTag x.rcd) = some y → (y.seq ≠ x.seq ∨ y.core / 8 ≠ s.arg.n) →
        ∃ z ∈ (u.cluster (y.core / 8)).colls, z.seq = y.seq ∧ z.notice = true) ∧
  (∀ (s : State) (x : Coll), s.collAt s.arg.n s.arg.m = some x → x.ending = none → x.core / 8 = s.arg.n → (x.notice = true ∨ s.arg.flag = true) →
    ∃ (u : State) (z : Coll), exec .endNotice s = .next u ∧ u.mem = s.mem ∧ z ∈ (u.cluster s.arg.n).colls ∧ z.seq = x.seq ∧
      (s.collLive x.core = true → z.ending = some (if x.kept then 5 else 4, 0)) ∧ (s.collLive x.core = false → z.notice = true ∧ z.kept = true))

/-- The commands of a cut record: CUT, the stop of each core, the waves that close it, SAVE, RESTORE, RESUME, completion and notice (R360 to R363,
R365, R367). The model's own choices here: logs 20, 21 and 24. -/
def Obligations.Cuts : Prop :=
  (∀ s : State, let c := s.cutOf s.arg.n
    (c.state = 0 → c.busy = false → exec .cut s = .next (s.setCut s.arg.n { c with state := 1, since := s.clock, color := s.me.color.getLsbD 0 })) ∧
    (c.state ≠ 0 → exec .cut s = .next s)) ∧
  (∀ s : State, let k := s.core s.arg.n; let t := k.tslot.toNat
    (t ≠ 0 → (s.cutOf t).state = 1 → k.stopReq = false → k.halted = false → s.inSub t s.arg.n = true →
      exec .stopRequest s = .next (s.setCore s.arg.n { k with stopReq := true })) ∧
    (k.halted = true ∨ (s.cutOf t).state ≠ 1 → exec .stopRequest s = .next s)) ∧
  (∀ s : State, let k := s.core s.arg.n; let gen := (s.cutOf k.tslot.toNat).gen + 1
    k.stopReq = true → k.halted = false → k.color.getLsbD 1 = false → k.running = false → (∀ a ∈ k.ready, a.outs = [] ∧ a.park = none ∧ a.inStop = false) →
    (k.parked = [] → ∃ w : Word, exec .coreStopped s = .next (s.setCore s.arg.n { k with color := w }) ∧
      w.getLsbD 0 = !k.color.getLsbD 0 ∧ w.getLsbD 1 = true ∧ w.toNat / 2 ^ 8 = gen.toNat) ∧
    (∀ a till, k.parked = [a] → a.park = some (.sleep till) → a.outs = [] → a.inStop = false → ∃ u : State, exec .coreStopped s = .next u ∧ u.mem = s.mem ∧
      (u.core s.arg.n).parked = [] ∧ (u.core s.arg.n).ready = k.ready ++ [{ a with park := none, re := true, readyAt := s.clock }] ∧
      (u.core s.arg.n).running = false ∧ (u.core s.arg.n).color.getLsbD 1 = true)) ∧
  (∀ s : State, let t := s.arg.n; let c := s.cutOf t; let cores := (s.subCores t).map s.core
    let sent := (cores.map (·.sentOld)).sum; let recv := (cores.map (·.recvOld)).sum
    let c1 : Cut := { c with sent := BitVec.ofNat 64 sent, recv := BitVec.ofNat 64 recv }
    (c.state ≠ 1 → exec .cutWave s = .next s) ∧
    (c.state = 1 → (∀ k ∈ cores, k.color.getLsbD 1 = true) → sent = recv →
      exec .cutWave s = .next (s.setCut t { c1 with state := 2, gen := c.gen + 1, owed := c.owed ++ [(1, false)] })) ∧
    (c.state = 1 → (∃ k ∈ cores, k.color.getLsbD 1 = false) ∨ sent ≠ recv → exec .cutWave s = .next (s.setCut t c1))) ∧
  (∀ s : State, let k := s.core s.arg.n; let c := s.cutOf k.tslot.toNat
    let t := ({ s with cur := s.arg.n }).setCore s.arg.n { k with stalled := false, stallSince := none, twait := false }
    k.stopReq = true → k.running = true → k.halted = false → k.act.pend = none → c.limit ≠ 0 → c.limit.toNat * Config.cyclesPerUs ≤ (s.clock - c.since).toNat →
    Spec.CanTrap t .stop →
    ∃ w : State, Spec.TrapTaken t w .stop (BitVec.ofNat 64 c.gen.toNat) (if k.act.elect = none then k.act.pc else k.act.pc - 4) ∧
      exec .stop s = .next { w with cur := s.cur }) ∧
  (∀ s : State, let t := s.arg.n; let c := s.cutOf t; let b : Cut := { c with busy := true, err := false, cmd := 2, color := s.me.color.getLsbD 0 }; let busy := s.setCut t b
    c.state = 2 → c.busy = false →
    ((∃ i ∈ s.subCores t, (s.core i).ctxbase.getLsbD 0 = false) →
      exec .save s = .next (busy.setCut t { b with err := true, cmd := 0, owed := c.owed ++ [(2, true)] })) ∧
    (∀ w, (∀ i ∈ s.subCores t, (s.core i).ctxbase.getLsbD 0 = true ∧ (s.core i).chbase.getLsbD 0 = true) → busy.saveCores (s.subCores t) = some w →
      ∃ u : State, exec .save s = .next u ∧ (u.cutOf t).owed = c.owed ++ [(2, false)] ∧ (u.cutOf t).err = false ∧ u.ctx = w.ctx ∧
        ∀ i ∈ s.subCores t, (u.core i).running = false ∧ (u.core i).parked = [] ∧ (u.core i).ready = [] ∧ (u.core i).queue = [] ∧
          (u.core i).chans = Vector.replicate 64 {} ∧ ∀ x, x < 2 ^ 18 → Memory.read u.mem (2 ^ 39 + i / 8 * 2 ^ 21 + i % 8 * 2 ^ 18 + x) = 0)) ∧
  (∀ s : State, let t := s.arg.n; let c := s.cutOf t; let b : Cut := { c with busy := true, err := false, cmd := 3, color := s.me.color.getLsbD 0 }; let busy := s.setCut t b
    c.state = 3 → c.busy = false →
    (busy.restoreCores t (s.subCores t) = none →
      exec .restore s = .next (busy.setCut t { b with err := true, cmd := 0, owed := c.owed ++ [(3, true)] })) ∧
    (∀ w, busy.restoreCores t (s.subCores t) = some w → ∃ u : State, exec .restore s = .next u ∧ u.cores = w.cores ∧ u.mem = w.mem ∧ (u.cutOf t).owed = (w.cutOf t).owed ++ [((w.cutOf t).cmd, false)])) ∧
  (∀ s : State, let c := s.cutOf s.arg.n
    (c.state = 2 → c.busy = false → ∃ u : State, exec .resume s = .next u ∧ (u.cutOf s.arg.n).state = 0 ∧ (u.cutOf s.arg.n).owed = c.owed ++ [(4, false)] ∧
      ∀ i ∈ s.subCores s.arg.n, (u.core i).stopReq = false ∧ (u.core i).color.getLsbD 1 = false ∧ (u.core i).sentOld = (s.core i).sentNew ∧ (u.core i).recvOld = (s.core i).recvNew ∧
        (u.core i).sentNew = 0 ∧ (u.core i).recvNew = 0) ∧
    (c.state ≠ 2 → exec .resume s = .next s)) ∧
  (∀ (s : State) (cmd : BitVec 3) (bad : Bool) (l : List (BitVec 3 × Bool)), let t := s.arg.n; let c := s.cutOf t
    let st : BitVec 2 := if cmd ≠ 2 ∧ cmd ≠ 3 ∨ bad then c.state else if cmd = 2 then 3 else 2
    let done := s.setCut t { c with owed := l, busy := c.busy && cmd != 2 && cmd != 3, state := st }
    c.owed = (cmd, bad) :: l →
    (c.notify = 0 → exec .cutCommandComplete s = .next done) ∧
    (c.notify ≠ 0 → badTarget c.notify = false → c.notify.getLsbD 38 = false → ∃ (u : State) (m : Msg), exec .cutCommandComplete s = .next u ∧
      u = { done with net := s.net ++ [m], cores := u.cores } ∧
      m.core = c.notify.toNat % 2 ^ 14 ∧ m.chan.toNat = c.notify.toNat / 2 ^ 32 % 64 ∧ m.dmod.toNat = c.notify.toNat / 2 ^ 16 % 2 ^ 13 ∧
      m.payload = [BitVec.ofNat 8 cmd.toNat, c.gen, if (if cmd = 2 ∨ cmd = 3 then bad else c.err) then 1 else 0] ++ List.replicate 13 0))

/-- A tenant record is stored as R376 and R377 allow, and applied to every core; a fabric message is refused, held or delivered under the slot of its
DTID; a register of space 0xA takes a store (R14, R22, R360, R377, R381). The model's own choices here: logs 22, 25 and 43. -/
def Obligations.TenantsAndRegisters : Prop :=
  (∀ s : State, let t := s.arg.n; let r := s.arg.rcd &&& ~~~ (2 : Line)
    let taken := { s with plant := { s.plant with tenants := fset s.plant.tenants t r, applied := s.plant.applied.filter (fun i => i != t) } }
    let stay := s.port.filter (fun m => (taken.slotOf m.dtid.toNat).isSome); let gone := s.port.length - stay.length
    (Spec.MayStore s t r → ((s.tenant t).getLsbD 0 = false ∨ r.getLsbD 0 = true) → ∃ u : State, exec .tenantRecordWrite s = .next u ∧
      u = { taken with port := stay, portRefused := u.portRefused } ∧ (s.portRefused.toNat + gone ≤ 0xFFFF → u.portRefused.toNat = s.portRefused.toNat + gone)) ∧
    (Spec.MayStore s t r → (s.tenant t).getLsbD 0 = true → r.getLsbD 0 = false →
      ∃ u : State, exec .tenantRecordWrite s = .next u ∧
        u = { taken with clusters := u.clusters, dlt := u.dlt, jobs := u.jobs, port := stay, portRefused := u.portRefused } ∧
        (s.portRefused.toNat + gone ≤ 0xFFFF → u.portRefused.toNat = s.portRefused.toNat + gone) ∧
        (u.job t).counters = [] ∧ (u.job t).lab = {} ∧ (∀ d, u.jobLab t d = {}) ∧ (∀ k i e, fget (u.cluster k).clt i = some e → e.tslot.toNat ≠ t) ∧
        ∀ k i e, fget (s.cluster k).clt i = some e → e.tslot.toNat ≠ t → fget (u.cluster k).clt i = some e) ∧
    (¬ Spec.MayStore s t r → exec .tenantRecordWrite s = .next s)) ∧
  (∀ s : State, let t := s.arg.n; let r := s.tenant t
    0 < t → t < 64 → t ∉ s.plant.applied → ∃ u : State, exec .applied s = .next u ∧ u.mem = s.mem ∧ t ∈ u.plant.applied ∧
      ∀ c, c < 9216 → u.core c =
        if Spec.inRecord r c ∧ (s.core c).tslot.toNat ≠ t then { s.core c with tslot := BitVec.ofNat 6 t, ptroot := BitVec.ofNat 64 (r.toNat / 2 ^ 64) &&& 0x7FFFFFFFFF001 }
        else if Spec.inRecord r c = false ∧ (s.core c).tslot.toNat = t then { s.core c with tslot := 0, ptroot := 0 } else s.core c) ∧
  (∀ (s : State) (m : FabricMsg), s.arg.msg = some m → s.portRefused.toNat < 0xFFFF →
    (s.slotOf m.dtid.toNat = none → exec .fabricArrival s = .next { s with portRefused := s.portRefused + 1 }) ∧
    (∀ t, s.slotOf m.dtid.toNat = some t → ((fget s.plant.peers m.smod.toNat).getD {}).dead = true →
      exec .fabricArrival s = .next { s with portRefused := s.portRefused + 1 }) ∧
    (∀ t, s.slotOf m.dtid.toNat = some t → ((fget s.plant.peers m.smod.toNat).getD {}).dead = false → m.core < 9216 → m.chan < 64 → m.payload.length ≤ 256 →
      ((s.cutOf t).state ≠ 0 → exec .fabricArrival s = .next { s with port := s.port ++ [m] }) ∧
      ((s.cutOf t).state = 0 → s.port = [] → m.done = true →
        ∃ w : State, exec .fabricArrival s = .next (w.lowerCounter t m.ctr.toNat m.time false 4) ∧ w = { s with plant := w.plant }) ∧
      ((s.cutOf t).state = 0 → s.port = [] → m.done = false → m.freed = true → ∃ u : State, exec .fabricArrival s = .next u ∧
        u = { s with plant := u.plant, cores := u.cores } ∧ ∀ c, (∃ p ∈ s.cores, p.1 = c) →
          u.core c = { s.core c with chans := (s.core c).chans.map (fun ch =>
            if ch.level = m.ctr ∧ ch.lslot = t ∧ ch.lhome = some m.smod.toNat then { ch with level := 0 } else ch) }) ∧
      (∀ k envs, (s.cutOf t).state = 0 → s.port = [] → m.done = false → m.freed = false → m.lop = some (k, envs) → ∃ (u : State) (o : LabOp),
        exec .fabricArrival s = .next u ∧ u = { s with plant := u.plant, jobs := u.jobs, nextOp := o.id + 1, labOps := s.labOps ++ [o] } ∧
        o.kind = ([.assume, .retire, .commit, .lscrub, .nogood] : List LabKind).getD k .nogood ∧ o.tslot = t ∧ o.envs = envs ∧ o.status = 0 ∧ o.dies = [0, 1, 2, 3, 4, 5, 6, 7] ∧ o.time = m.time ∧
        (u.job t).lab = applyLab o.kind envs (s.job t).lab) ∧
      ((s.cutOf t).state = 0 → s.port = [] → m.done = false → m.freed = false → m.lop = none → m.start = false → m.succ = false → ∃ (u : State) (x : Msg), exec .fabricArrival s = .next u ∧
        u = { s with plant := u.plant, net := s.net ++ [x], fabSeq := s.fabSeq + 1 } ∧
        x.core = m.core ∧ x.chan.toNat = m.chan ∧ x.payload = m.payload ∧ x.lab = m.label ∧ x.smod = m.smod ∧ x.tslot = t ∧ x.time = m.time))) ∧
  (∀ (s : State) (t : Nat) (v : Word), let c := s.cutOf t
    t < 64 → s.arg.bytes = toBytes 8 v.toNat → s.arg.word.toNat = 0xA600000000000000 + t * 0x40 + 24 →
    exec .registerWrite s = .next (s.setCut t { c with notify := v })) ∧
  (∀ (s : State) (t : Nat) (v : Word), let c := s.cutOf t
    t < 64 → s.arg.bytes = toBytes 8 v.toNat → s.arg.word.toNat = 0xA600000000000000 + t * 0x40 → v.toNat % 8 = 1 → c.state = 0 → c.busy = false →
    ∃ u : State, exec .registerWrite s = .next u ∧ u = { s with jobs := u.jobs } ∧
      u.cutOf t = { c with state := 1, since := s.clock, limit := BitVec.ofNat 16 (v.toNat / 2 ^ 32), err := c.err && !v.getLsbD 7, color := s.me.color.getLsbD 0 }) ∧
  (∀ s : State, s.arg.word.toNat / 2 ^ 60 ≠ 10 → exec .registerWrite s = .next s)

/-- Errors count and poison; held damage records are written; three missed heartbeats make a module dead, until it is readmitted (R390, R393, R399,
R403, R406, R407). The model's own choices here: log 29. -/
def Obligations.ErrorsAndPeers : Prop :=
  (∀ s : State, let key := s.arg.word.toNat; let n := if 2 ^ 39 ≤ key ∧ key < 2 ^ 40 then (key - 2 ^ 39) / 2 ^ 21 else homeCluster key; let k := s.cluster n
    (s.arg.k = 0 → s.arg.flag = false → exec .patrolScrub s = .next (s.setCluster n { k with errcnt := bump k.errcnt 0 })) ∧
    (s.arg.k = 0 → s.arg.flag = true → s.arg.data.getLsbD 10 = false → ∃ u : State, exec .patrolScrub s = .next u ∧ u.rdTag false (key / 16) = 0xFFFF ∧
      (u.cluster n).errcnt = bump k.errcnt 1)) ∧
  (∀ (s : State) (r : BitVec 6), let k := s.core s.arg.n
    s.arg.k = 4 → s.arg.flag = true → s.arg.word.toNat = r.toNat → r ≠ 0 → k.running = true → k.act.slot = s.arg.m → k.act.trap = none →
    ∃ u : State, exec .patrolScrub s = .next u ∧ u.mem = s.mem ∧ (u.core s.arg.n).act.rd r = { val := (k.act.rd r).val, lab := 0xFFFF } ∧
      ∀ q, q ≠ r → (u.core s.arg.n).act.rd q = k.act.rd q) ∧
  (∀ s : State, ((fget s.plant.damage s.arg.n).getD [] = [] → exec .damageRecord s = .next s) ∧
    (∀ d t, (fget s.plant.damage s.arg.n).getD [] = [d] → s.tryDamage d.tslot d.rcd = (t, true) →
      exec .damageRecord s = .next { t with plant := { t.plant with damage := fset t.plant.damage s.arg.n [] } }) ∧
    (∀ d t, (fget s.plant.damage s.arg.n).getD [] = [d] → s.tryDamage d.tslot d.rcd = (t, false) →
      exec .damageRecord s = .next { t with plant := { t.plant with damage := fset t.plant.damage s.arg.n [d] } })) ∧
  (∀ s : State, let p := (fget s.plant.peers s.arg.n).getD {}
    (p.act = true → s.linked s.arg.n = true ∨ p.dead = true → exec .heartbeat s = .next { s with plant := { s.plant with
      peers := fset s.plant.peers s.arg.n { p with
        missed := if s.arg.flag then 0 else p.missed + 1, missedAt := if s.arg.flag = false ∧ p.missed = 2 then s.cycle 0 else p.missedAt } } }) ∧
    (p.act = true → s.linked s.arg.n = false → p.dead = false → exec .heartbeat s = .next { s with plant := { s.plant with
      peers := fset s.plant.peers s.arg.n { p with act := false, missed := 0 } } }) ∧
    (p.act = false → exec .heartbeat s = .next s) ∧
    (p.act = true → p.dead = false → 3 ≤ p.missed → ∃ u : State, exec .peerDead s = .next u ∧ u.deadModule s.arg.n = true) ∧
    (p.missed < 3 → exec .peerDead s = .next s) ∧
    (p.dead = true → ∃ u : State, exec .peerReadmit s = .next u ∧ u = { s with plant := u.plant } ∧ u.deadModule s.arg.n = false) ∧
    (p.dead = false → exec .peerReadmit s = .next s))

/-- A loss of supply raises PFAIL at the cores that take it, and ends, or opens the Storm Door, whose phases quiesce, write headers, copy and commit,
within 20 ms; a reset clears the module, and the boot ROM goes on with an accepted blob (R388, R408 to R415, R429). The model's own choices here: logs
6, 20, 30, 50 and 66. -/
def Obligations.LossOfSupply : Prop :=
  (∀ s : State, let st := s.plant.storm; let failing := Spec.withStorm s { st with phase := .failing, since := s.clock, loss := s.clock }
    st.phase = .up →
    ((∀ p ∈ s.cores, (s.core p.1).msquota.getLsbD 16 = false) → exec .pfail s = .next failing) ∧
    (∀ c k, s.cores = [(c, k)] → k.msquota.getLsbD 16 = true → k.pfDone = false → k.running = true → k.halted = false → k.act.pend = none →
      let t := ({ failing with cur := c }).setCore c { k with pfDone := true, stalled := false, stallSince := none, twait := false }
      Spec.CanTrap t .pfail → ∃ w : State, Spec.TrapTaken t w .pfail 2 (if k.act.elect = none then k.act.pc else k.act.pc - 4) ∧
        exec .pfail s = .next { w with cur := s.cur })) ∧
  (∀ s : State, let st := s.plant.storm
    (st.phase = .failing → ¬ Spec.lossHeld s → exec .supplyRestored s = .next { Spec.withStorm s { st with phase := .up } with
      cores := s.cores.map (fun p => (p.1, { p.2 with pfDone := false })) }) ∧
    (st.phase = .failing → ¬ Spec.lossHeld s → exec .stormDoorOpen s = .next s) ∧
    (st.phase = .failing → Spec.lossHeld s → exec .supplyRestored s = .next s ∧ exec .stormDoorOpen s = .next (Spec.withStorm s { st with
      phase := .doorOpen, doors := st.doors + 1, since := s.clock, writes := decide (Spec.doorStatus s 0 % 2 = 0), bank := decide (Spec.doorStatus s 0 / 8 % 2 = 1) })) ∧
    (st.phase = .doorOpen → exec .quiesce s = .next (Spec.withStorm s { st with phase := .quiesced }))) ∧
  (∀ s : State, let st := s.plant.storm
    st.phase = .quiesced →
    (st.writes = false → exec .headers s = .next (Spec.withStorm s { st with phase := .headers })) ∧
    (st.writes = true → Spec.Savable s → ∃ u : State, exec .headers s = .next u ∧ u.plant.storm.phase = .headers ∧ ∀ c, c < 9216 →
      let k := s.core c; let h := Spec.headerKey s c
      ((∃ p ∈ s.cores, p.1 = c) → k.mustSave ≠ [] → Memory.readN u.mem h 16 =
        toBytes 8 (0x5D01 + c * 2 ^ 16 + s.dtid k.tslot.toNat * 2 ^ 32 + charge k.mustSave * 2 ^ 48) ++ toBytes 8 st.doors) ∧
      (k.mustSave = [] → Memory.readN u.mem h 1024 = List.replicate 1024 0) ∧
      (∀ i, i < 16 → Memory.read u.mem (h + 1008 + i) = 0))) ∧
  (∀ s : State, let st := s.plant.storm; let c := s.arg.n; let h := Spec.headerKey s c
    st.phase = .headers →
    (∀ r : MustSave, s.arg.flag = false → st.writes = true → s.arg.k = 0 → s.arg.m = 0 → c < 9216 → (s.core c).mustSave = [r] → r.len.toNat ≤ 65536 →
      0 < r.len.toNat → r.len.toNat % 16 = 0 →
      (∀ i, i < r.len.toNat / 16 → r.key (16 * i) < 2 ^ 40 ∧ s.rdTag false (r.key (16 * i) / 16) = 0 ∧ s.tenureAt (r.key (16 * i) / 64) = none) →
      ∃ u : State, exec .copyPhase s = .next u ∧ u.plant = s.plant ∧ Memory.readN u.mem (Spec.mramKey (c / 4608) (Spec.bankAt s + s.chunkOff c)) r.len.toNat =
          (List.range (r.len.toNat / 16)).flatMap (fun i => Memory.readN s.mem (r.key (16 * i)) 16) ∧
        (Memory.read u.mem (h + 320)).getLsbD 0 = true ∧ (Memory.read u.mem (h + 448)).getLsbD 0 = true) ∧
    (s.arg.flag = true → ∃ u : State, exec .copyPhase s = .next u ∧ u.plant = { s.plant with storm := { st with phase := .copied } })) ∧
  (∀ s : State, let st := s.plant.storm; let us := (s.clock - st.since).toNat / Config.cyclesPerUs
    let word := fun (sill over_ : Nat) => toBytes 8 (1 + over_ + Spec.doorStatus s sill / 8 % 2 * 12 + us % 2 ^ 32 * 2 ^ 8)
    (st.phase = .copied → st.writes = false → exec .commitPhase s = .next (Spec.withStorm s { st with phase := .committed })) ∧
    (st.phase = .copied → st.writes = true → Spec.Savable s → ∃ u : State, exec .commitPhase s = .next u ∧ u.plant.storm.phase = .committed ∧
      ∀ sill, sill < 2 → Memory.readN u.mem (Spec.mramKey sill 0xEFFF000) 8 = word sill 0) ∧
    (Spec.doorBusy s → 20000 * Config.cyclesPerUs ≤ (s.clock - st.loss).toNat → ∃ u : State, exec .overrun s = .next u ∧ u.plant.storm.phase = .overrun ∧
      (st.writes = false → u.mem = s.mem) ∧ (st.writes = true → ∀ sill, sill < 2 → Memory.readN u.mem (Spec.mramKey sill 0xEFFF000) 8 = word sill 2)) ∧
    ((s.clock - st.loss).toNat < 20000 * Config.cyclesPerUs → exec .overrun s = .next s)) ∧
  (∀ s : State, (s.plant.boot.flash = none → ∃ u : State, exec .moduleReset s = .next u ∧ u.plant.boot.status = 1 ∧ u.cores = [] ∧ u.clusters = [] ∧
      u.plant.boot.floor = s.plant.boot.floor ∧ ∀ a, Memory.read u.mem a = if 2 ^ 44 ≤ a ∧ a < 2 ^ 44 + 2 ^ 29 ∨ 2 ^ 52 ≤ a then Memory.read s.mem a else 0) ∧
    (∀ x, s.plant.boot.flash = some x → Spec.Accepted s x → ∃ t u : State, exec .moduleReset s = .next u ∧ t.net = [] ∧ t.plant.boot.status = 0 ∧
      Spec.doorStatus t 0 = Spec.doorStatus s 0 ∧ Spec.Boots t u x))

/-- The host's accesses, its blobs, nonces and inbound entries; HALT, halting, resuming, scanning, tracing and telemetry (R335, R384, R386 to R389,
R416 to R420, R424 to R428). The model's own choices here: logs 6, 20, 30, 31, 32, 50 and 66. -/
def Obligations.HostAndDebug : Prop :=
  (∀ s : State, let t := s.haltCore false s.cur
    Spec.AtRest s → s.act.sup = true → exec .halt s = .next (t.finish s.npc) ∧ t.me.halted = true ∧
      ∀ k, (t.cluster k).dbg.frozen = (s.cluster k).dbg.frozen) ∧
  (∀ s : State, let b := s.plant.boot
    let boot := fun (y : Boot) => Host.Outcome.next (φ := Fault) (ρ := Refusal) { s with plant := { s.plant with boot := y } }
    let raw := Memory.readN s.mem (2 ^ 52 + b.blobAddr.toNat) b.blobLen.toNat
    (b.pending = none → b.status ≠ 1 ∨ b.blobRead = false → exec .blobMailbox s = .next s) ∧
    (b.pending = none → b.status = 1 → b.blobRead = true →
      (s.arg.blob = none → exec .blobMailbox s = boot { b with status := 2, blobRead := false }) ∧
      (∀ x, s.arg.blob = some x → x.raw = raw → ¬ Spec.Accepted s x → exec .blobMailbox s = boot { b with status := 2, blobRead := false }) ∧
      (∀ x, s.arg.blob = some x → x.raw = raw → Spec.Accepted s x → exec .blobMailbox s = boot { b with status := 3, blobRead := false, pending := some x })) ∧
    (∀ x, b.pending = some x → ∃ t u : State, exec .blobMailbox s = .next u ∧ t.net = s.net ∧
      t.plant.boot = { b with flash := some x, pending := none } ∧ t.mem = s.mem ∧ Spec.Boots t u x ∧ u.plant.boot.flash = some x)) ∧
  (∀ s : State, let b := s.plant.boot; let raw := match b.used with | some x => x.raw | none => []
    let body := sha384 raw ++ toBytes 4 s.modId ++ toBytes 4 b.floor.toNat ++ toBytes 8 (b.reports + 1).toNat ++ pairBytes identityKey
    (b.attCtl ≠ 1 → exec .attestationRequest s = .next s) ∧
    (b.attCtl = 1 → ∃ k : Nat, 1 ≤ k ∧ k < ecN ∧ exec .attestationRequest s = .next { s with plant := { s.plant with boot := { b with
      attCtl := 2, reports := b.reports + 1
      report := body ++ pairBytes (ecSign identityScalar (sha384 (Spec.fitTo 48 b.attNonce ++ body)) k) } } })) ∧
  (∀ s : State, let n := s.arg.m; let x := s.arg.word.toNat; let out := fun (t : State) (o : HostOut) => { t with plant := { t.plant with hostOut := o } }
    let inside := fun (w : Bool) (len : Nat) => ∃ p ∈ s.plant.hostwin, p.2.1.getLsbD 0 = true ∧ (w = true → p.2.1.getLsbD 1 = true) ∧
      p.2.1.toNat / 2 ^ 16 % 2 ^ 22 * 65536 ≤ x ∧ x + len ≤ p.2.1.toNat / 2 ^ 16 % 2 ^ 22 * 65536 + p.2.2.toNat % 2 ^ 32 * 65536
    s.arg.k = 0 →
    (s.arg.flag = false → ¬ inside false n → exec .hostAccess s = .next (out s { bytes := List.replicate n 0xFF, ur := true })) ∧
    (s.arg.flag = true → ¬ inside true s.arg.bytes.length → exec .hostAccess s = .next (out s {})) ∧
    (s.arg.flag = false → s.plant.boot.status = 0 → x + n ≤ 2 ^ 38 → inside false n → (∀ i, s.gOf i = none) → (∀ i, i ≤ n → s.rdTag false ((x + i) / 16) = 0) →
      ∃ u : State, exec .hostAccess s = .next u ∧ u.mem = s.mem ∧ u.plant.hostOut = { bytes := Memory.readN s.mem x n }) ∧
    (s.arg.flag = true → s.plant.boot.status = 0 → x + s.arg.bytes.length ≤ 2 ^ 38 → inside true s.arg.bytes.length → s.handles = [] → s.pages = [] →
      ∃ u : State, exec .hostAccess s = .next u ∧ Spec.Stores s u x s.arg.bytes ∧ u.cores = s.cores)) ∧
  (∀ s : State, exec .hostAtomicop s = .next { s with plant := { s.plant with hostOut := { ur := true } } }) ∧
  (∀ s : State, let b := s.plant.boot; let e := Memory.readN s.mem (2 ^ 52 + (b.inBase.toNat + b.inTail.toNat % 2 ^ b.inLog.toNat * 512)) 512
    let t : Word := BitVec.ofNat 64 (ofBytes (e.take 8)); let len := ofBytes ((e.drop 8).take 2)
    (b.inHead = b.inTail → exec .hostInboundPoll s = .next s) ∧
    (b.status = 0 → b.inBase ≠ 0 → b.inHead ≠ b.inTail → (b.inHead - b.inTail).toNat < 2 ^ 63 → badTarget t = false → t.getLsbD 38 = false → len ≤ 256 →
      56 ≤ t.toNat / 2 ^ 32 % 64 → ∃ (u : State) (m : Msg), exec .hostInboundPoll s = .next u ∧ u.plant.boot = { b with inTail := b.inTail + 1 } ∧
        u = { s with plant := u.plant, cores := u.cores, net := s.net ++ [m] } ∧ m.core = t.toNat % 2 ^ 14 ∧ m.chan.toNat = t.toNat / 2 ^ 32 % 64 ∧
        m.payload = (e.drop 32).take len ∧ m.sup = true ∧ m.tslot = 0 ∧ m.lab = some [0])) ∧
  (∀ s : State, let n := s.arg.n; let bit := fun (i : Nat) => s.arg.m / 2 ^ i % 2 = 1
    (∃ u : State, exec .hreq s = .next u ∧ u.mem = s.mem ∧ ∀ i, i < 8 →
      ((bit i ∨ (s.core (8 * n + i)).halted = true) → (u.core (8 * n + i)).halted = true) ∧
      ((s.cluster n).dbg.xten = 0 → ¬ bit i → u.core (8 * n + i) = s.core (8 * n + i))) ∧
    ((s.cluster n).dbg.scanned = true → exec .rreq s = .next s ∧ exec .step s = .next s) ∧
    ((s.cluster n).dbg.scanned = false → (∃ u : State, exec .rreq s = .next u ∧ ∀ i, i < 8 → bit i → (u.core (8 * n + i)).halted = false) ∧
      ∃ u : State, exec .step s = .next u ∧ ∀ i, i < 8 → bit i → (u.core (8 * n + i)).halted = false ∧
        ((s.core (8 * n + i)).halted = true → (u.core (8 * n + i)).stepping = true))) ∧
  (∀ s : State, let tap := fun (t : Tap) => Host.Outcome.next { s with plant := { s.plant with tap := t } }
    exec .bypass s = tap .bypass ∧ exec .idcode s = tap .idcode ∧ exec .samplePreload s = tap .samplePreload ∧ exec .extest s = tap .extest ∧
    exec .ieee1687Select s = tap (if s.plant.boot.debugOpen then .ieee1687 else .bypass)) ∧
  (∀ s : State, let k := s.cluster s.arg.n
    (s.plant.tap = .ieee1687 → s.arg.n < 1152 → k.dbg.frozen = true → (∀ i, i < 8 → (s.core (8 * s.arg.n + i)).halted = true) →
      exec .segmentInclude s = .next (s.setCluster s.arg.n { k with dbg := { k.dbg with scanned := true } })) ∧
    (s.plant.tap ≠ .ieee1687 ∨ k.dbg.frozen = false → exec .segmentInclude s = .next s)) ∧
  (∀ s : State, let d := (s.cluster s.arg.n).dbg
    (d.trring = 0 ∨ d.buffer = [] → exec .traceDrain s = .next s) ∧
    (∀ r l t h w, d.trring ≠ 0 → d.buffer = r :: l → s.ringAdd (8 * s.arg.n) d.trring r = some (t, h, w) →
      ∃ u : State, exec .traceDrain s = .next u ∧ u.mem = t.mem ∧ (u.cluster s.arg.n).dbg.buffer = l)) ∧
  (∀ s : State, let l := s.plant.louvre; let due := l.en = true ∧ l.lbase ≠ 0 ∧ l.period.toNat * Config.cyclesPerUs ≤ (s.clock - l.last).toNat
    (¬ due → exec .louvreStore s = .next s) ∧
    (∀ t, due → s.louvreStore = some t → exec .louvreStore s = .next t ∧ t.plant.louvre = { l with next := l.next + 1, last := s.clock })) ∧
  (∀ s : State, let d := s.arg.n; let old := s.dieTel d; let w := s.arg.word; let f := fun (lo : Nat) => w.toNat / 2 ^ lo % 2 ^ 16
    let p := f 0 * f 16; let eff := if d < 8 then Min.min old.cap.toNat (p / 100000 + f 48 - old.guard.toNat) else old.cap.toNat
    d < 10 → eff < 2 ^ 16 → ∃ y : DieTel, exec .telemetryRefresh s = .next { s with plant := { s.plant with dies := fset s.plant.dies d y } } ∧
      y.vin.toNat = f 0 ∧ y.iin.toNat = f 16 ∧ y.temp.toNat = f 32 ∧ (d < 8 → y.bmarg.toNat = f 48) ∧ y.seq = old.seq + 1 ∧
      y.capeff.toNat = eff ∧ y.thr = decide (eff * 100000 < p) ∧ y.cap = old.cap ∧ y.guard = old.guard) ∧
  (∀ s : State, let l := s.arg.n; let x := s.lane l; let w := s.arg.word; let hm := w.toNat % 256; let vm := w.toNat / 256 % 256
    let warn := x.warn || decide (hm < x.hwarn.toNat) || decide (vm < x.vwarn.toNat)
    l < 72 → ∃ (u : State) (y : LaneTel), exec .laneEyeMeasure s = .next u ∧ fget u.plant.lanes l = some y ∧ y.hm.toNat = hm ∧ y.vm.toNat = vm ∧
      y.warn = warn ∧ y.fec.toNat = w.toNat / 2 ^ 32 % 2 ^ 16 ∧ (warn = x.warn → u.net = s.net) ∧
      (warn = true → x.warn = false → ∃ m : Msg, u.net = s.net ++ [m] ∧ m.core = 0 ∧ m.chan = 60 ∧
        m.payload = [BitVec.ofNat 8 l, y.hm, y.vm] ++ List.replicate 13 0))

/-- Words of every family decode to the instructions that they stand for, and those encode to them (R63, R64, R67, R71, R74, R75, R77). -/
def Obligations.WordsDecode : Prop :=
  ∀ p ∈ Spec.words, (∃ i, decode p.1 = .ok i ∧ i = p.2) ∧ encode p.2 = p.1

/-- Every well-formed instruction decodes from its encoding with every operand; and words that decode give a well-formed instruction whose encoding
they are, so that no two words stand for one instruction and no bit is ignored (R66, R67, R69, R75). -/
def Obligations.EncodingRoundTrip : Prop :=
  (∀ i : Insn, i.wf = true → decode (encode i) = .ok i) ∧
  (∀ (ws : List (BitVec 32)) (i : Insn), decode ws = .ok i → i.wf = true ∧ encode i = ws)

/-- No word decodes under an unassigned major, FN, XFN, SZ, SEL or OP, nor with a bit set in a field that its form does not use, among them D and A of
SYS and every bit of an ELECT word but its major; a literal form exists only in formats A and I, with the field that it replaces zero, and in VGATH
and VSCAT, with word 2 zero; what R73 excludes does not decode, nor a rounding, a scope or a word count that is none (R66, R69 to R77, R317, R344). -/
def Obligations.ReservedEncodings : Prop :=
  (∀ w : BitVec 32, Spec.lenOf w = 0 → Spec.freeMajor (Spec.majorOf w) = true → ∀ i, decode [w] ≠ .ok i) ∧
  (∀ w x y : BitVec 32, Spec.lenOf w = 2 → Spec.literalMajor (Spec.majorOf w) = false → ∀ i, decode [w, x, y] ≠ .ok i) ∧
  (∀ w x y : BitVec 32, Spec.lenOf w = 1 → Spec.extendedMajor (Spec.majorOf w) = false → ∀ i, decode [w, x, y] ≠ .ok i) ∧
  (∀ w x y lo hi : BitVec 32, Spec.lenOf w = 3 → (Spec.majorOf w ≠ 0x09 ∧ Spec.majorOf w ≠ 0x0A) ∨ y ≠ 0 → ∀ i, decode [w, x, y, lo, hi] ≠ .ok i) ∧
  (∀ w : BitVec 32, Spec.lenOf w = 0 → ¬ Spec.BaseForm w → ∀ i, decode [w] ≠ .ok i) ∧
  (∀ w : BitVec 32, Spec.majorOf w = 0x58 → w ≠ 0x16000000 → ∀ i, decode [w] ≠ .ok i) ∧
  (∀ w x y : BitVec 32, Spec.lenOf w = 2 → ¬ Spec.BaseForm w ∨ w.toNat % 2 ^ 10 / (if 8 ≤ Spec.majorOf w ∧ Spec.majorOf w ≤ 0x11 then 1 else 16) ≠ 0 →
    ∀ i, decode [w, x, y] ≠ .ok i) ∧
  (∀ w x y : BitVec 32, Spec.lenOf w = 1 → ¬ Spec.ExtendedForm w x y → ∀ i, decode [w, x, y] ≠ .ok i) ∧
  (∀ w x y lo hi : BitVec 32, Spec.lenOf w = 3 → ¬ Spec.ExtendedForm w x y → ∀ i, decode [w, x, y, lo, hi] ≠ .ok i) ∧
  (∀ w x y : BitVec 32, Spec.lenOf w = 1 → Spec.majorOf w = 0x3B → x.toNat % 4 = 3 → ∀ i, decode [w, x, y] ≠ .ok i) ∧
  (∀ (ws : List (BitVec 32)) (i : Insn), decode ws = .ok i → let o := i.ops
    (i.op = .fcvt → o.x.toNat ≠ o.y.toNat ∧ ¬ (4 ≤ o.x.toNat ∧ 4 ≤ o.y.toNat) ∧ o.rnd.toNat ≤ 6 ∧ (o.rnd.toNat = 6 → o.y = 2 ∨ o.y = 3)) ∧
    (i.op = .vcvt → o.x.toNat ≠ o.y.toNat ∧ o.x.toNat < 8) ∧
    (i.op = .vext ∨ i.op = .vins → o.imm.toNat < 64 / 2 ^ o.ew.toNat) ∧
    (i.op = .ld ∧ o.md = 4 → o.d.toNat % 2 = 0 ∧ o.d ≠ 0) ∧ (i.op = .st ∧ o.md = 4 → o.d.toNat % 2 = 0) ∧
    (i.op = .acas2 → o.d.toNat % 2 = 0 ∧ o.d ≠ 0 ∧ o.b.toNat % 2 = 0) ∧
    (i.op ∈ [Instr.faddX, .fsubX, .fmulX, .fdivX, .fsqrtX, .fmaX, .fmsX, .fnmaX, .fnmsX] → o.rnd.toNat ≤ 5) ∧
    (i.op = .vfcvtnN ∨ i.op = .vfcvtnF → o.rnd.toNat ≤ 6) ∧
    (i.op = .sendx → o.md.toNat ≤ 4 ∧ (o.md.toNat < 1 → o.a = 0) ∧ (o.md.toNat < 2 → o.b = 0) ∧ (o.md.toNat < 3 → o.c = 0) ∧ (o.md.toNat < 4 → o.e = 0)))

/-- A step runs the decoded instruction: when the words at the pc decode to i, the step is exec of i with its operands in the instruction register,
the clock has advanced, and the reads of the fetch's walk have taken their times, which change only stamps, the floor and LTIME, and nothing when the
cluster holds the translation; where such a read waits, the step waits; words that do not decode raise ILLEGAL; a word that cannot be fetched raises
the fault with its address, after the reads of its walk; and a step whose schedule names an event is exec of that event (R25, R63, R65, R66, R84, R86, R238, R243). The model's own
choices here: logs 1, 2, 3, 7, 51 and 65. -/
def Obligations.StepRunsDecoded : Prop :=
  (∀ s : State, ∃ n : Word, s.advance = { s with clock := s.clock + 1 + n, tick := s.tick + 1 }) ∧
  (∀ (s t : State) (ws : List (BitVec 32)), Spec.Acting s t → Spec.Issues t → Spec.Fetches t ws →
    (∀ i, decode ws = .ok i → ∀ u, t.fetchWalked ws.length = .ok u → step s = exec i.op { u with ir := i.ops, raw := ws }) ∧
    (∀ e, t.fetchWalked ws.length = .error e → step s = t.run (.error e)) ∧
    ((∀ i, decode ws ≠ .ok i) → ∀ w, t.fetchWalked ws.length = .ok w → let u := { w with raw := ws }; step s = .next (u.raise .illegal (Spec.words01 u)))) ∧
  (∀ (t u : State) (n : Nat), t.fetchWalked n = .ok u → Spec.TimesOnly t u) ∧
  (∀ (t : State) (n : Nat), (∀ x : Word, x = t.act.pc ∨ x = t.act.pc + BitVec.ofNat 64 (4 * (n - 1)) → x.toNat < 2 ^ 60 ∧ t.cached t.cur x.toNat ≠ none) →
    t.fetchWalked n = .ok t) ∧
  (∀ s t : State, Spec.Acting s t → Spec.Issues t → t.act.pc.toNat % 4 ≠ 0 → step s = .next (t.raise .xlate t.act.pc)) ∧
  (∀ (s t : State) (ws : List (BitVec 32)) (c : Cause) (v : Word), Spec.Acting s t → Spec.Issues t → t.act.pc.toNat % 4 = 0 →
    (ws = [] ∨ ws.length < [1, 3, 3, 5].getD (Spec.lenOf (ws.headD 0)) 0) →
    (∀ j (h : j < ws.length), Spec.Holds t (t.act.pc + BitVec.ofNat 64 (4 * j)) ws[j]) →
    t.resolve t.cur t.act.sup .fetch (t.act.pc + BitVec.ofNat 64 (4 * ws.length)) = .error (c, v) → ∀ u, t.walksTo t.act.pc c v = .ok u →
      Spec.TimesOnly t u ∧ step s = .next (u.raise c v)) ∧
  (∀ (s : State) (i : Instr) (a : Args) (l : List Sched), let t := { s.advance with sched := l }
    s.sched = .event i a :: l → (t.plant.storm.phase = .up ∨ t.plant.storm.phase = .failing) → t.plant.boot.status = 0 →
    step s = exec i { t with arg := a })

/-- No step ends a run: every trap, wait and refusal that the spec describes is a next state (R84, R336). -/
def Obligations.EveryStepGoesOn : Prop :=
  (∀ (i : Instr) (s : State), ∃ t, exec i s = .next t) ∧ ∀ (k : Nat) (s : State), SafeFor k s

/-- Every step, and every instruction and event by itself, keeps the canonical form of memory: addresses rise strictly, and no byte is listed that
reads as an unlisted one does. The model's own choices here: log 4. -/
def Obligations.EveryStepKeepsMemoryCanonical : Prop :=
  (∀ (i : Instr) (s t : State), s.Ok → exec i s = .next t → t.Ok) ∧ (∀ s t : State, s.Ok → step s = .next t → t.Ok)

/-- The state after reset: data zero, tags TRUE, full bits full, stamps 0; no activation, binding, armed Shutter or open handle; and the control
registers at the values of R38 and of the rules that it names (R38, R224, R235, R245, R251, R416, R424, R426, R429). The model's own choices here:
logs 3, 4 and 5. -/
def Obligations.ResetState : Prop :=
  State.reset.Ok ∧
  (∀ k : Nat, Memory.read State.reset.mem k = 0 ∧ State.reset.rdTag false (k / 16) = 0 ∧ State.reset.full false k = true ∧
    State.reset.stamp (k / 64) = ⟨0, 0⟩) ∧
  (∀ c : Nat, let k := State.reset.core c
    k.residents = [] ∧ k.queue = [] ∧ k.halted = false ∧ (∀ ch ∈ k.chans.toList, ch.bound = false) ∧ k.watches = [] ∧ k.mustSave = [] ∧
    k.lpol = false ∧ k.color = 0 ∧ k.xcause = 0 ∧ k.xval = 0 ∧ k.xpc = 0 ∧ k.xvec = 0 ∧ k.uvec = 0 ∧ k.xdeleg = 0 ∧ k.lsplit = 32 ∧ k.vpool = 0 ∧
    k.carve = 0 ∧ k.age = 0 ∧ k.chbase = 0 ∧ k.msquota = 0 ∧ k.dmapbase = 0 ∧ k.accmap.toNat = 3 * 2 ^ (2 * (c % 8)) ∧
    k.rngst = BitVec.ofNat 64 (c + 1) ∧ k.ptroot = 0 ∧ k.sqwake = 0 ∧ k.msgcnt = 0 ∧ k.hqbase = 0 ∧ k.xrpc = 0 ∧ k.ctxbase = 0) ∧
  (∀ n : Nat, let x := State.reset.cluster n; let o := x.ordcfg.toNat
    x.ltime = 0 ∧ x.mxwt = 0x11111111 ∧ x.errcnt = 0 ∧ x.clwdog = 50000 ∧ x.dbg.xten = 0xFF ∧ x.dbg.bfrz = true ∧
    o % 2 ^ 16 = 64 ∧ o / 2 ^ 16 % 2 ^ 12 = 64 ∧ o / 2 ^ 28 % 2 ^ 5 = 20 ∧ o / 2 ^ 40 = 1000) ∧
  (∀ h : Nat, (State.reset.thandle h).gen = 1 ∧ (State.reset.thandle h).open_ = false) ∧
  State.reset.plant.shutters = [] ∧ State.reset.plant.louvre.en = true ∧ State.reset.plant.louvre.period = 100 ∧
  (∀ d : Nat, d < 10 → (State.reset.dieTel d).guard = 20 ∧ (State.reset.dieTel d).seq = 0)

/-- Where instructions trap: PRIV in job mode, ILLEGAL for a selector that is none, REGBOUND for the first register out of bounds, POISON for a branch
on it, ALIGNATOM for a misaligned atomic (R37, R38, R84 to R86, R138, R272). The model's own choices here: log 10. -/
def Obligations.InstructionTraps : Prop :=
  (∀ i ∈ [Instr.halt, .tlbiPg, .tlbiTn, .tlbiAll, .containArm, .containClose, .containOpen, .containPerm], ∀ s : State, s.act.sup = false →
    exec i s = .next (s.raise .priv (Spec.words01 s))) ∧
  (∀ i ∈ [Instr.getc, .setc], ∀ s : State, let n := s.ir.imm.toNat
    (n < 0xC0 → Spec.listed n = false → exec i s = .next (s.raise .illegal (Spec.words01 s))) ∧
    (Spec.listed n = true → Spec.supervisorOnly n = true → s.act.sup = false → exec i s = .next (s.raise .priv (Spec.words01 s)))) ∧
  (∀ p ∈ Spec.intOps ++ Spec.divOps, ∀ i ∈ [p.1, p.2.1], ∀ (s : State) (l m : List RU) (r : RU),
    RU.s s.ir.d.toNat :: RU.s s.ir.a.toNat :: Spec.bRegs s = l ++ r :: m → Spec.Named s l → ¬ Spec.Within s r →
    exec i s = .next (s.raise .regbound (Spec.regNumber r))) ∧
  (∀ s : State, ¬ Spec.Within s (.a s.ir.d.toNat) → ∀ i ∈ [Instr.mzero, .mload, .mstore, .mma, .mmas, .mwait],
    exec i s = .next (s.raise .regbound (Spec.regNumber (.a s.ir.d.toNat)))) ∧
  (∀ i ∈ [Instr.beq, .bne, .blt, .bge, .bltu, .bgeu], ∀ s : State, let a := Spec.aReg s; let b := s.act.rd s.ir.b
    Spec.Named s [.s s.ir.a.toNat, .s s.ir.b.toNat] →
    (s.labOf a.lab = none → exec i s = .next (s.raise .poison a.val)) ∧
    (s.labOf a.lab ≠ none → s.labOf b.lab = none → exec i s = .next (s.raise .poison b.val))) ∧
  (∀ p ∈ Spec.atomOps, ∀ s : State, let x := (Spec.aReg s).val
    Spec.Named s (.s s.ir.d.toNat :: .s s.ir.a.toNat :: Spec.bRegs s) → s.labOf (Spec.aReg s).lab ≠ none → x.toNat % p.2.2 ≠ 0 →
    exec p.1 s = .next (s.raise .alignatom x))
end

