-- ==== Sys2Proof/Laws/Bits.lean ====
section
/-! SUPPORT. The bits of a word given by its bits. -/

namespace Sys2Proof.Spec

theorem foldBits (f : Nat → Bool) (n : Nat) :
    (List.range n).foldl (fun a i => if f i then a + 2 ^ i else a) 0 < 2 ^ n ∧
    ∀ j, ((List.range n).foldl (fun a i => if f i then a + 2 ^ i else a) 0).testBit j = (decide (j < n) && f j) := by
  induction n with
  | zero => simp
  | succ n ih =>
    rw [List.range_succ, List.foldl_append]
    generalize (List.range n).foldl (fun a i => if f i then a + 2 ^ i else a) 0 = x at ih ⊢
    simp only [List.foldl_cons, List.foldl_nil]
    obtain ⟨h1, h2⟩ := ih
    constructor
    · rw [Nat.pow_succ]; split <;> omega
    · intro j
      split
      · next hf =>
        rw [Nat.add_comm, show 2 ^ n + x = 2 ^ n * 1 + x by omega, Nat.testBit_two_pow_mul_add _ h1]
        split
        · next hj => rw [h2]; simp [hj]; omega
        · next hj =>
          by_cases e : j = n
          · subst e; simp [hf]
          · have : ¬ j < n + 1 := by omega
            have h3 : (1 : Nat).testBit (j - n) = false := Nat.testBit_lt_two_pow (Nat.one_lt_two_pow (by omega))
            simp [this, h3]
      · next hf =>
        rw [h2]
        by_cases e : j = n
        · subst e; simp [hf]
        · have : j < n ↔ j < n + 1 := by omega
          simp [this]

theorem getLsbD_ofBits (w : Nat) (f : Nat → Bool) (i : Nat) : (ofBits w f).getLsbD i = (decide (i < w) && f i) := by
  unfold ofBits
  rw [BitVec.getLsbD_ofNat, (foldBits f w).2 i]
  cases decide (i < w) <;> simp

end Sys2Proof.Spec
end

