-- ==== Sys2Proof/Laws/Map.lean ====
section
/-! SUPPORT. Finite maps: reading after a change, and the rising order of the keys. -/

namespace Sys2Proof.Machine

variable {α : Type}

@[simp] theorem fget_nil (k : Nat) : fget ([] : FMap α) k = none := rfl

@[simp] theorem fget_fset_same (m : FMap α) (k : Nat) (v : α) : fget (fset m k v) k = some v := by
  induction m with
  | nil => simp [fset, fget]
  | cons p m ih =>
    obtain ⟨j, w⟩ := p
    simp only [fset]
    split
    · simp [fget]
    · split
      · simp [fget]
      · next h => simp [fget, Ne.symm h, ih]

@[simp] theorem fget_fset_other (m : FMap α) (k j : Nat) (v : α) (h : j ≠ k) : fget (fset m k v) j = fget m j := by
  induction m with
  | nil => simp [fset, fget, h.symm]
  | cons p m ih =>
    obtain ⟨i, w⟩ := p
    simp only [fset]
    split
    · simp [fget, h.symm]
    · split
      · next e => subst e; simp [fget, h.symm]
      · simp [fget, ih]

@[simp] theorem fget_ferase_same (m : FMap α) (k : Nat) : fget (ferase m k) k = none := by
  induction m with
  | nil => rfl
  | cons p m ih =>
    obtain ⟨i, w⟩ := p
    by_cases e : i = k
    · subst e; simpa [ferase] using ih
    · simpa [ferase, e, fget] using ih

@[simp] theorem fget_ferase_other (m : FMap α) (k j : Nat) (h : j ≠ k) : fget (ferase m k) j = fget m j := by
  induction m with
  | nil => rfl
  | cons p m ih =>
    obtain ⟨i, w⟩ := p
    by_cases e : i = k
    · subst e; simp only [ferase, List.filter_cons, bne_self_eq_false, Bool.false_eq_true, if_false, fget, h.symm] at ih ⊢; exact ih
    · simp only [ferase, List.filter_cons, bne_iff_ne, ne_eq, e, not_false_eq_true, if_true, fget] at ih ⊢; simp [ih]

/-- In a rising map every key of the rest lies above the first. -/
theorem frising_cons {k : Nat} {v : α} {m : FMap α} : frising ((k, v) :: m) = true ↔ (∀ p ∈ m, k < p.1) ∧ frising m = true := by
  induction m generalizing k v with
  | nil => simp [frising]
  | cons q m ih =>
    obtain ⟨j, w⟩ := q
    simp only [frising, Bool.and_eq_true, decide_eq_true_eq, List.mem_cons, forall_eq_or_imp]
    constructor
    · rintro ⟨h1, h2⟩
      refine ⟨⟨h1, fun p hp => Nat.lt_trans h1 ((ih.1 h2).1 p hp)⟩, h2⟩
    · rintro ⟨⟨h1, _⟩, h2⟩
      exact ⟨h1, h2⟩

theorem mem_fset {m : FMap α} {k : Nat} {v : α} {p : Nat × α} (h : p ∈ fset m k v) : p = (k, v) ∨ p ∈ m := by
  induction m with
  | nil => simpa [fset] using h
  | cons q m ih =>
    obtain ⟨j, w⟩ := q
    simp only [fset] at h
    split at h
    · simpa using h
    · split at h
      · rcases List.mem_cons.1 h with h | h
        · exact .inl h
        · exact .inr (List.mem_cons_of_mem _ h)
      · rcases List.mem_cons.1 h with h | h
        · exact .inr (h ▸ List.mem_cons_self ..)
        · rcases ih h with h | h
          · exact .inl h
          · exact .inr (List.mem_cons_of_mem _ h)

theorem frising_fset {m : FMap α} (k : Nat) (v : α) (h : frising m = true) : frising (fset m k v) = true := by
  induction m with
  | nil => rfl
  | cons q m ih =>
    obtain ⟨j, w⟩ := q
    have hm := frising_cons.1 h
    simp only [fset]
    split
    · next hk =>
      refine frising_cons.2 ⟨?_, h⟩
      intro p hp
      rcases List.mem_cons.1 hp with rfl | hp
      · exact hk
      · exact Nat.lt_trans hk (hm.1 p hp)
    · split
      · next e => subst e; exact frising_cons.2 hm
      · next h1 h2 =>
        refine frising_cons.2 ⟨?_, ih hm.2⟩
        intro p hp
        rcases mem_fset hp with rfl | hp
        · simp only; omega
        · exact hm.1 p hp

theorem frising_filter {m : FMap α} (f : Nat × α → Bool) (h : frising m = true) : frising (m.filter f) = true := by
  induction m with
  | nil => rfl
  | cons q m ih =>
    obtain ⟨j, w⟩ := q
    have hm := frising_cons.1 h
    simp only [List.filter_cons]
    split
    · exact frising_cons.2 ⟨fun p hp => hm.1 p (List.mem_of_mem_filter hp), ih hm.2⟩
    · exact ih hm.2

theorem frising_ferase {m : FMap α} (k : Nat) (h : frising m = true) : frising (ferase m k) = true := frising_filter _ h

end Sys2Proof.Machine
end

