-- ==== Sys2Proof/Laws/Memory.lean ====
section
/-! SUPPORT. Memory: a read after a write, and the canonical form, which every operation on memory keeps. -/

namespace Sys2Proof.Machine

@[simp] theorem read_write_same (m : List Host.Cell) (k : Nat) (v : Byte) : Memory.read (Memory.write m k v) k = v := by
  unfold Memory.read Memory.write
  split
  · next h => simp [h]
  · simp

@[simp] theorem read_write_other (m : List Host.Cell) (k j : Nat) (v : Byte) (h : j ≠ k) :
    Memory.read (Memory.write m k v) j = Memory.read m j := by
  unfold Memory.read Memory.write
  split <;> simp [h]

theorem read_writeN_other (m : List Host.Cell) (k j : Nat) (l : List Byte) (h : j < k ∨ k + l.length ≤ j) :
    Memory.read (Memory.writeN m k l) j = Memory.read m j := by
  induction l generalizing m k with
  | nil => rfl
  | cons b l ih =>
    simp only [List.length_cons] at h
    rw [Memory.writeN, ih _ _ (by omega), read_write_other _ _ _ _ (by omega)]

theorem readN_write_other (m : List Host.Cell) (k j n : Nat) (v : Byte) (h : k < j ∨ j + n ≤ k) :
    Memory.readN (Memory.write m k v) j n = Memory.readN m j n := by
  induction n generalizing j with
  | zero => rfl
  | succ n ih => rw [Memory.readN, Memory.readN, read_write_other _ _ _ _ (by omega), ih _ (by omega)]

theorem readN_writeN_other (m : List Host.Cell) (k j n : Nat) (l : List Byte) (h : j + n ≤ k ∨ k + l.length ≤ j) :
    Memory.readN (Memory.writeN m k l) j n = Memory.readN m j n := by
  induction n generalizing j with
  | zero => rfl
  | succ n ih => rw [Memory.readN, Memory.readN, read_writeN_other _ _ _ _ (by omega), ih _ (by omega)]

/-- The bytes written are the bytes read. -/
@[simp] theorem readN_writeN_same (m : List Host.Cell) (k : Nat) (l : List Byte) :
    Memory.readN (Memory.writeN m k l) k l.length = l := by
  induction l generalizing m k with
  | nil => rfl
  | cons b l ih =>
    rw [Memory.writeN, List.length_cons, Memory.readN, read_writeN_other _ _ _ _ (by omega), read_write_same, ih]

theorem wf_iff {m : List Host.Cell} : Memory.wf m = true ↔ frising m = true ∧ ∀ p ∈ m, p.2 ≠ 0 := by
  simp [Memory.wf]

theorem wf_filter {m : List Host.Cell} (f : Host.Cell → Bool) (h : Memory.wf m = true) : Memory.wf (m.filter f) = true :=
  wf_iff.2 ⟨frising_filter f (wf_iff.1 h).1, fun p hp => (wf_iff.1 h).2 p (List.mem_of_mem_filter hp)⟩

theorem wf_write {m : List Host.Cell} (k : Nat) (v : Byte) (h : Memory.wf m = true) : Memory.wf (Memory.write m k v) = true := by
  unfold Memory.write
  split
  · exact wf_filter _ h
  · next hv =>
    refine wf_iff.2 ⟨frising_fset k v (wf_iff.1 h).1, fun p hp => ?_⟩
    rcases mem_fset hp with rfl | hp
    · exact hv
    · exact (wf_iff.1 h).2 p hp

theorem wf_writeN {m : List Host.Cell} (k : Nat) (l : List Byte) (h : Memory.wf m = true) : Memory.wf (Memory.writeN m k l) = true := by
  induction l generalizing m k with
  | nil => exact h
  | cons b l ih => exact ih (k + 1) (wf_write k b h)

theorem wf_keepMem {m : List Host.Cell} (h : Memory.wf m = true) : Memory.wf (keepMem m) = true := wf_filter _ h

theorem wf_placeTables {m : List Host.Cell} (h : Memory.wf m = true) : Memory.wf (placeTables m) = true :=
  wf_writeN _ _ (wf_writeN _ _ h)

theorem wf_reset : Memory.wf State.reset.mem = true := rfl

theorem wf_wrByte {s : State} (v : View) (k : Nat) (b : Byte) (h : Memory.wf s.mem = true) : Memory.wf (s.wrByte v k b).mem = true := by
  unfold State.wrByte
  split
  · exact h
  · split
    · exact h
    · exact wf_write k b h

end Sys2Proof.Machine
end

