-- ==== Sys2Proof/Laws/State.lean ====
section
/-! SUPPORT. The parts of the state: what each reads after a change of each, and that the changes leave the other fields. -/

namespace Sys2Proof.Machine

variable (s : State)

/-! Reading a part after a change. -/

@[simp] theorem core_setCore (c : Nat) (x : Core) : (s.setCore c x).core c = x := by simp [State.core, State.setCore]
theorem core_setCore_other (c d : Nat) (x : Core) (h : d ≠ c) : (s.setCore c x).core d = s.core d := by simp [State.core, State.setCore, h]
@[simp] theorem cluster_setCluster (k : Nat) (x : Cluster) : (s.setCluster k x).cluster k = x := by simp [State.cluster, State.setCluster]
theorem cluster_setCluster_other (k j : Nat) (x : Cluster) (h : j ≠ k) : (s.setCluster k x).cluster j = s.cluster j := by
  simp [State.cluster, State.setCluster, h]
@[simp] theorem job_setJob (t : Nat) (x : Job) : (s.setJob t x).job t = x := by simp [State.job, State.setJob]
theorem job_setJob_other (t u : Nat) (x : Job) (h : u ≠ t) : (s.setJob t x).job u = s.job u := by simp [State.job, State.setJob, h]
@[simp] theorem thandle_setThandle (h : Nat) (x : THandle) : (s.setThandle h x).thandle h = x := by simp [State.thandle, State.setThandle]
theorem thandle_setThandle_other (h g : Nat) (x : THandle) (e : g ≠ h) : (s.setThandle h x).thandle g = s.thandle g := by
  simp [State.thandle, State.setThandle, e]

@[simp] theorem core_setCluster (c k : Nat) (x : Cluster) : (s.setCluster k x).core c = s.core c := rfl
@[simp] theorem core_setJob (c t : Nat) (x : Job) : (s.setJob t x).core c = s.core c := rfl
@[simp] theorem cluster_setCore (k c : Nat) (x : Core) : (s.setCore c x).cluster k = s.cluster k := rfl
@[simp] theorem cluster_setJob (k t : Nat) (x : Job) : (s.setJob t x).cluster k = s.cluster k := rfl
@[simp] theorem job_setCore (t c : Nat) (x : Core) : (s.setCore c x).job t = s.job t := rfl
@[simp] theorem job_setCluster (t k : Nat) (x : Cluster) : (s.setCluster k x).job t = s.job t := rfl

@[simp] theorem me_setMe (x : Core) : (s.setMe x).me = x := by simp [State.me, State.setMe, State.setCore, State.core]
@[simp] theorem act_setAct (a : Act) : (s.setAct a).act = a := by simp [State.act, State.setAct]
@[simp] theorem me_setAct (a : Act) : (s.setAct a).me = { s.me with act := a } := by simp [State.setAct]
@[simp] theorem act_setMe (x : Core) : (s.setMe x).act = x.act := by simp [State.act]
theorem core_setMe_other (c : Nat) (x : Core) (h : c ≠ s.cur) : (s.setMe x).core c = s.core c := core_setCore_other s _ _ _ h
theorem core_setAct_other (c : Nat) (a : Act) (h : c ≠ s.cur) : (s.setAct a).core c = s.core c := core_setMe_other s c _ h
@[simp] theorem me_setCluster (k : Nat) (x : Cluster) : (s.setCluster k x).me = s.me := rfl
@[simp] theorem act_setCluster (k : Nat) (x : Cluster) : (s.setCluster k x).act = s.act := rfl
@[simp] theorem myCluster_setMyCluster (x : Cluster) : (s.setMyCluster x).myCluster = x := by
  simp [State.myCluster, State.setMyCluster, State.setCluster, State.cluster, State.cl]
@[simp] theorem myCluster_setMe (x : Core) : (s.setMe x).myCluster = s.myCluster := rfl
@[simp] theorem myCluster_setAct (a : Act) : (s.setAct a).myCluster = s.myCluster := rfl

/-! Every other field that setCore leaves. -/

@[simp] theorem setCore_cur (c : Nat) (x : Core) : (s.setCore c x).cur = s.cur := rfl
@[simp] theorem setCore_ir (c : Nat) (x : Core) : (s.setCore c x).ir = s.ir := rfl
@[simp] theorem setCore_raw (c : Nat) (x : Core) : (s.setCore c x).raw = s.raw := rfl
@[simp] theorem setCore_arg (c : Nat) (x : Core) : (s.setCore c x).arg = s.arg := rfl
@[simp] theorem setCore_sched (c : Nat) (x : Core) : (s.setCore c x).sched = s.sched := rfl
@[simp] theorem setCore_tick (c : Nat) (x : Core) : (s.setCore c x).tick = s.tick := rfl
@[simp] theorem setCore_clock (c : Nat) (x : Core) : (s.setCore c x).clock = s.clock := rfl
@[simp] theorem setCore_mem (c : Nat) (x : Core) : (s.setCore c x).mem = s.mem := rfl
@[simp] theorem setCore_tags (c : Nat) (x : Core) : (s.setCore c x).tags = s.tags := rfl
@[simp] theorem setCore_fe (c : Nat) (x : Core) : (s.setCore c x).fe = s.fe := rfl
@[simp] theorem setCore_wmem (c : Nat) (x : Core) : (s.setCore c x).wmem = s.wmem := rfl
@[simp] theorem setCore_wtags (c : Nat) (x : Core) : (s.setCore c x).wtags = s.wtags := rfl
@[simp] theorem setCore_wfe (c : Nat) (x : Core) : (s.setCore c x).wfe = s.wfe := rfl
@[simp] theorem setCore_wstamps (c : Nat) (x : Core) : (s.setCore c x).wstamps = s.wstamps := rfl
@[simp] theorem setCore_stamps (c : Nat) (x : Core) : (s.setCore c x).stamps = s.stamps := rfl
@[simp] theorem setCore_stampBase (c : Nat) (x : Core) : (s.setCore c x).stampBase = s.stampBase := rfl
@[simp] theorem setCore_clusters (c : Nat) (x : Core) : (s.setCore c x).clusters = s.clusters := rfl
@[simp] theorem setCore_dlt (c : Nat) (x : Core) : (s.setCore c x).dlt = s.dlt := rfl
@[simp] theorem setCore_jobs (c : Nat) (x : Core) : (s.setCore c x).jobs = s.jobs := rfl
@[simp] theorem setCore_labOps (c : Nat) (x : Core) : (s.setCore c x).labOps = s.labOps := rfl
@[simp] theorem setCore_nextOp (c : Nat) (x : Core) : (s.setCore c x).nextOp = s.nextOp := rfl
@[simp] theorem setCore_launches (c : Nat) (x : Core) : (s.setCore c x).launches = s.launches := rfl
@[simp] theorem setCore_succs (c : Nat) (x : Core) : (s.setCore c x).succs = s.succs := rfl
@[simp] theorem setCore_fabSeq (c : Nat) (x : Core) : (s.setCore c x).fabSeq = s.fabSeq := rfl
@[simp] theorem setCore_handles (c : Nat) (x : Core) : (s.setCore c x).handles = s.handles := rfl
@[simp] theorem setCore_pages (c : Nat) (x : Core) : (s.setCore c x).pages = s.pages := rfl
@[simp] theorem setCore_net (c : Nat) (x : Core) : (s.setCore c x).net = s.net := rfl
@[simp] theorem setCore_waiting (c : Nat) (x : Core) : (s.setCore c x).waiting = s.waiting := rfl
@[simp] theorem setCore_answers (c : Nat) (x : Core) : (s.setCore c x).answers = s.answers := rfl
@[simp] theorem setCore_port (c : Nat) (x : Core) : (s.setCore c x).port = s.port := rfl
@[simp] theorem setCore_portRefused (c : Nat) (x : Core) : (s.setCore c x).portRefused = s.portRefused := rfl
@[simp] theorem setCore_plant (c : Nat) (x : Core) : (s.setCore c x).plant = s.plant := rfl
@[simp] theorem setCore_ctx (c : Nat) (x : Core) : (s.setCore c x).ctx = s.ctx := rfl

/-! Every other field that setMe leaves. -/

@[simp] theorem setMe_cur (x : Core) : (s.setMe x).cur = s.cur := rfl
@[simp] theorem setMe_ir (x : Core) : (s.setMe x).ir = s.ir := rfl
@[simp] theorem setMe_raw (x : Core) : (s.setMe x).raw = s.raw := rfl
@[simp] theorem setMe_arg (x : Core) : (s.setMe x).arg = s.arg := rfl
@[simp] theorem setMe_sched (x : Core) : (s.setMe x).sched = s.sched := rfl
@[simp] theorem setMe_tick (x : Core) : (s.setMe x).tick = s.tick := rfl
@[simp] theorem setMe_clock (x : Core) : (s.setMe x).clock = s.clock := rfl
@[simp] theorem setMe_mem (x : Core) : (s.setMe x).mem = s.mem := rfl
@[simp] theorem setMe_tags (x : Core) : (s.setMe x).tags = s.tags := rfl
@[simp] theorem setMe_fe (x : Core) : (s.setMe x).fe = s.fe := rfl
@[simp] theorem setMe_wmem (x : Core) : (s.setMe x).wmem = s.wmem := rfl
@[simp] theorem setMe_wtags (x : Core) : (s.setMe x).wtags = s.wtags := rfl
@[simp] theorem setMe_wfe (x : Core) : (s.setMe x).wfe = s.wfe := rfl
@[simp] theorem setMe_wstamps (x : Core) : (s.setMe x).wstamps = s.wstamps := rfl
@[simp] theorem setMe_stamps (x : Core) : (s.setMe x).stamps = s.stamps := rfl
@[simp] theorem setMe_stampBase (x : Core) : (s.setMe x).stampBase = s.stampBase := rfl
@[simp] theorem setMe_clusters (x : Core) : (s.setMe x).clusters = s.clusters := rfl
@[simp] theorem setMe_dlt (x : Core) : (s.setMe x).dlt = s.dlt := rfl
@[simp] theorem setMe_jobs (x : Core) : (s.setMe x).jobs = s.jobs := rfl
@[simp] theorem setMe_labOps (x : Core) : (s.setMe x).labOps = s.labOps := rfl
@[simp] theorem setMe_nextOp (x : Core) : (s.setMe x).nextOp = s.nextOp := rfl
@[simp] theorem setMe_launches (x : Core) : (s.setMe x).launches = s.launches := rfl
@[simp] theorem setMe_succs (x : Core) : (s.setMe x).succs = s.succs := rfl
@[simp] theorem setMe_fabSeq (x : Core) : (s.setMe x).fabSeq = s.fabSeq := rfl
@[simp] theorem setMe_handles (x : Core) : (s.setMe x).handles = s.handles := rfl
@[simp] theorem setMe_pages (x : Core) : (s.setMe x).pages = s.pages := rfl
@[simp] theorem setMe_net (x : Core) : (s.setMe x).net = s.net := rfl
@[simp] theorem setMe_waiting (x : Core) : (s.setMe x).waiting = s.waiting := rfl
@[simp] theorem setMe_answers (x : Core) : (s.setMe x).answers = s.answers := rfl
@[simp] theorem setMe_port (x : Core) : (s.setMe x).port = s.port := rfl
@[simp] theorem setMe_portRefused (x : Core) : (s.setMe x).portRefused = s.portRefused := rfl
@[simp] theorem setMe_plant (x : Core) : (s.setMe x).plant = s.plant := rfl
@[simp] theorem setMe_ctx (x : Core) : (s.setMe x).ctx = s.ctx := rfl

/-! Every other field that setAct leaves. -/

@[simp] theorem setAct_cur (a : Act) : (s.setAct a).cur = s.cur := rfl
@[simp] theorem setAct_ir (a : Act) : (s.setAct a).ir = s.ir := rfl
@[simp] theorem setAct_raw (a : Act) : (s.setAct a).raw = s.raw := rfl
@[simp] theorem setAct_arg (a : Act) : (s.setAct a).arg = s.arg := rfl
@[simp] theorem setAct_sched (a : Act) : (s.setAct a).sched = s.sched := rfl
@[simp] theorem setAct_tick (a : Act) : (s.setAct a).tick = s.tick := rfl
@[simp] theorem setAct_clock (a : Act) : (s.setAct a).clock = s.clock := rfl
@[simp] theorem setAct_mem (a : Act) : (s.setAct a).mem = s.mem := rfl
@[simp] theorem setAct_tags (a : Act) : (s.setAct a).tags = s.tags := rfl
@[simp] theorem setAct_fe (a : Act) : (s.setAct a).fe = s.fe := rfl
@[simp] theorem setAct_wmem (a : Act) : (s.setAct a).wmem = s.wmem := rfl
@[simp] theorem setAct_wtags (a : Act) : (s.setAct a).wtags = s.wtags := rfl
@[simp] theorem setAct_wfe (a : Act) : (s.setAct a).wfe = s.wfe := rfl
@[simp] theorem setAct_wstamps (a : Act) : (s.setAct a).wstamps = s.wstamps := rfl
@[simp] theorem setAct_stamps (a : Act) : (s.setAct a).stamps = s.stamps := rfl
@[simp] theorem setAct_stampBase (a : Act) : (s.setAct a).stampBase = s.stampBase := rfl
@[simp] theorem setAct_clusters (a : Act) : (s.setAct a).clusters = s.clusters := rfl
@[simp] theorem setAct_dlt (a : Act) : (s.setAct a).dlt = s.dlt := rfl
@[simp] theorem setAct_jobs (a : Act) : (s.setAct a).jobs = s.jobs := rfl
@[simp] theorem setAct_labOps (a : Act) : (s.setAct a).labOps = s.labOps := rfl
@[simp] theorem setAct_nextOp (a : Act) : (s.setAct a).nextOp = s.nextOp := rfl
@[simp] theorem setAct_launches (a : Act) : (s.setAct a).launches = s.launches := rfl
@[simp] theorem setAct_succs (a : Act) : (s.setAct a).succs = s.succs := rfl
@[simp] theorem setAct_fabSeq (a : Act) : (s.setAct a).fabSeq = s.fabSeq := rfl
@[simp] theorem setAct_handles (a : Act) : (s.setAct a).handles = s.handles := rfl
@[simp] theorem setAct_pages (a : Act) : (s.setAct a).pages = s.pages := rfl
@[simp] theorem setAct_net (a : Act) : (s.setAct a).net = s.net := rfl
@[simp] theorem setAct_waiting (a : Act) : (s.setAct a).waiting = s.waiting := rfl
@[simp] theorem setAct_answers (a : Act) : (s.setAct a).answers = s.answers := rfl
@[simp] theorem setAct_port (a : Act) : (s.setAct a).port = s.port := rfl
@[simp] theorem setAct_portRefused (a : Act) : (s.setAct a).portRefused = s.portRefused := rfl
@[simp] theorem setAct_plant (a : Act) : (s.setAct a).plant = s.plant := rfl
@[simp] theorem setAct_ctx (a : Act) : (s.setAct a).ctx = s.ctx := rfl

/-! Every other field that setCluster leaves. -/

@[simp] theorem setCluster_cur (k : Nat) (x : Cluster) : (s.setCluster k x).cur = s.cur := rfl
@[simp] theorem setCluster_ir (k : Nat) (x : Cluster) : (s.setCluster k x).ir = s.ir := rfl
@[simp] theorem setCluster_raw (k : Nat) (x : Cluster) : (s.setCluster k x).raw = s.raw := rfl
@[simp] theorem setCluster_arg (k : Nat) (x : Cluster) : (s.setCluster k x).arg = s.arg := rfl
@[simp] theorem setCluster_sched (k : Nat) (x : Cluster) : (s.setCluster k x).sched = s.sched := rfl
@[simp] theorem setCluster_tick (k : Nat) (x : Cluster) : (s.setCluster k x).tick = s.tick := rfl
@[simp] theorem setCluster_clock (k : Nat) (x : Cluster) : (s.setCluster k x).clock = s.clock := rfl
@[simp] theorem setCluster_mem (k : Nat) (x : Cluster) : (s.setCluster k x).mem = s.mem := rfl
@[simp] theorem setCluster_tags (k : Nat) (x : Cluster) : (s.setCluster k x).tags = s.tags := rfl
@[simp] theorem setCluster_fe (k : Nat) (x : Cluster) : (s.setCluster k x).fe = s.fe := rfl
@[simp] theorem setCluster_wmem (k : Nat) (x : Cluster) : (s.setCluster k x).wmem = s.wmem := rfl
@[simp] theorem setCluster_wtags (k : Nat) (x : Cluster) : (s.setCluster k x).wtags = s.wtags := rfl
@[simp] theorem setCluster_wfe (k : Nat) (x : Cluster) : (s.setCluster k x).wfe = s.wfe := rfl
@[simp] theorem setCluster_wstamps (k : Nat) (x : Cluster) : (s.setCluster k x).wstamps = s.wstamps := rfl
@[simp] theorem setCluster_stamps (k : Nat) (x : Cluster) : (s.setCluster k x).stamps = s.stamps := rfl
@[simp] theorem setCluster_stampBase (k : Nat) (x : Cluster) : (s.setCluster k x).stampBase = s.stampBase := rfl
@[simp] theorem setCluster_cores (k : Nat) (x : Cluster) : (s.setCluster k x).cores = s.cores := rfl
@[simp] theorem setCluster_dlt (k : Nat) (x : Cluster) : (s.setCluster k x).dlt = s.dlt := rfl
@[simp] theorem setCluster_jobs (k : Nat) (x : Cluster) : (s.setCluster k x).jobs = s.jobs := rfl
@[simp] theorem setCluster_labOps (k : Nat) (x : Cluster) : (s.setCluster k x).labOps = s.labOps := rfl
@[simp] theorem setCluster_nextOp (k : Nat) (x : Cluster) : (s.setCluster k x).nextOp = s.nextOp := rfl
@[simp] theorem setCluster_launches (k : Nat) (x : Cluster) : (s.setCluster k x).launches = s.launches := rfl
@[simp] theorem setCluster_succs (k : Nat) (x : Cluster) : (s.setCluster k x).succs = s.succs := rfl
@[simp] theorem setCluster_fabSeq (k : Nat) (x : Cluster) : (s.setCluster k x).fabSeq = s.fabSeq := rfl
@[simp] theorem setCluster_handles (k : Nat) (x : Cluster) : (s.setCluster k x).handles = s.handles := rfl
@[simp] theorem setCluster_pages (k : Nat) (x : Cluster) : (s.setCluster k x).pages = s.pages := rfl
@[simp] theorem setCluster_net (k : Nat) (x : Cluster) : (s.setCluster k x).net = s.net := rfl
@[simp] theorem setCluster_waiting (k : Nat) (x : Cluster) : (s.setCluster k x).waiting = s.waiting := rfl
@[simp] theorem setCluster_answers (k : Nat) (x : Cluster) : (s.setCluster k x).answers = s.answers := rfl
@[simp] theorem setCluster_port (k : Nat) (x : Cluster) : (s.setCluster k x).port = s.port := rfl
@[simp] theorem setCluster_portRefused (k : Nat) (x : Cluster) : (s.setCluster k x).portRefused = s.portRefused := rfl
@[simp] theorem setCluster_plant (k : Nat) (x : Cluster) : (s.setCluster k x).plant = s.plant := rfl
@[simp] theorem setCluster_ctx (k : Nat) (x : Cluster) : (s.setCluster k x).ctx = s.ctx := rfl

/-! Every other field that setMyCluster leaves. -/

@[simp] theorem setMyCluster_cur (x : Cluster) : (s.setMyCluster x).cur = s.cur := rfl
@[simp] theorem setMyCluster_ir (x : Cluster) : (s.setMyCluster x).ir = s.ir := rfl
@[simp] theorem setMyCluster_raw (x : Cluster) : (s.setMyCluster x).raw = s.raw := rfl
@[simp] theorem setMyCluster_arg (x : Cluster) : (s.setMyCluster x).arg = s.arg := rfl
@[simp] theorem setMyCluster_sched (x : Cluster) : (s.setMyCluster x).sched = s.sched := rfl
@[simp] theorem setMyCluster_tick (x : Cluster) : (s.setMyCluster x).tick = s.tick := rfl
@[simp] theorem setMyCluster_clock (x : Cluster) : (s.setMyCluster x).clock = s.clock := rfl
@[simp] theorem setMyCluster_mem (x : Cluster) : (s.setMyCluster x).mem = s.mem := rfl
@[simp] theorem setMyCluster_tags (x : Cluster) : (s.setMyCluster x).tags = s.tags := rfl
@[simp] theorem setMyCluster_fe (x : Cluster) : (s.setMyCluster x).fe = s.fe := rfl
@[simp] theorem setMyCluster_wmem (x : Cluster) : (s.setMyCluster x).wmem = s.wmem := rfl
@[simp] theorem setMyCluster_wtags (x : Cluster) : (s.setMyCluster x).wtags = s.wtags := rfl
@[simp] theorem setMyCluster_wfe (x : Cluster) : (s.setMyCluster x).wfe = s.wfe := rfl
@[simp] theorem setMyCluster_wstamps (x : Cluster) : (s.setMyCluster x).wstamps = s.wstamps := rfl
@[simp] theorem setMyCluster_stamps (x : Cluster) : (s.setMyCluster x).stamps = s.stamps := rfl
@[simp] theorem setMyCluster_stampBase (x : Cluster) : (s.setMyCluster x).stampBase = s.stampBase := rfl
@[simp] theorem setMyCluster_cores (x : Cluster) : (s.setMyCluster x).cores = s.cores := rfl
@[simp] theorem setMyCluster_dlt (x : Cluster) : (s.setMyCluster x).dlt = s.dlt := rfl
@[simp] theorem setMyCluster_jobs (x : Cluster) : (s.setMyCluster x).jobs = s.jobs := rfl
@[simp] theorem setMyCluster_labOps (x : Cluster) : (s.setMyCluster x).labOps = s.labOps := rfl
@[simp] theorem setMyCluster_nextOp (x : Cluster) : (s.setMyCluster x).nextOp = s.nextOp := rfl
@[simp] theorem setMyCluster_launches (x : Cluster) : (s.setMyCluster x).launches = s.launches := rfl
@[simp] theorem setMyCluster_succs (x : Cluster) : (s.setMyCluster x).succs = s.succs := rfl
@[simp] theorem setMyCluster_fabSeq (x : Cluster) : (s.setMyCluster x).fabSeq = s.fabSeq := rfl
@[simp] theorem setMyCluster_handles (x : Cluster) : (s.setMyCluster x).handles = s.handles := rfl
@[simp] theorem setMyCluster_pages (x : Cluster) : (s.setMyCluster x).pages = s.pages := rfl
@[simp] theorem setMyCluster_net (x : Cluster) : (s.setMyCluster x).net = s.net := rfl
@[simp] theorem setMyCluster_waiting (x : Cluster) : (s.setMyCluster x).waiting = s.waiting := rfl
@[simp] theorem setMyCluster_answers (x : Cluster) : (s.setMyCluster x).answers = s.answers := rfl
@[simp] theorem setMyCluster_port (x : Cluster) : (s.setMyCluster x).port = s.port := rfl
@[simp] theorem setMyCluster_portRefused (x : Cluster) : (s.setMyCluster x).portRefused = s.portRefused := rfl
@[simp] theorem setMyCluster_plant (x : Cluster) : (s.setMyCluster x).plant = s.plant := rfl
@[simp] theorem setMyCluster_ctx (x : Cluster) : (s.setMyCluster x).ctx = s.ctx := rfl

/-! Every other field that setJob leaves. -/

@[simp] theorem setJob_cur (t : Nat) (x : Job) : (s.setJob t x).cur = s.cur := rfl
@[simp] theorem setJob_ir (t : Nat) (x : Job) : (s.setJob t x).ir = s.ir := rfl
@[simp] theorem setJob_raw (t : Nat) (x : Job) : (s.setJob t x).raw = s.raw := rfl
@[simp] theorem setJob_arg (t : Nat) (x : Job) : (s.setJob t x).arg = s.arg := rfl
@[simp] theorem setJob_sched (t : Nat) (x : Job) : (s.setJob t x).sched = s.sched := rfl
@[simp] theorem setJob_tick (t : Nat) (x : Job) : (s.setJob t x).tick = s.tick := rfl
@[simp] theorem setJob_clock (t : Nat) (x : Job) : (s.setJob t x).clock = s.clock := rfl
@[simp] theorem setJob_mem (t : Nat) (x : Job) : (s.setJob t x).mem = s.mem := rfl
@[simp] theorem setJob_tags (t : Nat) (x : Job) : (s.setJob t x).tags = s.tags := rfl
@[simp] theorem setJob_fe (t : Nat) (x : Job) : (s.setJob t x).fe = s.fe := rfl
@[simp] theorem setJob_wmem (t : Nat) (x : Job) : (s.setJob t x).wmem = s.wmem := rfl
@[simp] theorem setJob_wtags (t : Nat) (x : Job) : (s.setJob t x).wtags = s.wtags := rfl
@[simp] theorem setJob_wfe (t : Nat) (x : Job) : (s.setJob t x).wfe = s.wfe := rfl
@[simp] theorem setJob_wstamps (t : Nat) (x : Job) : (s.setJob t x).wstamps = s.wstamps := rfl
@[simp] theorem setJob_stamps (t : Nat) (x : Job) : (s.setJob t x).stamps = s.stamps := rfl
@[simp] theorem setJob_stampBase (t : Nat) (x : Job) : (s.setJob t x).stampBase = s.stampBase := rfl
@[simp] theorem setJob_cores (t : Nat) (x : Job) : (s.setJob t x).cores = s.cores := rfl
@[simp] theorem setJob_clusters (t : Nat) (x : Job) : (s.setJob t x).clusters = s.clusters := rfl
@[simp] theorem setJob_dlt (t : Nat) (x : Job) : (s.setJob t x).dlt = s.dlt := rfl
@[simp] theorem setJob_labOps (t : Nat) (x : Job) : (s.setJob t x).labOps = s.labOps := rfl
@[simp] theorem setJob_nextOp (t : Nat) (x : Job) : (s.setJob t x).nextOp = s.nextOp := rfl
@[simp] theorem setJob_launches (t : Nat) (x : Job) : (s.setJob t x).launches = s.launches := rfl
@[simp] theorem setJob_succs (t : Nat) (x : Job) : (s.setJob t x).succs = s.succs := rfl
@[simp] theorem setJob_fabSeq (t : Nat) (x : Job) : (s.setJob t x).fabSeq = s.fabSeq := rfl
@[simp] theorem setJob_handles (t : Nat) (x : Job) : (s.setJob t x).handles = s.handles := rfl
@[simp] theorem setJob_pages (t : Nat) (x : Job) : (s.setJob t x).pages = s.pages := rfl
@[simp] theorem setJob_net (t : Nat) (x : Job) : (s.setJob t x).net = s.net := rfl
@[simp] theorem setJob_waiting (t : Nat) (x : Job) : (s.setJob t x).waiting = s.waiting := rfl
@[simp] theorem setJob_answers (t : Nat) (x : Job) : (s.setJob t x).answers = s.answers := rfl
@[simp] theorem setJob_port (t : Nat) (x : Job) : (s.setJob t x).port = s.port := rfl
@[simp] theorem setJob_portRefused (t : Nat) (x : Job) : (s.setJob t x).portRefused = s.portRefused := rfl
@[simp] theorem setJob_plant (t : Nat) (x : Job) : (s.setJob t x).plant = s.plant := rfl
@[simp] theorem setJob_ctx (t : Nat) (x : Job) : (s.setJob t x).ctx = s.ctx := rfl

/-! Every other field that setThandle leaves. -/

@[simp] theorem setThandle_cur (h : Nat) (x : THandle) : (s.setThandle h x).cur = s.cur := rfl
@[simp] theorem setThandle_ir (h : Nat) (x : THandle) : (s.setThandle h x).ir = s.ir := rfl
@[simp] theorem setThandle_raw (h : Nat) (x : THandle) : (s.setThandle h x).raw = s.raw := rfl
@[simp] theorem setThandle_arg (h : Nat) (x : THandle) : (s.setThandle h x).arg = s.arg := rfl
@[simp] theorem setThandle_sched (h : Nat) (x : THandle) : (s.setThandle h x).sched = s.sched := rfl
@[simp] theorem setThandle_tick (h : Nat) (x : THandle) : (s.setThandle h x).tick = s.tick := rfl
@[simp] theorem setThandle_clock (h : Nat) (x : THandle) : (s.setThandle h x).clock = s.clock := rfl
@[simp] theorem setThandle_mem (h : Nat) (x : THandle) : (s.setThandle h x).mem = s.mem := rfl
@[simp] theorem setThandle_tags (h : Nat) (x : THandle) : (s.setThandle h x).tags = s.tags := rfl
@[simp] theorem setThandle_fe (h : Nat) (x : THandle) : (s.setThandle h x).fe = s.fe := rfl
@[simp] theorem setThandle_wmem (h : Nat) (x : THandle) : (s.setThandle h x).wmem = s.wmem := rfl
@[simp] theorem setThandle_wtags (h : Nat) (x : THandle) : (s.setThandle h x).wtags = s.wtags := rfl
@[simp] theorem setThandle_wfe (h : Nat) (x : THandle) : (s.setThandle h x).wfe = s.wfe := rfl
@[simp] theorem setThandle_wstamps (h : Nat) (x : THandle) : (s.setThandle h x).wstamps = s.wstamps := rfl
@[simp] theorem setThandle_stamps (h : Nat) (x : THandle) : (s.setThandle h x).stamps = s.stamps := rfl
@[simp] theorem setThandle_stampBase (h : Nat) (x : THandle) : (s.setThandle h x).stampBase = s.stampBase := rfl
@[simp] theorem setThandle_cores (h : Nat) (x : THandle) : (s.setThandle h x).cores = s.cores := rfl
@[simp] theorem setThandle_clusters (h : Nat) (x : THandle) : (s.setThandle h x).clusters = s.clusters := rfl
@[simp] theorem setThandle_dlt (h : Nat) (x : THandle) : (s.setThandle h x).dlt = s.dlt := rfl
@[simp] theorem setThandle_jobs (h : Nat) (x : THandle) : (s.setThandle h x).jobs = s.jobs := rfl
@[simp] theorem setThandle_labOps (h : Nat) (x : THandle) : (s.setThandle h x).labOps = s.labOps := rfl
@[simp] theorem setThandle_nextOp (h : Nat) (x : THandle) : (s.setThandle h x).nextOp = s.nextOp := rfl
@[simp] theorem setThandle_launches (h : Nat) (x : THandle) : (s.setThandle h x).launches = s.launches := rfl
@[simp] theorem setThandle_succs (h : Nat) (x : THandle) : (s.setThandle h x).succs = s.succs := rfl
@[simp] theorem setThandle_fabSeq (h : Nat) (x : THandle) : (s.setThandle h x).fabSeq = s.fabSeq := rfl
@[simp] theorem setThandle_pages (h : Nat) (x : THandle) : (s.setThandle h x).pages = s.pages := rfl
@[simp] theorem setThandle_net (h : Nat) (x : THandle) : (s.setThandle h x).net = s.net := rfl
@[simp] theorem setThandle_waiting (h : Nat) (x : THandle) : (s.setThandle h x).waiting = s.waiting := rfl
@[simp] theorem setThandle_answers (h : Nat) (x : THandle) : (s.setThandle h x).answers = s.answers := rfl
@[simp] theorem setThandle_port (h : Nat) (x : THandle) : (s.setThandle h x).port = s.port := rfl
@[simp] theorem setThandle_portRefused (h : Nat) (x : THandle) : (s.setThandle h x).portRefused = s.portRefused := rfl
@[simp] theorem setThandle_plant (h : Nat) (x : THandle) : (s.setThandle h x).plant = s.plant := rfl
@[simp] theorem setThandle_ctx (h : Nat) (x : THandle) : (s.setThandle h x).ctx = s.ctx := rfl

end Sys2Proof.Machine
end

