-- ==== Sys2Proof/Laws/Regs.lean ====
section
/-! SUPPORT. Registers: the checks before a result, the writes with their labels, and what a scalar, mask or vector result
leaves. -/

namespace Sys2Proof.Spec

open Machine

variable {s t u : State}

/-! ### Checks -/

theorem regOk_iff {r : RU} : s.regOk r = true ↔ Within s r := by
  cases r with
  | s n => exact decide_eq_true_iff
  | v n => exact decide_eq_true_iff
  | a n => exact Iff.rfl

theorem regs_ok {l : List RU} (h : Named s l) : s.regs l = .ok () := by
  induction l with
  | nil => rfl
  | cons r l ih =>
    have h1 := regOk_iff.2 (h r (List.mem_cons_self ..))
    simp only [State.regs, h1, if_true]
    exact ih (fun q hq => h q (List.mem_cons_of_mem _ hq))

theorem freeS_ok {d : BitVec 6} (h : FreeS s d) : s.freeS d = .ok () := by
  have : s.act.busyS d = false := by
    simp only [Act.busyS, Bool.or_eq_false_iff, List.any_eq_false]
    refine ⟨fun o ho => ?_, fun o ho => by simp [h.2 o ho]⟩
    simp only [List.any_eq_true, not_exists, not_and]
    intro w hw
    cases w with
    | s n v l =>
      simp only [Bool.and_eq_true, beq_iff_eq, bne_iff_ne, ne_eq, not_and, not_not]
      rintro rfl
      exact h.1 o ho v l hw
    | v n x => simp
  simp [State.freeS, this]

theorem freeV_ok {d : BitVec 4} (h : FreeV s d) : s.freeV d = .ok () := by
  have : s.act.busyV d = false := by
    simp only [Act.busyV, Bool.or_eq_false_iff, List.any_eq_false]
    refine ⟨fun o ho => ?_, fun o ho => by simp [h.2 o ho]⟩
    simp only [List.any_eq_true, not_exists, not_and]
    intro w hw
    cases w with
    | s n v l => simp
    | v n x =>
      simp only [beq_iff_eq]
      rintro rfl
      exact h.1 o ho x hw
  simp [State.freeV, this]

theorem bRegs_eq : s.ir.bRU = bRegs s := rfl
theorem opB_eq : s.opB = bReg s := by unfold State.opB bReg; cases s.ir.lit <;> rfl
theorem immS_eq : s.ir.immS = immediate s := by
  unfold Ops.immS immediate
  cases s.ir.lit with
  | some v => rfl
  | none => simp [BitVec.signExtend]

/-! ### Changes inside the acting core and its label table -/

theorem inside_refl (s : State) : Inside s s := ⟨rfl, fun _ _ => rfl, rfl, fun _ _ => rfl, rfl⟩

theorem inside_cur (h : Inside s u) : u.cur = s.cur := by rw [h.1]
theorem inside_ir (h : Inside s u) : u.ir = s.ir := by rw [h.1]
theorem inside_raw (h : Inside s u) : u.raw = s.raw := by rw [h.1]
theorem inside_mem (h : Inside s u) : u.mem = s.mem := by rw [h.1]

theorem inside_trans (h : Inside s t) (g : Inside t u) : Inside s u := by
  obtain ⟨h1, h2, h3, h4, h5⟩ := h
  obtain ⟨g1, g2, g3, g4, g5⟩ := g
  have hc : t.cur = s.cur := by rw [h1]
  have hk : t.cl = s.cl := by simp [State.cl, hc]
  refine ⟨?_, fun c hn => (g2 c (by rw [hc]; exact hn)).trans (h2 c hn), ?_, fun k hn => (g4 k (by rw [hk]; exact hn)).trans (h4 k hn), ?_⟩
  · rw [g1, h1]
  · rw [g3, h3]
  · rw [g5, h5]

theorem inside_setAct (a : Act) : Inside s (s.setAct a) := by
  refine ⟨rfl, fun c hc => core_setAct_other s c a hc, ?_, fun k _ => rfl, rfl⟩
  simp

theorem inside_orFlags (f : Word) : Inside s (s.orFlags f) := by
  unfold State.orFlags; split
  · exact inside_refl s
  · exact inside_setAct _

@[simp] theorem act_orFlags (f : Word) : (s.orFlags f).act = { s.act with flags := s.act.flags ||| f } := by
  unfold State.orFlags; split
  · next h => subst h; simp
  · simp

theorem inside_clt (t' : LTable) : Inside s (s.setMyCluster { s.myCluster with clt := t' }) := by
  refine ⟨rfl, fun _ _ => rfl, rfl, fun k hk => cluster_setCluster_other s _ _ _ hk, ?_⟩
  simp

theorem inside_refC (h : Handle) : Inside s (s.refC s.cl h) := by
  unfold State.refC; split
  · exact inside_refl s
  · exact inside_clt _
theorem inside_unrefC (h : Handle) : Inside s (s.unrefC s.cl h) := by
  unfold State.unrefC; split
  · exact inside_refl s
  · exact inside_clt _
@[simp] theorem act_refC (k : Nat) (h : Handle) : (s.refC k h).act = s.act := by unfold State.refC; split <;> rfl
@[simp] theorem act_unrefC (k : Nat) (h : Handle) : (s.unrefC k h).act = s.act := by unfold State.unrefC; split <;> rfl
@[simp] theorem cl_refC (k : Nat) (h : Handle) : (s.refC k h).cl = s.cl := by unfold State.refC; split <;> rfl

theorem inside_swapRef (n o : Handle) : Inside s (s.swapRef n o) := by
  unfold State.swapRef
  have := inside_unrefC (s := s.refC s.cl n) o
  rw [cl_refC] at this
  exact inside_trans (inside_refC n) this
@[simp] theorem act_swapRef (n o : Handle) : (s.swapRef n o).act = s.act := by simp [State.swapRef]

/-- Interning touches the label table only. -/
theorem intern_ok {l : Lab} {h : Handle} (e : s.intern l = .ok (t, h)) : Inside s t ∧ t.act = s.act := by
  unfold State.intern at e
  split at e
  · cases e
  · split at e
    · cases e; exact ⟨inside_refl _, rfl⟩
    · cases e; exact ⟨inside_clt _, rfl⟩

theorem product_ok {hs : List Handle} {h : Handle} {f : Word} (e : s.product hs = .ok (t, h, f)) : Inside s t ∧ t.act = s.act := by
  unfold State.product at e
  split at e
  · cases e; exact ⟨inside_refl _, rfl⟩
  · cases e; exact ⟨inside_refl _, rfl⟩
  · split at e
    · cases e
    · split at e
      · cases e
      · next hi => cases e; exact intern_ok hi

theorem productG_ok {gs : List (List Handle)} {h : Handle} {f : Word} (e : s.productG gs = .ok (t, h, f)) : Inside s t ∧ t.act = s.act := by
  unfold State.productG at e
  split at e
  · cases e
  · split at e
    · cases e; exact ⟨inside_refl _, rfl⟩
    · cases e; exact ⟨inside_refl _, rfl⟩
    · split at e
      · cases e
      · split at e
        · cases e
        · next hi => cases e; exact intern_ok hi

theorem products_ok {qs : List (Option (List (List Handle)) × Handle)} {hs : List Handle} {f : Word} (e : s.products qs = .ok (t, hs, f)) :
    Inside s t ∧ t.act = s.act ∧ hs.length = qs.length := by
  induction qs generalizing s t hs f with
  | nil => cases e; exact ⟨inside_refl _, rfl, rfl⟩
  | cons q qs ih =>
    obtain ⟨o, old⟩ := q
    cases o with
    | none =>
      simp only [State.products] at e
      split at e
      · cases e
      · next h => cases e; obtain ⟨a, b, c⟩ := ih h; exact ⟨a, b, by simp [c]⟩
    | some l =>
      simp only [State.products] at e
      split at e
      · cases e
      · next h1 =>
        split at e
        · cases e
        · next h2 =>
          cases e
          obtain ⟨a, b⟩ := productG_ok h1
          obtain ⟨c, d, g⟩ := ih h2
          exact ⟨inside_trans a c, d.trans b, by simp [g]⟩

/-! ### Writes -/

theorem inside_writeS (r : BitVec 6) (v : Word) (l : Handle) : Inside s (s.writeS r v l) := by
  unfold State.writeS; exact inside_trans (inside_swapRef _ _) (inside_setAct _)
@[simp] theorem act_writeS (r : BitVec 6) (v : Word) (l : Handle) : (s.writeS r v l).act = s.act.wr r ⟨v, l⟩ := by simp [State.writeS]
theorem inside_writeM (r : BitVec 3) (v : Word) (l : Handle) : Inside s (s.writeM r v l) := by
  unfold State.writeM; exact inside_trans (inside_swapRef _ _) (inside_setAct _)
@[simp] theorem act_writeM (r : BitVec 3) (v : Word) (l : Handle) : (s.writeM r v l).act = s.act.wrM r ⟨v, l⟩ := by simp [State.writeM]
theorem inside_refAll (l : List Handle) : Inside s (s.refAll s.cl l) ∧ (s.refAll s.cl l).act = s.act := by
  unfold State.refAll
  induction l generalizing s with
  | nil => exact ⟨inside_refl s, rfl⟩
  | cons h l ih =>
    have e : (s.refC s.cl h).cl = s.cl := cl_refC _ _
    obtain ⟨a, b⟩ := ih (s := s.refC s.cl h)
    rw [e] at a b
    exact ⟨inside_trans (inside_refC h) a, by rw [List.foldl_cons, b]; exact act_refC _ _⟩

theorem inside_unrefAll (l : List Handle) : Inside s (s.unrefAll s.cl l) ∧ (s.unrefAll s.cl l).act = s.act := by
  unfold State.unrefAll
  induction l generalizing s with
  | nil => exact ⟨inside_refl s, rfl⟩
  | cons h l ih =>
    have e : (s.unrefC s.cl h).cl = s.cl := by unfold State.unrefC; split <;> rfl
    obtain ⟨a, b⟩ := ih (s := s.unrefC s.cl h)
    rw [e] at a b
    exact ⟨inside_trans (inside_unrefC h) a, by rw [List.foldl_cons, b]; exact act_unrefC _ _⟩

/-- A vector write counts the new labels, gives back the old ones, and changes the register. -/
theorem writeV_ok (r : BitVec 4) (x : VReg) : Inside s (s.writeV r x) ∧ (s.writeV r x).act = s.act.wrV r x := by
  obtain ⟨a, b⟩ := inside_refAll (s := s) x.labs
  have e : (s.refAll s.cl x.labs).cl = s.cl := congrArg (· / 8) (inside_cur a)
  obtain ⟨c, d⟩ := inside_unrefAll (s := s.refAll s.cl x.labs) (s.act.rdV r).labs
  rw [e] at c d
  exact ⟨inside_trans (inside_trans a c) (inside_setAct _), by simp [State.writeV]⟩
theorem inside_writeV (r : BitVec 4) (x : VReg) : Inside s (s.writeV r x) := (writeV_ok r x).1
@[simp] theorem act_writeV (r : BitVec 4) (x : VReg) : (s.writeV r x).act = s.act.wrV r x := (writeV_ok r x).2

/-- A scalar register after a write: the written one, s0 aside, has the value; the others keep theirs. In a handler the
numbers run below 16. -/
theorem rd_wr (a : Act) (d r : BitVec 6) (x : Reg) (hd : a.trap.isSome → d.toNat < 16) (hr : a.trap.isSome → r.toNat < 16) :
    (a.wr d x).rd r = if r = d then (if d = 0 then {} else x) else a.rd r := by
  unfold Act.wr Act.rd
  by_cases d0 : d = 0
  · subst d0
    by_cases r0 : r = 0
    · simp [r0]
    · have r0' : ¬ r = 0#6 := r0
      simp [r0']
  · by_cases r0 : r = 0
    · subst r0; have d0' : ¬ (0#6 = d) := fun h => d0 h.symm
      simp [d0']
    · cases ht : a.trap with
      | none =>
        simp only [d0, r0, if_false]
        by_cases e : r = d
        · subst e; simp
        · have : d.toNat ≠ r.toNat := fun h => e (BitVec.eq_of_toNat_eq h.symm)
          rw [Vector.getElem_set_ne _ _ this]; simp [e]
      | some t =>
        have hd' := hd (by simp [ht]); have hr' := hr (by simp [ht])
        simp only [d0, r0, if_false, Nat.mod_eq_of_lt hd', Nat.mod_eq_of_lt hr']
        by_cases e : r = d
        · subst e; simp
        · have : d.toNat ≠ r.toNat := fun h => e (BitVec.eq_of_toNat_eq h.symm)
          rw [Vector.getElem_set_ne _ _ this]; simp [e]

theorem rd_congr {a b : Act} (h1 : a.sregs = b.sregs) (h2 : a.trap = b.trap) (r : BitVec 6) : a.rd r = b.rd r := by
  unfold Act.rd; rw [h1, h2]

/-- A scalar write with flags, after a change inside that leaves the activation. -/
theorem scalarGets_of {d : BitVec 6} {v : Word} {l : Handle} {f : Word} (h : Inside s t) (e : t.act = s.act) (hd : Within s (.s d.toNat)) :
    ScalarGets s ((t.writeS d v l).orFlags f) d v l f := by
  have hn : s.act.trap.isSome → d.toNat < 16 := by
    intro ht; simpa [Within, ht] using hd
  have key : ∀ r : BitVec 6, Within s (.s r.toNat) →
      ((t.writeS d v l).orFlags f).act.rd r = if r = d then (if d = 0 then {} else ⟨v, l⟩) else s.act.rd r := by
    intro r hr
    have hr' : s.act.trap.isSome → r.toNat < 16 := by intro ht; simpa [Within, ht] using hr
    rw [rd_congr (b := s.act.wr d ⟨v, l⟩) (by simp [e]) (by simp [e])]
    exact rd_wr _ _ _ _ hn hr'
  refine ⟨inside_trans h (inside_trans (inside_writeS _ _ _) (inside_orFlags _)), ?_, ?_, ?_, ?_, ?_⟩
  · rw [key d hd]; simp
  · intro r hr hw; rw [key r hw]; simp [hr]
  · simp only [act_orFlags, act_writeS, e]; unfold Act.wr; split
    · rfl
    · split <;> rfl
  · intro ht; simp only [act_orFlags, act_writeS, e]; unfold Act.wr; simp [ht]; split <;> simp [ht]
  · intro x ht; simp only [act_orFlags, act_writeS, e]; unfold Act.wr; simp only [ht]
    split
    · exact ⟨rfl, x.shadow, ht⟩
    · exact ⟨rfl, _, rfl⟩

/-- What a scalar instruction does when its registers may be named, no result is owed to d and the label is found. -/
theorem scalar_ok {ru : List RU} {srcs : List Reg} {v f lf : Word} {l : Handle} (hn : Named s (.s s.ir.d.toNat :: ru))
    (hf : FreeS s s.ir.d) (hl : Labels s (srcs.map (·.lab) ++ [s.act.clab]) l lf) :
    ∃ u, s.scalar ru srcs (v, f) = .ok u ∧ ScalarGets s u s.ir.d v l (f ||| lf) := by
  obtain ⟨t, ht⟩ := hl
  obtain ⟨hi, ha⟩ := product_ok ht
  refine ⟨_, ?_, scalarGets_of hi ha (hn _ (List.mem_cons_self ..))⟩
  simp [State.scalar, regs_ok hn, freeS_ok hf, ht]

theorem maskGets_of {d : BitVec 3} {v : Word} {l : Handle} {f : Word} (h : Inside s t) (e : t.act = s.act) :
    MaskGets s ((t.writeM d v l).orFlags f) d v l f := by
  refine ⟨inside_trans h (inside_trans (inside_writeM _ _ _) (inside_orFlags _)), ?_, ?_, ?_⟩
  · simp only [act_orFlags, act_writeM, e]; unfold Act.rdM Act.wrM; split <;> simp_all
  · intro j hj; simp only [act_orFlags, act_writeM, e]; unfold Act.rdM Act.wrM
    by_cases h0 : d = 0
    · simp [h0]
    · by_cases j0 : j = 0
      · simp [j0]
      · have : d.toNat ≠ j.toNat := fun h => hj (BitVec.eq_of_toNat_eq h.symm)
        simp only [h0, j0, if_false]; rw [Vector.getElem_set_ne _ _ this]
  · simp only [act_orFlags, act_writeM, e]; unfold Act.wrM; split <;> rfl

theorem maskTo_ok {srcs : List Reg} {v lf : Word} {l : Handle} (hl : Labels s (srcs.map (·.lab) ++ [s.act.clab]) l lf) :
    ∃ u, s.maskTo srcs v = .ok u ∧ MaskGets s u s.ir.kd v l lf := by
  obtain ⟨t, ht⟩ := hl
  obtain ⟨hi, ha⟩ := product_ok ht
  refine ⟨_, ?_, maskGets_of hi ha⟩
  simp [State.maskTo, ht]

/-! ### Vectors -/

theorem vPack_lt (w : Nat) (l : List Nat) : vPack w l < 2 ^ (w * l.length) := by
  induction l with
  | nil => simp [vPack]
  | cons x l ih =>
    have h1 : x % 2 ^ w < 2 ^ w := Nat.mod_lt _ (Nat.two_pow_pos w)
    have : 2 ^ (w * (l.length + 1)) = 2 ^ w * 2 ^ (w * l.length) := by rw [Nat.mul_succ, Nat.pow_add, Nat.mul_comm]
    simp only [vPack, List.length_cons, this]
    have h2 : vPack w l + 1 ≤ 2 ^ (w * l.length) := ih
    calc x % 2 ^ w + 2 ^ w * vPack w l < 2 ^ w + 2 ^ w * vPack w l := by omega
      _ = 2 ^ w * (vPack w l + 1) := by rw [Nat.mul_add]; omega
      _ ≤ _ := Nat.mul_le_mul_left _ h2

theorem vPack_elem (w : Nat) (l : List Nat) (i : Nat) (h : i < l.length) :
    vPack w l / 2 ^ (w * i) % 2 ^ w = l[i] % 2 ^ w := by
  induction l generalizing i with
  | nil => simp at h
  | cons x l ih =>
    have hp : 0 < 2 ^ w := Nat.two_pow_pos w
    have hx : x % 2 ^ w < 2 ^ w := Nat.mod_lt _ hp
    cases i with
    | zero => simp only [vPack, Nat.mul_zero, Nat.pow_zero, Nat.div_one, List.getElem_cons_zero]; rw [Nat.add_mul_mod_self_left, Nat.mod_mod]
    | succ i =>
      simp only [List.length_cons, Nat.add_lt_add_iff_right] at h
      have e : 2 ^ (w * (i + 1)) = 2 ^ w * 2 ^ (w * i) := by rw [Nat.mul_succ, Nat.pow_add, Nat.mul_comm]
      rw [e, ← Nat.div_div_eq_div_mul]
      have : vPack w (x :: l) / 2 ^ w = vPack w l := by
        simp only [vPack]; rw [Nat.add_mul_div_left _ _ hp, Nat.div_eq_of_lt hx, Nat.zero_add]
      rw [this, ih i h]; simp

/-- Element i of a vector made of a list. -/
theorem vElem_vOf (w : Nat) (l : List Nat) (i : Nat) (h : i < l.length) (hw : w * l.length ≤ 512) : vElem (vOf w l) w i = l[i] % 2 ^ w := by
  have h1 := vPack_lt w l
  have h2 : vPack w l < 2 ^ 512 := Nat.lt_of_lt_of_le h1 (Nat.pow_le_pow_right (by decide) hw)
  have e : (vOf w l).toNat = vPack w l := (BitVec.toNat_ofNat _ _).trans (Nat.mod_eq_of_lt h2)
  unfold vElem; rw [e, vPack_elem w l i h]

theorem vElem_lt (v : Line) (w i : Nat) : vElem v w i < 2 ^ w := Nat.mod_lt _ (Nat.two_pow_pos w)

theorem inside_vec {d : BitVec 4} {x : VReg} {f : Word} (h : Inside s t) : Inside s ((t.writeV d x).orFlags f) :=
  inside_trans h (inside_trans (inside_writeV _ _) (inside_orFlags _))

theorem rdV_wrV (a : Act) (d r : BitVec 4) (x : VReg) : (a.wrV d x).rdV r = if r = d then x else a.rdV r := by
  unfold Act.wrV Act.rdV
  by_cases e : r = d
  · subst e; simp
  · have : d.toNat ≠ r.toNat := fun h => e (BitVec.eq_of_toNat_eq h.symm)
    simp only [e, if_false]; rw [Vector.getElem_set_ne _ _ this]

/-- The handles of each quad whose product labels it (R161, R162): none for a quad that nothing is written to. -/
theorem vWrite_ok {ru : List RU} {w : Nat} {written : Nat → Bool} {vals : Nat → Nat} {pre : Nat → List (List Handle)} {ro : Bool}
    {mkl : List Handle} {f lf : Word} {ls : List Handle} (hn : Named s (.v s.ir.d.toNat :: ru)) (hf : FreeV s s.ir.vd)
    (hl : QuadLabels s (quadSources s w written pre ro mkl) ls lf) :
    ∃ u, s.vWrite ru w written vals pre ro mkl f = .ok u ∧
      VectorGets s u s.ir.vd w (fun i => if written i then vals i % 2 ^ w else vElem (s.act.rdV s.ir.vd).val w i) ls (f ||| lf) := by
  obtain ⟨t, ht⟩ := hl
  obtain ⟨hi, ha, hlen⟩ := products_ok ht
  refine ⟨(t.writeV s.ir.vd (VReg.ofLabs (vOf w ((List.range (512 / w)).map (fun i => if written i then vals i
    else vElem (s.act.rdV s.ir.vd).val w i))) ls)).orFlags (f ||| lf), ?_, inside_vec hi, ?_, ?_, ?_, ?_⟩
  · unfold State.vWrite
    simp only [regs_ok hn, freeV_ok hf]
    unfold quadSources at ht
    simp only [ht]
  · intro i hi'
    simp only [act_orFlags, act_writeV]
    show vElem (((t.act.wrV s.ir.vd _).rdV s.ir.vd).val) w i = _
    rw [rdV_wrV]
    simp only [if_true, VReg.ofLabs]
    rw [vElem_vOf _ _ _ (by simpa using hi') (by simpa using Nat.mul_div_le 512 w)]
    simp only [List.getElem_map, List.getElem_range]
    split
    · rfl
    · exact Nat.mod_eq_of_lt (vElem_lt _ _ _)
  · simp only [act_orFlags, act_writeV]
    show VReg.labs ((t.act.wrV s.ir.vd _).rdV s.ir.vd) = _
    rw [rdV_wrV]
    simp only [if_true, VReg.ofLabs, VReg.labs]
    simp only [quadSources, List.length_cons, List.length_nil] at hlen
    match ls, hlen with
    | [a, b, c, d], _ => rfl
  · intro r hr
    simp only [act_orFlags, act_writeV]
    show (t.act.wrV s.ir.vd _).rdV r = _
    rw [rdV_wrV]; simp [hr, ha]
  · simp only [act_orFlags, act_writeV, ha]; rfl

end Sys2Proof.Spec
end

