-- ==== Sys2Proof/Laws/Run.lean ====
section
/-! SUPPORT. The shared ends of instructions: markers, room, parking, the results left outstanding, and the trace of a core. -/

namespace Sys2Proof.Spec

open Machine

variable {s u : State}

/-- A core with nothing ready and nothing queued takes nothing. -/
theorem dispatch_alone {c : Nat} (h1 : (s.core c).ready = []) (h2 : (s.core c).queue = []) : s.dispatch c = s := by
  unfold State.dispatch
  simp only [h1, h2, firstOf]
  split
  · rfl
  · split
    · rfl
    · cases (s.core c).freeSlot <;> rfl

theorem asMarker_ok (h1 : s.act.outs = []) (h2 : s.act.deferred = []) (h3 : s.act.cancelled = false) (h4 : s.me.stopReq = false) :
    s.asMarker = .ok () := by
  simp [State.asMarker, h1, h2, h3, h4]

theorem onlyStamps_trans {a b c : State} (e : b = { a with stamps := b.stamps }) (w : c = { b with stamps := c.stamps }) :
    c = { a with stamps := c.stamps } :=
  calc c = { b with stamps := c.stamps } := w
    _ = { a with stamps := c.stamps } := congrArg (fun x : State => { x with stamps := c.stamps }) e

/-- A unit's walks change the times of lines and nothing else. -/
theorem homeReads_stamps (k : Nat) (ps : List Piece) : ∀ (s : State) (f : Time) (r : State × Time), s.homeReads k f ps = some r →
    r.1 = { s with stamps := r.1.stamps } := by
  induction ps with
  | nil => intro s f r h; cases h; rfl
  | cons p l ih =>
    intro s f r h
    unfold State.homeReads at h
    split at h
    · exact ih s f r h
    · split at h
      · cases h
      · exact onlyStamps_trans rfl (ih _ _ _ h)

theorem unitWalks_stamps (c : Nat) (ps : List Piece) : ∀ (s : State) (seen : Option Nat), s.unitWalks c seen ps = { s with stamps := (s.unitWalks c seen ps).stamps } := by
  induction ps with
  | nil => intro s seen; rfl
  | cons p l ih =>
    intro s seen
    unfold State.unitWalks
    split
    · exact ih s seen
    · cases h : s.homeReads (c / 8) (s.cluster (c / 8)).ltime (s.walkPieces c p.addr) with
      | none => exact ih s _
      | some r => exact onlyStamps_trans (homeReads_stamps _ _ _ _ _ h) (ih r.1 _)

/-- An access that no page of a table translates walks nothing. -/
theorem walked_elsewhere (x : Word) (h : x.toNat / 2 ^ 60 ≠ 0) : s.walked x = .ok s := by
  have e : s.walkPieces s.cur x = [] := by
    unfold State.walkPieces
    exact if_pos (by rw [show (x.toNat / 2 ^ 60 != 0) = true from bne_iff_ne.2 h]; rfl)
  unfold State.walked
  rw [e]
  rfl
theorem walks_elsewhere (ps : List Piece) (h : ∀ p ∈ ps, p.addr.toNat / 2 ^ 60 ≠ 0) : ∀ seen, s.walks seen ps = .ok s := by
  induction ps with
  | nil => intro seen; rfl
  | cons p l ih =>
    intro seen
    have hp := h p (by simp)
    have hl := ih (fun q hq => h q (by simp [hq]))
    unfold State.walks
    split
    · exact hl seen
    · simp [walked_elsewhere p.addr hp, hl]

@[simp] theorem onPage_ok {α : Type} (x : Word) (a : α) : onPage x (.ok a : Res α) = .ok a := rfl
theorem onPage_eq_ok {α : Type} {x : Word} {r : Res α} {a : α} (h : onPage x r = .ok a) : r = .ok a := by
  unfold onPage at h
  split at h
  · cases h
  · exact h

theorem room_ok (h : s.act.outs.length + s.act.deferred.length < 16) : s.room = .ok () := by simp [State.room, h]

/-- One more result is outstanding; the label table counts its labels. -/
theorem leave_ok (o : Out) : Inside s (s.leave o) ∧ (s.leave o).act = { s.act with outs := s.act.outs ++ [o] } := by
  unfold State.leave
  obtain ⟨a, _⟩ := inside_refAll (s := s) (o.writes.flatMap RegWrite.labs)
  exact ⟨inside_trans a (inside_setAct _), by simp⟩

/-- The running activation parks and a core with nothing else to run stays idle. -/
theorem park_alone (p : Park) (n : Word) (h1 : s.me.ready = []) (h2 : s.me.queue = []) :
    s.park p n = s.setMe { s.me with running := false, parked := s.me.parked ++ [{ s.act with park := some p, npc := n }] } := by
  unfold State.park
  refine dispatch_alone ?_ ?_
  · have : ∀ x : Core, ((s.setMe x).core s.cur) = x := fun x => me_setMe s x
    rw [this]; exact h1
  · have : ∀ x : Core, ((s.setMe x).core s.cur) = x := fun x => me_setMe s x
    rw [this]; exact h2

/-- A trace record changes the trace of one cluster. -/
theorem trace_cluster (c kind : Nat) (arg : Word) (k : Nat) :
    (s.trace c kind arg).cluster k = { s.cluster k with dbg := ((s.trace c kind arg).cluster k).dbg } := by
  unfold State.trace
  simp only
  split
  · by_cases h : k = c / 8
    · subst h; simp
    · rw [cluster_setCluster_other s _ _ _ h]
  · rfl

@[simp] theorem trace_cores (c kind : Nat) (arg : Word) : (s.trace c kind arg).cores = s.cores := by
  unfold State.trace; simp only; split <;> rfl
@[simp] theorem trace_mem (c kind : Nat) (arg : Word) : (s.trace c kind arg).mem = s.mem := by
  unfold State.trace; simp only; split <;> rfl
@[simp] theorem trace_core (c kind : Nat) (arg : Word) (d : Nat) : (s.trace c kind arg).core d = s.core d := by
  unfold State.core; rw [trace_cores]
theorem trace_eq (c kind : Nat) (arg : Word) : s.trace c kind arg = { s with clusters := (s.trace c kind arg).clusters } := by
  unfold State.trace; simp only; split <;> rfl

end Sys2Proof.Spec
end

