-- ==== Sys2Proof/Tests/Slice0.lean ====
section
/-! SUPPORT. Tests: words of the spec's encodings, ill-formed terms, single steps, and states that meet the hypotheses of the
statements. -/

set_option Elab.async false

namespace Sys2Proof.Tests

open Machine Spec

/-! ### States to test on -/

/-- Scalar registers with these values. -/
def regs (l : List (Nat × Word)) : Vector Reg 64 := l.foldl (fun v p => v.setIfInBounds p.1 { val := p.2 }) (Vector.replicate 64 {})

/-- A supervisor activation with all registers allotted. -/
def actOf (r : List (Nat × Word)) : Act := { Act.blank with pc := 0x1000, sa := 8, va := 4, sup := true, sregs := regs r }
def coreOf (r : List (Nat × Word)) : Core := { Core.reset 0 with running := true, xvec := 0x2000, act := actOf r }
/-- Core 0 is about to execute an instruction with operands o. -/
def on (o : Ops) (r : List (Nat × Word)) : State := { cores := [(0, coreOf r)], ir := o, raw := [0x13000002] }
/-- The same with another activation, core or plant. -/
def act' (s : State) (f : Act → Act) : State := s.setAct (f s.act)
def me' (s : State) (f : Core → Core) : State := s.setMe (f s.me)
/-- A parked activation of core 0, slot 1, whose instruction is followed by 0x2004; the core is idle. -/
def parkedOf (p : Park) : Act := { Act.blank with sa := 8, va := 4, slot := 1, pc := 0x2000, npc := 0x2004, park := some p }
def parkedOn (p : Park) (x : Args) : State :=
  { cores := [(0, { Core.reset 0 with parked := [parkedOf p] })], arg := { x with n := 0, m := 1 } }

/-! ### How a state meets a hypothesis -/

variable {s : State}

theorem nm {l : List RU} (h : l.all s.regOk = true) : Named s l := fun r hr => regOk_iff.1 (List.all_eq_true.1 h r hr)
theorem wi {r : RU} (h : s.regOk r = true) : Within s r := regOk_iff.1 h
theorem fs {d : BitVec 6} (h : s.act.outs = [] ∧ s.act.deferred = []) : FreeS s d := by simp [FreeS, h.1, h.2]
theorem fv {d : BitVec 4} (h : s.act.outs = [] ∧ s.act.deferred = []) : FreeV s d := by simp [FreeV, h.1, h.2]
theorem clean {h : Handle} (e : h = 0) : s.labOf h ≠ none := by subst e; simp [State.labOf, tlab, hTRUE]
theorem calm (h1 : s.cur < 9216) (h2 : s.shuttered s.cur = false) (h3 : s.handles = []) (h4 : s.pages = []) : Calm s := by
  refine ⟨h1, h2, fun k _ _ => ⟨?_, ?_⟩⟩
  · simp [State.tenureAt, h3]
  · simp [State.pageAbroad, h4]
theorem plain (h : s.tags = []) (k : Nat) : s.rdTag false k = 0 := by simp [State.rdTag, h]; rfl
theorem plainW (h : s.tags = []) (g : s.wtags = []) (k : Nat) : s.rdTag true k = 0 := by simp [State.rdTag, h, g]; rfl
theorem noTag (h : s.tags = []) (k j : Nat) : s.foreignTag false k j = false := by unfold State.foreignTag; rw [plain h]; rfl
theorem ot {x : Word} (h : s.tags = []) : OwnTag s x := noTag h _ _
/-- A load of a granule that is TRUE, under an address and a control label that are TRUE, has the label TRUE. -/
theorem ll {k : Nat} {la : Handle} (h : la = 0 ∧ s.act.clab = 0) (g : (match (s.timeLoad false k).productL [.h 0, s.tagSrc false k, .h 0] with
    | .ok r => decide (r.2 = (0, 0)) | .error _ => false) = true) (f : s.act.focld.getLsbD 0 = false) : ∃ t, LoadLabel s t k la 0 0 ∧ hidden s t 0 = false := by
  unfold LoadLabel Spec.hidden
  rw [h.1, h.2, f]
  split at g
  · rename_i r e; exact ⟨r.1, by rw [e, ← of_decide_eq_true g], rfl⟩
  · cases g
theorem al {hs : List Handle} {k : Nat} (h : (match s.product (hs ++ [(aReg s).lab, s.act.clab]) with
    | .ok r => decide (r.2 = (0, 0)) && (match r.1.productL [.h (aReg s).lab, r.1.tagSrc false k, .h s.act.clab] with | .ok q => decide (q.2 = (0, 0)) | .error _ => false)
    | .error _ => false) = true) : AtomLabels s hs k 0 0 0 0 := by
  unfold AtomLabels
  split at h
  · rename_i r e
    rw [Bool.and_eq_true] at h
    obtain ⟨h1, h2⟩ := h
    split at h2
    · rename_i q g
      exact ⟨r.1, q.1, by rw [e, ← of_decide_eq_true h1], by rw [g, ← of_decide_eq_true h2]⟩
    · cases h2
  · cases h
theorem bare (h1 : s.tags = []) (h3 : s.handles = []) (h4 : s.pages = []) : Bare s := by
  refine fun k _ _ => ⟨plain h1 _, ?_, ?_⟩
  · simp [State.tenureAt, h3]
  · simp [State.pageAbroad, h4]
theorem unlab {hs : List Handle} (h1 : s.act.clab = 0) (h2 : hs.all (fun h => decide (h = 0)) = true) (h3 : s.ir.k = 0 ∨ (s.act.rdM s.ir.k).lab = 0) (h4 : s.tags = []) :
    Unlabelled s hs := ⟨h1, fun h hh => of_decide_eq_true (List.all_eq_true.1 h2 h hh), fun h => h3.resolve_left h, fun _ _ _ => plain h4 _⟩
theorem own (s : State) {x : Word} (h : (decide (x.toNat / 2 ^ 60 = 8) && decide (x.toNat % 2 ^ 60 / 2 ^ 18 = s.cur % 8) && decide (x.toNat % 2 ^ 18 < s.me.scratchSize)) = true) :
    Own s x := by
  simp only [Bool.and_eq_true, decide_eq_true_eq] at h
  exact ⟨h.1.1, h.1.2, h.2⟩
theorem ownR (s : State) {x : Word} {n : Nat} (h : (decide (x.toNat / 2 ^ 60 = 8) && decide (x.toNat % 2 ^ 60 / 2 ^ 18 = s.cur % 8) && decide (x.toNat % 2 ^ 18 < s.me.scratchSize)) = true)
    (h2 : x.toNat % 2 ^ 18 + n ≤ s.me.scratchSize) (h3 : x.toNat % 2 ^ 18 + n ≤ 2 ^ 18) : OwnRange s x n := ⟨own s h, h2, h3⟩
theorem fl {gs : List (List Handle)} {l : Lab} {f : Word}
    (h : (match s.msgLabel (gs.map (fun g => g.map LSrc.h)) with | .ok r => decide (r.2 = (l, f)) | .error _ => false) = true) : FullLabel s gs l f := by
  unfold FullLabel
  split at h
  · rename_i r e; exact ⟨r.1, by rw [e, ← of_decide_eq_true h]⟩
  · cases h

/-! ### Statements about integers, floating point and vectors -/

/-- d, a and b are s5, s6 and s7, or v5, v6 and v7, or the masks of those numbers. -/
def w1 : State := on { d := 5, a := 6, b := 7, c := 8, k := 1, ew := 2, t := 1, imm := 15 } [(6, 7), (7, 9), (8, 3)]

theorem test_wit_two : Named w1 (.s w1.ir.d.toNat :: .s w1.ir.a.toNat :: bRegs w1) ∧ FreeS w1 w1.ir.d ∧ FreeV w1 (w1.ir.d.setWidth 4) ∧ Room w1 :=
  ⟨nm rfl, fs ⟨rfl, rfl⟩, fv ⟨rfl, rfl⟩, by unfold Room; decide⟩
theorem test_wit_IntegerTwoSource : Labels w1 [(aReg w1).lab, (bReg w1).lab, w1.act.clab] 0 0 := ⟨_, rfl⟩
theorem test_wit_IntegerUnaryAndImmediate : Labels w1 [(aReg w1).lab, w1.act.clab] 0 0 ∧ Labels w1 [w1.act.clab] 0 0 ∧ shiftCount w1 < 64 ∧
    Labels w1 [(aReg w1).lab, (bReg w1).lab, (dReg w1).lab, w1.act.clab] 0 0 := ⟨⟨_, rfl⟩, ⟨_, rfl⟩, by decide, _, rfl⟩
theorem test_wit_FloatShort : Named w1 [.s w1.ir.d.toNat, .s w1.ir.a.toNat, .s w1.ir.b.toNat, .s w1.ir.c.toNat] ∧
    Labels w1 [(aReg w1).lab, (w1.act.rd w1.ir.b).lab, (w1.act.rd w1.ir.c).lab, w1.act.clab] 0 0 := ⟨nm rfl, _, rfl⟩
theorem test_wit_FloatLong : Named w1 (.s w1.ir.d.toNat :: (.s w1.ir.a.toNat :: bRegs w1)) ∧ Labels w1 ([(aReg w1).lab, (bReg w1).lab] ++ [w1.act.clab]) 0 0 ∧
    Labels w1 ([(aReg w1).lab] ++ [w1.act.clab]) 0 0 := ⟨nm rfl, ⟨_, rfl⟩, _, rfl⟩
theorem test_wit_FloatConvert : Named w1 [.s w1.ir.d.toNat, .s w1.ir.a.toNat] ∧ FreeS w1 w1.ir.d ∧ Labels w1 [(aReg w1).lab, w1.act.clab] 0 0 := ⟨nm rfl, fs ⟨rfl, rfl⟩, _, rfl⟩
/-- 1.0 in binary32 (R93). -/
theorem test_wit_RoundIsExact : 0x3F800000 < 2 ^ (fmtOf .s).width ∧ 0x3F800000 / 2 ^ (fmtOf .s).f % 2 ^ (fmtOf .s).eb ≠ 2 ^ (fmtOf .s).eb - 1 := by decide
/-- A magnitude half a unit above 1, whose code is even: RNE keeps it, rounding up does not. -/
theorem test_wit_rounding : let w := fmtOf .s; let q : Rat := (2 ^ 24 + 1 : Nat) * 2 ^ (-24 : Int); let lo := magnitude w 0x3F800000; let hi := magnitude w 0x3F800001
    lo ≤ q ∧ q < hi ∧ q ≠ lo ∧ ¬ RoundsUp 0 0 false 0x3F800000 lo hi q ∧ RoundsUp 2 0 false 0x3F800000 lo hi q ∧ 0x3F800000 ≤ w.maxFinite := by
  have h1 : magnitude (fmtOf .s) 0x3F800000 = 1 := by norm_num [magnitude, fmtOf]
  have h2 : magnitude (fmtOf .s) 0x3F800001 = 1 + 1 / 8388608 := by norm_num [magnitude, fmtOf]
  have h3 : (((2 ^ 24 + 1 : Nat) : Rat) * 2 ^ (-24 : Int)) = 1 + 1 / 16777216 := by norm_num
  simp only [h1, h2, h3]
  refine ⟨by norm_num, by norm_num, by norm_num, ?_, by norm_num [RoundsUp], by decide +kernel⟩
  norm_num [RoundsUp]
/-- Finite values; a NaN, a signaling one, 1; the estimates of the least subnormal number, which overflows, and of 1. -/
theorem test_wit_FloatValues : Finite (.num true 3 (-5)) ∧ NanCode (fmtOf .s) 0x7FC00000 ∧ SigCode (fmtOf .s) 0x7F800001 ∧ ¬ NanCode (fmtOf .s) 0x3F800000 ∧
    (fmtOf .s).decode 1 = .num false 1 (-149) ∧ magnitude (fmtOf .s) ((fmtOf .s).maxFinite + 1) * (((1 : Nat) : Rat) * 2 ^ (-149 : Int)) ≤ 1 ∧
    1 < magnitude (fmtOf .s) ((fmtOf .s).maxFinite + 1) * (((1 : Nat) : Rat) * 2 ^ (0 : Int)) := by
  have h : magnitude (fmtOf .s) ((fmtOf .s).maxFinite + 1) = 2 ^ 128 := by norm_num [magnitude, fmtOf, WFmt.maxFinite, WFmt.emax]
  refine ⟨⟨_, _, _, rfl⟩, by unfold NanCode; decide, by unfold SigCode NanCode; decide, by unfold NanCode; decide, by decide +kernel, ?_, ?_⟩ <;> rw [h] <;> norm_num
theorem test_wit_vector : Named w1 [.v w1.ir.d.toNat, .v w1.ir.a.toNat, .v w1.ir.b.toNat] ∧ FreeV w1 (w1.ir.d.setWidth 4) := ⟨nm rfl, fv ⟨rfl, rfl⟩⟩
theorem test_wit_VectorInteger : QuadLabels w1 (quadSources w1 (intWidth w1) (active w1) (fun q => singles [(vA w1).quadLab q, (vB w1).quadLab q]) false (maskLab w1)) [0, 0, 0, 0] 0 ∧
    QuadLabels w1 (quadSources w1 (intWidth w1) (active w1) (fun q => singles [(vA w1).quadLab q]) false (maskLab w1)) [0, 0, 0, 0] 0 := ⟨⟨_, rfl⟩, _, rfl⟩
/-- With every element active. -/
def w2 : State := { w1 with ir := { w1.ir with k := 0 } }
theorem test_wit_VectorFloat : Named w2 [.v w2.ir.d.toNat, .v w2.ir.a.toNat, .v w2.ir.b.toNat] ∧ FreeV w2 (w2.ir.d.setWidth 4) ∧
    QuadLabels w2 (quadSources w2 (fpWidth w2) (active w2) (fun q => singles [(vA w2).quadLab q, (vB w2).quadLab q]) true (maskLab w2)) [0, 0, 0, 0] 0 ∧
    QuadLabels w2 (quadSources w2 (fpWidth w2) (active w2) (fun q => singles [(vA w2).quadLab q, (vB w2).quadLab q]) false (maskLab w2)) [0, 0, 0, 0] 0 ∧
    QuadLabels w2 (quadSources w2 (fpWidth w2) (active w2) (fun q => singles [(vA w2).quadLab q]) false (maskLab w2)) [0, 0, 0, 0] 0 :=
  ⟨nm rfl, fv ⟨rfl, rfl⟩, ⟨_, rfl⟩, ⟨_, rfl⟩, _, rfl⟩
theorem test_wit_VectorCross : QuadLabels w1 (quadSources w1 (intWidth w1) (fun _ => true) (fun q => singles [(vA w1).quadLab q, (vB w1).quadLab q]) false (maskLab w1)) [0, 0, 0, 0] 0 ∧
    QuadLabels w1 (quadSources w1 (intWidth w1) (active w1) (fun _ => [(vA w1).labs, (vB w1).labs]) false (maskLab w1)) [0, 0, 0, 0] 0 ∧
    QuadLabels w1 (quadSources w1 (fpWidth w1) (fun _ => true) (fun _ => [(vA w1).labs, (vB w1).labs]) false (maskLab w1)) [0, 0, 0, 0] 0 ∧
    QuadLabels w1 (quadSources w1 (intWidth w1) (fun _ => true) (fun _ => [(vA w1).labs]) false (maskLab w1)) [0, 0, 0, 0] 0 ∧
    QuadLabels w1 (quadSources w1 (intWidth w1) (fun _ => true) (fun _ => []) false (maskLab w1)) [0, 0, 0, 0] 0 :=
  ⟨⟨_, rfl⟩, ⟨_, rfl⟩, ⟨_, rfl⟩, ⟨_, rfl⟩, _, rfl⟩
/-- Index 15 is the last of the 16 elements of W. -/
theorem test_wit_VectorMoveCompareConvert : Named w1 [.v w1.ir.d.toNat, .s w1.ir.a.toNat] ∧ FreeS w1 w1.ir.a ∧ w1.ir.imm.toNat < count w1 ∧
    Labels w1 [(vD w1).quadLab (intWidth w1 * w1.ir.imm.toNat / 128), w1.act.clab] 0 0 ∧
    Labels w1 [(vD w1).quadLab (intWidth w1 * w1.ir.imm.toNat / 128), (aReg w1).lab, w1.act.clab] 0 0 ∧
    QuadLabels w1 (quadSources w1 (intWidth w1) (fun _ => true) (fun _ => singles [(aReg w1).lab]) false []) [0, 0, 0, 0] 0 :=
  ⟨nm rfl, fs ⟨rfl, rfl⟩, by decide, ⟨_, rfl⟩, ⟨_, rfl⟩, _, rfl⟩
theorem test_wit_vcmp : w1.ir.md.toNat ≤ 9 ∧ ({ w1.ir with md := 9 } : Ops).md.toNat ≤ 9 ∧ GroupLabels w1 ([(vA w1).labs, (vB w1).labs] ++ singles (maskLab w1 ++ [w1.act.clab])) 0 0 :=
  ⟨by decide, by decide, _, rfl⟩
/-- From S to D: eight elements of 64 bits. -/
def w3 : State := { w1 with ir := { w1.ir with x := 1, y := 0 } }
theorem test_wit_vcvt : Named w3 [.v w3.ir.d.toNat, .v w3.ir.a.toNat] ∧ FreeV w3 (w3.ir.d.setWidth 4) ∧
    QuadLabels w3 (quadSources w3 (cvtWidth w3.ir.y.toNat) (fun i => decide (512 / Nat.max (cvtWidth w3.ir.x.toNat) (cvtWidth w3.ir.y.toNat) ≤ i) || active w3 i)
      (fun _ => [(vA w3).labs]) false (maskLab w3)) [0, 0, 0, 0] 0 := ⟨nm rfl, fv ⟨rfl, rfl⟩, _, rfl⟩

/-! ### Statements about masks, transfers and system instructions -/

theorem test_wit_Masks : Labels w1 ([(kA w1).lab, (kB w1).lab] ++ [w1.act.clab]) 0 0 ∧ Labels w1 ([(kA w1).lab] ++ [w1.act.clab]) 0 0 ∧
    Named w1 [.s w1.ir.a.toNat] ∧ Named w1 [.s w1.ir.d.toNat] := ⟨⟨_, rfl⟩, ⟨_, rfl⟩, nm rfl, nm rfl⟩
theorem joins0 (hs : List Handle) (h : ∃ t, s.product hs = .ok (t, 0, 0)) : Joins s hs s.act.clab 0 := by
  obtain ⟨t, h⟩ := h
  exact ⟨t, 0, 0, h, rfl, rfl⟩
/-- LOOP with a counter of 7 and of 0. -/
def w4 : State := on { a := 6 } []
theorem test_wit_BranchesAndJumps : Named w1 [.s w1.ir.a.toNat, .s w1.ir.b.toNat] ∧ w1.labOf (aReg w1).lab ≠ none ∧ w1.labOf (w1.act.rd w1.ir.b).lab ≠ none ∧
    Joins w1 [(aReg w1).lab, (w1.act.rd w1.ir.b).lab] 0 0 ∧ w1.labOf (kA w1).lab ≠ none ∧ Joins w1 [(kA w1).lab] 0 0 ∧ Within w1 (.s 63) ∧ FreeS w1 63 ∧
    Named w1 [.s w1.ir.d.toNat, .s w1.ir.a.toNat] ∧ FreeS w1 w1.ir.d ∧ Joins w1 [(aReg w1).lab] 0 0 :=
  ⟨nm rfl, clean rfl, clean rfl, joins0 _ ⟨_, rfl⟩, clean rfl, joins0 _ ⟨_, rfl⟩, wi rfl, fs ⟨rfl, rfl⟩, nm rfl, fs ⟨rfl, rfl⟩, joins0 _ ⟨_, rfl⟩⟩
theorem test_wit_loop : Within w1 (.s w1.ir.a.toNat) ∧ FreeS w1 w1.ir.a ∧ Labels w1 [(aReg w1).lab, 0] 0 0 ∧ (aReg w1).val ≠ 0 ∧ (aReg w4).val = 0 ∧
    Within w4 (.s w4.ir.a.toNat) ∧ Joins w4 [(aReg w4).lab] 0 0 ∧ w4.labOf (aReg w4).lab ≠ none :=
  ⟨wi rfl, fs ⟨rfl, rfl⟩, ⟨_, rfl⟩, by decide, by decide, wi rfl, joins0 _ ⟨_, rfl⟩, clean rfl⟩
/-- A result for s5 is outstanding, and the instruction is a switch marker. -/
def out1 : Out := { op := .arith, iss := {}, writes := [.s 5 42 0], flags := 0 }
def w5 : State := act' (on { sw := true } []) (fun a => { a with outs := [out1] })
theorem test_wit_EndOfInstruction : w1.act.elect = none ∧ w1.ir.sw = false ∧ w5.act.elect = none ∧ w5.ir.sw = true ∧ w5.act.cancelled = false ∧ w5.act.outs ≠ [] ∧
    Alone w5.me := ⟨rfl, rfl, rfl, rfl, rfl, by decide, rfl, rfl⟩
theorem rest1 : AtRest w1 := ⟨rfl, rfl, rfl, rfl⟩
/-- SLEEP with 2^32 - 1 in sa, and with 0. -/
def w6 : State := on { a := 6 } [(6, 0xFFFFFFFF)]
theorem test_wit_SystemFlow : AtRest w1 ∧ (∀ i, i < 9 → (w1.act.flags.getLsbD (8 + i) && w1.act.flags.getLsbD (24 + i)) = false) ∧ w1.act.sup = true ∧
    AtRest w4 ∧ Within w4 (.s w4.ir.a.toNat) ∧ Alone w4.me ∧ (aReg w4).val = 0 ∧ AtRest w6 ∧ Within w6 (.s w6.ir.a.toNat) ∧ Alone w6.me ∧ (aReg w6).val ≠ 0 ∧
    (aReg w6).val.toNat < 2 ^ 32 :=
  ⟨rest1, by decide, rfl, ⟨rfl, rfl, rfl, rfl⟩, wi rfl, ⟨rfl, rfl⟩, by decide, ⟨rfl, rfl, rfl, rfl⟩, wi rfl, ⟨rfl, rfl⟩, by decide, by decide⟩
theorem test_wit_done : w1.act.outs = [] ∧ w1.act.deferred = [] ∧ w1.act.unanswered = 0 ∧ Alone w1.me ∧ w1.act.rcd.ctr = 0 ∧ w1.act.rcd.ubuf = none ∧
    w1.act.gang = none ∧ (w1.job w1.slot).counters = [] ∧ (w1.me.chans[w1.act.chan.toNat]'w1.act.chan.isLt).recs = [] ∧ w1.me.halted = false ∧ w1.act.elect = none :=
  ⟨rfl, rfl, rfl, ⟨rfl, rfl⟩, rfl, rfl, rfl, rfl, by decide, rfl, rfl⟩
/-- A handler runs. -/
def save1 : TrapSave := { sup := false, clab := 0, cstack := [], shadow := Vector.replicate 16 {}, deferred := [] }
def w7 : State := act' (on { d := 5, a := 6, imm := 15 } []) (fun a => { a with trap := some save1 })
theorem test_wit_TrapsTaken : Within w1 (.s w1.ir.a.toNat) ∧ CanTrap w1 .swtrap ∧ w1.act.elect = none ∧ w7.act.trap = some save1 ∧ AtRest w7 ∧ w7.act.dfr = false :=
  ⟨wi rfl, ⟨rfl, rfl, rfl, .inr (by decide)⟩, rfl, rfl, ⟨rfl, rfl, rfl, rfl⟩, rfl⟩
theorem test_wit_AllotmentAndGang : w1.act.trap = none ∧ AtRest w1 ∧ Within w1 (.s w1.ir.d.toNat) ∧ w1.act.gang = none := ⟨rfl, rest1, wi rfl, rfl⟩
/-- ELECT before LD (R330): the words from pc + 4 on. -/
def w9 : State := (on {} []).withFetchWord 64 0x0E0311FE16000000
theorem test_wit_elect : w9.act.gang = none ∧ w9.fetchWord (w9.act.pc + 4) = .ok 0x0E0311FE ∧ w9.fetchFrom (w9.act.pc + 4) (wordCount 0x0E0311FE) = .ok [0x0E0311FE] ∧
    decode [0x0E0311FE] = .ok ⟨.ld, { d := 3, a := 4, md := 3, imm := 0x7E }⟩ ∧
    (∃ ru, electable ⟨.ld, { d := 3, a := 4, md := 3, imm := 0x7E }⟩ = some ru ∧ Named w9 ru) ∧
    (∃ ru, electable ⟨.getc, { d := 7 }⟩ = some ru ∧ Named w9 ru) ∧ MayAccess w9 0 7 :=
  ⟨by decide, by decide, by decide, by decide, ⟨_, rfl, nm (by decide)⟩, ⟨_, rfl, nm (by decide)⟩, by decide, .inl rfl, wi (by decide)⟩
/-- GETC of PTROOT, and of FLAGS in job mode. -/
def w10 : State := on { d := 7, imm := 0x84 } []
def w11 : State := act' (on { d := 7 } []) (fun a => { a with sup := false })
theorem test_wit_GetControl : MayAccess w10 w10.ir.imm.toNat w10.ir.d ∧ FreeS w10 w10.ir.d ∧ MayAccess w11 w11.ir.imm.toNat w11.ir.d ∧ FreeS w11 w11.ir.d ∧
    w7.act.trap.isSome = true ∧ Within w7 (.s w7.ir.a.toNat) ∧ w7.ir.imm.toNat < 8 * w7.act.sa.toNat ∧ w7.ir.imm.toNat < 64 ∧ w7.handleOk (aReg w7).val = true :=
  ⟨⟨by decide, .inl rfl, wi rfl⟩, fs ⟨rfl, rfl⟩, ⟨by decide, .inr (by decide), wi rfl⟩, fs ⟨rfl, rfl⟩, rfl, wi rfl, by decide, by decide, by decide⟩
/-- SETC with a value in s6: RM 6; CARVE with MIN 0 and MAX 32, and MAX 33; MSQUOTA 1024. -/
def w12 (v : Word) : State := on { a := 6, imm := 1 } [(6, v)]
/-- GETC of the allotment, the carve and the deferred faults, and in a handler of s5. -/
def wg (n : BitVec 32) : State := on { d := 7, imm := n } []
theorem test_wit_controlFields : MayAccess (wg 4) 4 7 ∧ (wg 4).act.slot < 8 ∧ MayAccess (wg 0x1A) 0x1A 7 ∧ (wg 0x1A).me.carveRun = none ∧ MayAccess (wg 0x8B) 0x8B 7 ∧ (wg 0x8B).act.deferred.length < 32 ∧
    (let h := act' (wg 0xC5) (fun a => { a with trap := some save1 })
     h.act.trap.isSome = true ∧ 0xC5 % 64 < 8 * h.act.sa.toNat ∧ Within h (.s 7) ∧ FreeS h 7) :=
  ⟨⟨by decide, .inl rfl, wi rfl⟩, by decide, ⟨by decide, .inl rfl, wi rfl⟩, rfl, ⟨by decide, .inl rfl, wi rfl⟩, by decide, rfl, by decide, wi rfl, fs ⟨rfl, rfl⟩⟩
/-- A quota above what is left, and below the charge; a split above the scratchpad, and one that a bound ring reaches across. -/
theorem test_wit_controlRefused : 1024 < otherQuotas (w12 1025) + (aReg (w12 1025)).val.toNat % 2048 ∧ 32 < (aReg (w12 33)).val.toNat % 64 ∧ Within (w12 33) (.s (w12 33).ir.a.toNat) ∧
    (∃ ch ∈ (me' (w12 0) (fun c => { c with chans := c.chans.set 5 { bound := true, rsize := 4, rbase := 0x100 } })).me.chans.toList, ch.touches ((aReg (w12 0)).val.toNat % 64 * 8192) = true) :=
  ⟨by decide +kernel, by decide, wi rfl, { bound := true, rsize := 4, rbase := 0x100 }, by decide +kernel, by decide +kernel⟩
theorem test_wit_SetControl : MayAccess (w12 6) (w12 6).ir.imm.toNat (w12 6).ir.a ∧ Within (w12 6) (.s (w12 6).ir.a.toNat) ∧
    (aReg (w12 6)).val.toNat % 8 ≠ 5 ∧ (aReg (w12 6)).val.toNat % 8 ≠ 7 ∧
    (aReg (w12 0x2000)).val.toNat % 64 ≤ (aReg (w12 0x2000)).val.toNat / 256 % 64 ∧ (aReg (w12 0x2000)).val.toNat / 256 % 64 ≤ 32 ∧
    32 < (aReg (w12 0x2100)).val.toNat / 256 % 64 ∧ w11.act.sup = false ∧ Within w11 (.s w11.ir.a.toNat) ∧ (w12 6).act.sup = true ∧
    (w12 6).myCluster.mxq = Vector.replicate 8 {} ∧ otherQuotas (w12 1024) + (aReg (w12 1024)).val.toNat % 2048 ≤ 1024 ∧
    charge (w12 1024).me.mustSave ≤ (aReg (w12 1024)).val.toNat % 2048 ∧ (aReg (w12 32)).val.toNat % 64 ≤ 32 ∧ (w12 32).me.carveRun = none ∧
    (∀ ch ∈ (w12 32).me.chans.toList, ch.touches ((aReg (w12 32)).val.toNat % 64 * 8192) = false) ∧
    (aReg (w12 6)).val.toNat / 2 % 4 = 3 ∧ (aReg (w12 5)).val.toNat / 2 % 4 ≠ 3 :=
  ⟨⟨by decide, .inl rfl, wi rfl⟩, wi rfl, by decide, by decide, by decide, by decide, by decide, rfl, wi rfl, rfl, rfl, by decide, by decide, by decide, rfl, by decide, by decide, by decide⟩

/-! ### Statements about memory -/

/-- s6 holds the address x of the core's own portion; s4 and s8 hold data. -/
def m1 (o : Ops) (x : Word) : State := on { o with a := 6 } [(4, 5), (5, 6), (6, x), (7, 64), (8, 0x1122334455667788)]
/-- The last byte of the portion, and its last 16 bytes, with an offset of -1. -/
def m2 : State := m1 { d := 4, md := 5 } 0x800000000003FFFF
def m3 : State := m1 { d := 4, md := 4, imm := 0x7F } 0x8000000000040000
def m4 : State := m1 { d := 4 } 0x8000000000000010
def m5 : State := { m4 with fe := [((2 ^ 39 + 0x10) / 8, false)] }
theorem calm1 (o : Ops) (x : Word) : Calm (m1 o x) := calm (by show 0 < 9216; decide) rfl rfl rfl
theorem test_wit_ScratchpadLoad : m2.ir.md.toNat < 8 ∧ m2.ir.md.toNat ≠ 4 ∧ Named m2 [.s m2.ir.d.toNat, .s m2.ir.a.toNat] ∧ FreeS m2 m2.ir.d ∧ m2.labOf (aReg m2).lab ≠ none ∧
    Calm m2 ∧ Own m2 (memAddr m2 1) ∧ (memAddr m2 1).toNat % 16 + 1 ≤ 16 ∧ OwnTag m2 (memAddr m2 1) ∧ ∃ t, LoadLabel m2 t (scratchKey m2 (memAddr m2 1)) (aReg m2).lab 0 0 ∧ Spec.hidden m2 t 0 = false :=
  ⟨by decide, by decide, nm rfl, fs ⟨rfl, rfl⟩, clean (by decide +kernel), calm1 _ _, own _ (by decide +kernel), by decide, ot rfl, ll (by decide +kernel) (by decide +kernel) rfl⟩
theorem test_wit_loadQuad : m3.ir.md.toNat = 4 ∧ m3.ir.d.toNat % 2 = 0 ∧ m3.ir.d ≠ 0 ∧ Named m3 [.s m3.ir.d.toNat, .s (m3.ir.d.toNat + 1), .s m3.ir.a.toNat] ∧
    FreeS m3 m3.ir.d ∧ FreeS m3 (m3.ir.d + 1) ∧ m3.labOf (aReg m3).lab ≠ none ∧ Calm m3 ∧ Own m3 (memAddr m3 16) ∧ (memAddr m3 16).toNat % 16 = 0 ∧ OwnTag m3 (memAddr m3 16) ∧
    ∃ t, LoadLabel m3 t (scratchKey m3 (memAddr m3 16)) (aReg m3).lab 0 0 ∧ Spec.hidden m3 t 0 = false :=
  ⟨rfl, rfl, by decide, nm rfl, fs ⟨rfl, rfl⟩, fs ⟨rfl, rfl⟩, clean (by decide +kernel), calm1 _ _, own _ (by decide +kernel), by decide, ot rfl, ll (by decide +kernel) (by decide +kernel) rfl⟩
theorem test_wit_ldfe : Named m4 [.s m4.ir.d.toNat, .s m4.ir.a.toNat] ∧ AtRest m4 ∧ m4.labOf (aReg m4).lab ≠ none ∧ Calm m4 ∧ Own m4 (memAddr m4 8) ∧ (memAddr m4 8).toNat % 8 = 0 ∧
    OwnTag m4 (memAddr m4 8) ∧ m4.full false (scratchKey m4 (memAddr m4 8)) = true ∧
    ∃ t, LoadLabel m4 t (scratchKey m4 (memAddr m4 8)) (aReg m4).lab 0 0 ∧ Spec.hidden m4 t 0 = false :=
  ⟨nm rfl, ⟨rfl, rfl, rfl, rfl⟩, clean (by decide +kernel), calm1 _ _, own _ (by decide +kernel), by decide, ot rfl, by decide, ll (by decide +kernel) (by decide +kernel) rfl⟩
theorem test_wit_ldfeWaits : Named m5 [.s m5.ir.d.toNat, .s m5.ir.a.toNat] ∧ AtRest m5 ∧ m5.labOf (aReg m5).lab ≠ none ∧ Calm m5 ∧ Own m5 (memAddr m5 8) ∧ (memAddr m5 8).toNat % 8 = 0 ∧
    m5.full false (scratchKey m5 (memAddr m5 8)) = false ∧ Alone m5.me :=
  ⟨nm rfl, ⟨rfl, rfl, rfl, rfl⟩, clean (by decide +kernel), calm (by decide) (by decide) rfl rfl, own _ (by decide +kernel), by decide, by decide, rfl, rfl⟩
theorem test_wit_ScratchpadStore : m3.ir.md.toNat ≤ 4 ∧ Named m3 (.s m3.ir.d.toNat :: .s m3.ir.a.toNat :: [.s (m3.ir.d.toNat + 1)]) ∧ Own m3 (memAddr m3 16) ∧
    (memAddr m3 16).toNat % 16 + 16 ≤ 16 ∧ TagReady m3 (scratchKey m3 (memAddr m3 16)) 16 0 ∧
    Labels m3 ((dReg m3).lab :: [(m3.act.rd (m3.ir.d + 1)).lab] ++ [(aReg m3).lab, m3.act.clab]) 0 0 ∧
    Named m4 (.s m4.ir.d.toNat :: .s m4.ir.a.toNat :: []) ∧ TagReady m4 (scratchKey m4 (memAddr m4 1)) 1 0 ∧ Own m4 (memAddr m4 1) ∧ OwnTag m4 (memAddr m4 1) ∧
    Labels m4 ((dReg m4).lab :: [] ++ [(aReg m4).lab, m4.act.clab]) 0 0 :=
  ⟨by decide, nm rfl, own _ (by decide +kernel), by decide, .inl rfl, ⟨_, rfl⟩, nm rfl, .inr (.inl rfl), own _ (by decide +kernel), rfl, _, rfl⟩
theorem test_wit_stfe : TagReady m4 (scratchKey m4 (memAddr m4 8)) 8 0 ∧ Labels m4 [(dReg m4).lab, (aReg m4).lab, m4.act.clab] 0 0 ∧ Named m4 [.s m4.ir.a.toNat] ∧
    Own m4 (aReg m4).val ∧ (aReg m4).val.toNat % 8 = 0 := ⟨.inr (.inl rfl), ⟨_, rfl⟩, nm rfl, own _ (by decide +kernel), by decide⟩
/-- The last word and the last 16 bytes of the portion. -/
def m6 : State := m1 { d := 4, b := 8 } 0x800000000003FFF8
def m7 : State := m1 { d := 4, b := 8 } 0x800000000003FFF0
theorem test_wit_Atomics : Named m6 (.s m6.ir.d.toNat :: .s m6.ir.a.toNat :: bRegs m6) ∧ m6.labOf (aReg m6).lab ≠ none ∧ (aReg m6).val.toNat % 8 = 0 ∧ Room m6 ∧ FreeS m6 m6.ir.d ∧
    Calm m6 ∧ Own m6 (aReg m6).val ∧ OwnTag m6 (aReg m6).val ∧ TagReady m6 (scratchKey m6 (aReg m6).val) 8 0 ∧
    AtomLabels m6 ((bReg m6).lab :: [(dReg m6).lab]) (scratchKey m6 (aReg m6).val) 0 0 0 0 ∧ AtomLabels m6 ((bReg m6).lab :: []) (scratchKey m6 (aReg m6).val) 0 0 0 0 :=
  ⟨nm rfl, clean (by decide +kernel), by decide, by unfold Room; decide, fs ⟨rfl, rfl⟩, calm1 _ _, own _ (by decide +kernel), ot rfl, .inr (.inl rfl), al (by decide +kernel), al (by decide +kernel)⟩
theorem test_wit_acas2 : m7.ir.d.toNat % 2 = 0 ∧ m7.ir.d ≠ 0 ∧ m7.ir.b.toNat % 2 = 0 ∧ m7.ir.lit = none ∧
    Named m7 [.s m7.ir.d.toNat, .s (m7.ir.d.toNat + 1), .s m7.ir.a.toNat, .s m7.ir.b.toNat, .s (m7.ir.b.toNat + 1)] ∧ m7.labOf (aReg m7).lab ≠ none ∧
    (aReg m7).val.toNat % 16 = 0 ∧ Room m7 ∧ FreeS m7 m7.ir.d ∧ FreeS m7 (m7.ir.d + 1) ∧ Calm m7 ∧ Own m7 (aReg m7).val ∧ OwnTag m7 (aReg m7).val ∧
    TagReady m7 (scratchKey m7 (aReg m7).val) 8 0 ∧
    AtomLabels m7 [(m7.act.rd m7.ir.b).lab, (m7.act.rd (m7.ir.b + 1)).lab, (dReg m7).lab, (m7.act.rd (m7.ir.d + 1)).lab] (scratchKey m7 (aReg m7).val) 0 0 0 0 :=
  ⟨rfl, by decide, rfl, rfl, nm rfl, clean (by decide +kernel), by decide, by unfold Room; decide, fs ⟨rfl, rfl⟩, fs ⟨rfl, rfl⟩, calm1 _ _, own _ (by decide +kernel), ot rfl, .inr (.inl rfl), al (by decide +kernel)⟩
def w13 : State := act' w1 (fun a => { a with posted := true })
theorem test_wit_fences : AtRest w1 ∧ w1.act.posted = false ∧ AtRest w13 ∧ w13.act.posted = true ∧ Alone w13.me := ⟨⟨rfl, rfl, rfl, rfl⟩, rfl, ⟨rfl, rfl, rfl, rfl⟩, rfl, rfl, rfl⟩
/-- Eight elements of D: contiguous, at a stride of 64 from s7, and by the zero indices of v7; two of them are active for the last. -/
def m8 (x : Word) (k : BitVec 3) : State := act' (m1 { d := 4, b := 7, ew := 3, k := k } x) (fun a => { a with mregs := a.mregs.set 1 { val := 3 } })
theorem ownAll (s : State) (addr : State → Nat → Word)
    (h : (List.range (count s)).all (fun i => !active s i || (decide ((addr s i).toNat / 2 ^ 60 = 8) && decide ((addr s i).toNat % 2 ^ 60 / 2 ^ 18 = s.cur % 8) &&
      decide ((addr s i).toNat % 2 ^ 18 < s.me.scratchSize)) && decide ((addr s i).toNat % (intWidth s / 8) = 0)) = true) : OwnElements s addr := by
  intro i hi ha
  have := List.all_eq_true.1 h i (List.mem_range.2 hi)
  simp only [ha, Bool.not_true, Bool.false_or, Bool.and_eq_true, decide_eq_true_eq] at this
  exact ⟨⟨this.1.1.1, this.1.1.2, this.1.2⟩, this.2⟩
def m9 : State := m8 0x800000000003FFC0 0
def m10 : State := m8 0x800000000003FE00 0
def m11 : State := m8 0x8000000000000000 1
theorem test_wit_VectorMemory : Named m9 [.v m9.ir.d.toNat, .s m9.ir.a.toNat] ∧ FreeV m9 (m9.ir.d.setWidth 4) ∧ Calm m9 ∧ m9.act.focld.getLsbD 0 = false ∧
    Unlabelled m9 ((aReg m9).lab :: (vD m9).labs) ∧ OwnElements m9 contiguous :=
  ⟨nm rfl, fv ⟨rfl, rfl⟩, calm (by decide) (by decide) rfl rfl, by decide, unlab rfl (by decide +kernel) (.inl rfl) rfl, ownAll _ _ (by decide +kernel)⟩
theorem test_wit_strided : Named m10 [.v m10.ir.d.toNat, .s m10.ir.a.toNat, .s m10.ir.b.toNat] ∧ FreeV m10 (m10.ir.d.setWidth 4) ∧ Calm m10 ∧ m10.act.pix = 0 ∧
    m10.act.focld.getLsbD 0 = false ∧ Unlabelled m10 ((aReg m10).lab :: (m10.act.rd m10.ir.b).lab :: (vD m10).labs) ∧ OwnElements m10 strided :=
  ⟨nm rfl, fv ⟨rfl, rfl⟩, calm (by decide) (by decide) rfl rfl, rfl, by decide, unlab rfl (by decide +kernel) (.inl rfl) rfl, ownAll _ _ (by decide +kernel)⟩
theorem test_wit_indexed : Named m11 [.v m11.ir.d.toNat, .s m11.ir.a.toNat, .v m11.ir.b.toNat] ∧ FreeV m11 (m11.ir.d.setWidth 4) ∧ Calm m11 ∧ Room m11 ∧ m11.act.pix = 0 ∧
    m11.act.focld.getLsbD 0 = false ∧ Unlabelled m11 ((aReg m11).lab :: (vB m11).labs ++ (vD m11).labs) ∧ OwnElements m11 byIndex ∧
    ∃ i, i < count m11 ∧ active m11 i = true :=
  ⟨nm rfl, fv ⟨rfl, rfl⟩, calm (by decide) (by decide) rfl rfl, by unfold Room; decide, rfl, by decide, unlab rfl (by decide +kernel) (.inr rfl) rfl, ownAll _ _ (by decide +kernel), 1,
    by decide, by decide⟩

/-! ### Statements about scheduling and messages -/

def ready1 : Act := { Act.blank with slot := 1, level := 3, readyAt := 5 }
def ready2 : Act := { Act.blank with slot := 2, level := 3, readyAt := 4, chan := 9 }
def q1 : State := { cores := [(0, { Core.reset 0 with ready := [ready1, ready2] })] }
theorem test_wit_TakesTheFirst : (w1.core 0).running = true ∧ (q1.core 0).running = false ∧ (q1.core 0).halted = false ∧ (q1.core 0).stopReq = false ∧
    (q1.core 0).queue = [] ∧ (q1.core 0).ready ≠ [] ∧ NotAfter ready2 ready1 := ⟨rfl, rfl, rfl, rfl, rfl, by decide, .inr ⟨rfl, .inl (by decide)⟩⟩
/-- A supervisor sends to channel 60 of core 8, module 0; s6 is the place of the payload and s7 its length, 64. -/
def s1 (t : Word) (n : Word) : State := on { d := 4, a := 6, b := 7, md := 3, c := 8 } [(4, t), (6, 0x8000000000000000), (7, n), (8, 3)]
def sN : State := s1 0x3C00000008 0
def sP : State := s1 0x3C00000008 256
theorem reach1 (n : Word) : MayReach (s1 0x3C00000008 n) 0x3C00000008 := by
  refine ⟨by decide, by refine (if_neg (by decide)).mpr ⟨by decide, ?_⟩; exact (by decide : (0x3C00000008 : Word).toNat / 2 ^ 16 % 2 ^ 16 < 6144), .inr (.inl ⟨rfl, ?_⟩)⟩; show 56 ≤ 60; decide
theorem test_wit_Sending : Named sN (.s sN.ir.d.toNat :: .s sN.ir.a.toNat :: bRegs sN) ∧ sN.labOf (dReg sN).lab ≠ none ∧ (bReg sN).val = 0 ∧ MayReach sN (dReg sN).val ∧
    QueueRoom sN ((dReg sN).val.getLsbD 39) ∧ sN.act.cancelled = false ∧ FullLabel sN (singles [(dReg sN).lab, (aReg sN).lab, (bReg sN).lab, sN.act.clab]) (some [0]) 0 :=
  ⟨nm rfl, by decide, by decide, reach1 _, by unfold QueueRoom; decide, rfl, fl (by decide +kernel)⟩
theorem test_wit_sendPayload : Named sP (.s sP.ir.d.toNat :: .s sP.ir.a.toNat :: bRegs sP) ∧ 0 < (bReg sP).val.toNat ∧ (bReg sP).val.toNat ≤ 256 ∧ MayReach sP (dReg sP).val ∧
    Calm sP ∧ OwnRange sP (aReg sP).val (bReg sP).val.toNat ∧ Unlabelled sP [(dReg sP).lab, (aReg sP).lab, (bReg sP).lab] :=
  ⟨nm rfl, by decide, by decide, reach1 _, calm (by decide) (by decide) rfl rfl, ownR _ (by decide +kernel) (by decide) (by decide), unlab rfl (by decide +kernel) (.inl rfl) rfl⟩
/-- REPLY to channel 60 of the sender of the activation's message; SENDV of four registers; SENDX of three; CHSET of 21. -/
def sR : State := s1 0x3C00000000 0
def sV : State := s1 0x3C00000008 4
def sC : State := s1 0x3C00000008 21
theorem test_wit_reply : (bReg sR).val = 0 ∧ (dReg sR).val.toNat % 2 ^ 32 = 0 ∧ (dReg sR).val.toNat < 2 ^ 38 ∧ (sR.act.sup = true ∧ 56 * 2 ^ 32 ≤ (dReg sR).val.toNat) ∧
    QueueRoom sR true ∧ FullLabel sR (singles [(dReg sR).lab, (aReg sR).lab, (bReg sR).lab, sR.act.clab]) (some [0]) 0 :=
  ⟨by decide, by decide, by decide, ⟨rfl, by decide⟩, by unfold QueueRoom; decide, fl (by decide +kernel)⟩
theorem test_wit_sendv : Named sV (.s sV.ir.d.toNat :: .v sV.ir.a.toNat :: bRegs sV ++ (sendvRegs sV).map (fun r => .v r.toNat)) ∧ sV.labOf (dReg sV).lab ≠ none ∧
    1 ≤ (bReg sV).val.toNat ∧ (bReg sV).val.toNat ≤ 4 ∧ sV.ir.a.toNat + (bReg sV).val.toNat ≤ 16 ∧
    FullLabel sV ([(dReg sV).lab] :: (sendvRegs sV).map (fun r => (sV.act.rdV r).labs) ++ singles [(bReg sV).lab, sV.act.clab]) (some [0]) 0 :=
  ⟨nm rfl, by decide, by decide, by decide, by decide, fl (by decide +kernel)⟩
theorem test_wit_sendx : Named sN (.s sN.ir.d.toNat :: (sendxRegs sN).map (fun r => .s r.toNat)) ∧
    FullLabel sN (singles ((dReg sN).lab :: (sendxRegs sN).map (fun r => (sN.act.rd r).lab) ++ [sN.act.clab])) (some [0]) 0 := ⟨nm rfl, fl (by decide +kernel)⟩
theorem test_wit_chset : Named sC (.s sC.ir.d.toNat :: bRegs sC) ∧ sC.labOf (dReg sC).lab ≠ none ∧ MayReach sC (dReg sC).val ∧ (dReg sC).val.toNat < 2 ^ 38 ∧ (bReg sC).val.toNat < 64 ∧
    (∀ i, i < 3 → ((bReg sC).val.getLsbD (2 * i) && (bReg sC).val.getLsbD (2 * i + 1)) = false) ∧ sC.act.sup = true ∧ (sC.me.residents.map (fun a => a.chsets)).sum < 8 ∧
    sC.act.cancelled = false ∧ sC.cur < 9216 := ⟨nm rfl, by decide, reach1 _, by decide, by decide, by decide, rfl, by decide, rfl, by decide⟩
/-- Memory with these bytes in the core's own portion. -/
def mem' (s : State) (l : List (Nat × Byte)) : State := { s with mem := l.map (fun p => (2 ^ 39 + p.1, p.2)) }
/-- HOSTQ with no queue; with four entries at 0x1000, two used; with all used. The queue's record is at 0x100. -/
def s5 : State := on { d := 4, a := 6, b := 7 } [(6, 0x8000000000000040), (7, 20)]
def hq (n : Byte) : State :=
  mem' (me' s5 (fun c => { c with hqbase := 0x8000000000000101 })) [(0x101, 0x10), (0x107, 0x80), (0x108, 2), (0x110, n)]
theorem rest5 : AtRest s5 := ⟨rfl, rfl, rfl, rfl⟩
theorem test_wit_QueuesAndWatches : Named s5 (.s s5.ir.d.toNat :: .s s5.ir.a.toNat :: bRegs s5) ∧ AtRest s5 ∧ (bReg s5).val.toNat ≤ 256 ∧ s5.labOf (aReg s5).lab ≠ none ∧
    s5.me.hqbase.getLsbD 0 = false ∧ Own s5 (aReg s5).val ∧ (aReg s5).val.toNat % 8 = 0 ∧ (bReg s5).val.toNat < 64 ∧ Alone s5.me ∧ (∀ p ∈ s5.me.watches, p.2.1 ≠ (aReg s5).val) :=
  ⟨nm rfl, rest5, by decide, by decide, rfl, own _ (by decide +kernel), by decide, by decide, ⟨rfl, rfl⟩, by intro p hp; cases hp⟩
theorem test_wit_hostq : Named (hq 4) (.s (hq 4).ir.d.toNat :: .s (hq 4).ir.a.toNat :: bRegs (hq 4)) ∧ AtRest (hq 4) ∧ (bReg (hq 4)).val.toNat ≤ 256 ∧
    (hq 4).me.hqbase.getLsbD 0 = true ∧ Calm (hq 4) ∧ OwnRange (hq 4) 0x8000000000000100 32 ∧ OwnRange (hq 4) (aReg (hq 4)).val 20 ∧
    Unlabelled (hq 4) [(aReg (hq 4)).lab, (bReg (hq 4)).lab] :=
  ⟨nm rfl, ⟨rfl, rfl, rfl, rfl⟩, by decide, rfl, calm (by decide) rfl rfl rfl, ownR _ (by decide +kernel) (by decide) (by decide), ownR _ (by decide +kernel) (by decide) (by decide),
    unlab rfl rfl (.inl rfl) rfl⟩
theorem test_wit_hostqSome : Named (hq 2) (.s (hq 2).ir.d.toNat :: .s (hq 2).ir.a.toNat :: bRegs (hq 2)) ∧ AtRest (hq 2) ∧ (bReg (hq 2)).val.toNat ≤ 256 ∧
    (hq 2).me.hqbase.getLsbD 0 = true ∧ Calm (hq 2) ∧ OwnRange (hq 2) 0x8000000000000100 32 ∧ OwnRange (hq 2) (aReg (hq 2)).val 20 ∧
    Unlabelled (hq 2) [(aReg (hq 2)).lab, (bReg (hq 2)).lab] :=
  ⟨nm rfl, ⟨rfl, rfl, rfl, rfl⟩, by decide, rfl, calm (by decide) rfl rfl rfl, ownR _ (by decide +kernel) (by decide) (by decide), ownR _ (by decide +kernel) (by decide) (by decide),
    unlab rfl rfl (.inl rfl) rfl⟩
theorem test_wit_hostqRoom : (ofBytes (Memory.readN (hq 4).mem (2 ^ 39 + 0x110) 8) + 2 ^ 64 - ofBytes (Memory.readN (hq 4).mem (2 ^ 39 + 0x118) 8)) % 2 ^ 64 = 4 ∧
    (ofBytes (Memory.readN (hq 2).mem (2 ^ 39 + 0x110) 8) + 2 ^ 64 - ofBytes (Memory.readN (hq 2).mem (2 ^ 39 + 0x118) 8)) % 2 ^ 64 = 2 ∧
    2 ^ ((Memory.read (hq 2).mem (2 ^ 39 + 0x108)).toNat % 16) = 4 ∧ ofBytes (Memory.readN (hq 2).mem (2 ^ 39 + 0x100) 8) + 2 * 512 = 0x8000000000001400 ∧
    OwnRange (hq 2) 0x8000000000001400 512 ∧ (2 ^ 39 + 0x1400 + 512 ≤ 2 ^ 39 + 0x100 ∨ 2 ^ 39 + 0x100 + 32 ≤ 2 ^ 39 + 0x1400) :=
  ⟨by decide +kernel, by decide +kernel, by decide +kernel, by decide +kernel, ownR _ (by decide +kernel) (by decide +kernel) (by decide), .inr (by decide)⟩
def s6 : State := on { d := 4, a := 6, b := 7 } [(6, 0x8000000000000040)]
theorem test_wit_chbind : OwnRange s6 (aReg s6).val 32 ∧ (aReg s6).val.toNat % 32 = 0 ∧ Unlabelled s6 [(aReg s6).lab, (bReg s6).lab] ∧ (bReg s6).val.toNat / 2 ^ 16 < 2 ∧
    (bReg s6).val.toNat % 2 ^ 16 < 9216 ∧ s6.act.sup = true ∧ s6.inSub s6.slot ((bReg s6).val.toNat % 2 ^ 14) = true ∧ Alone s6.me :=
  ⟨ownR _ (by decide +kernel) (by decide) (by decide), by decide, unlab rfl rfl (.inl rfl) rfl, by decide, by decide, rfl, rfl, rfl, rfl⟩
def s7 : State := me' s5 (fun c => { c with watches := [(3, 0x8000000000000040, 9, 0)] })
theorem test_wit_unwatch : s7.me.watches.find? (fun p => p.2.1 == (aReg s7).val) = some (3, 0x8000000000000040, 9, 0) := by decide

/-! ### Statements about launches and labels -/

/-- LAUNCH of cores 0 and 1 of cluster 0; with YN 0; of cluster 47 beside the sub-mesh; with a graph that is not open. -/
def lrec (s : State) (l : List (Nat × Byte)) : State := mem' s ([(0x41, 3)] ++ l)
def l1 : State := lrec s5 [(0x44, 1), (0x45, 1)]
def l2 : State := lrec s5 [(0x44, 1)]
def l3 : State := act' (me' (lrec s5 [(0x44, 1), (0x45, 1)]) (fun c => { c with tslot := 2 })) (fun a => { a with sup := false })
def l4 : State := lrec s5 [(0x44, 1), (0x45, 1), (0x48, 5), (0x49, 0x40)]
theorem canLaunch (h1 : (State.regOk s (.s s.ir.d.toNat) && s.regOk (.s s.ir.a.toNat)) = true) (h2 : AtRest s) (h3 : Calm s) (h4 : OwnRange s (aReg s).val 64)
    (h5 : (aReg s).val.toNat % 64 = 0) (h6 : Unlabelled s [(aReg s).lab]) : CanLaunch s := ⟨nm (by simpa using h1), h2, h3, h4, h5, h6⟩
/-- A record that names no graph and no phase; its launch takes the lowest free counter of each level. -/
theorem names0 (s : State) {l : LaunchRec} (h : l.graph = 0 ∧ l.phase = 0) : NamesOpen s l := ⟨fun g => absurd h.1 g, fun _ p => absurd h.2 p⟩
theorem takes0 : Takes l1 (launchRec (launchLine l1)) 1 0x4000 (some 0x8000) 0x8000 := by
  have h : (launchRec (launchLine l1)).graph = 0 ∧ (launchRec (launchLine l1)).phase = 0 := by decide +kernel
  refine ⟨⟨1, rfl, ?_, ?_⟩, fun g => absurd h.1 g, fun _ => ⟨⟨0, rfl, ?_, ?_⟩, fun p => absurd h.2 p, fun _ => ⟨⟨0, rfl, ?_, ?_⟩, rfl⟩⟩⟩
  all_goals (unfold FreeAt countersOf; decide +kernel)
/-- Every phase counter is open. -/
def lx : State := { l1 with jobs := [(0, { counters := (List.range 256).map (fun i => (2 * 2 ^ 14 + i, { state := .open_ })) })] }
theorem test_wit_launchExhausted : NamesOpen lx (launchRec (launchLine lx)) ∧ Exhausted lx (launchRec (launchLine lx)) := by
  have h : (launchRec (launchLine lx)).graph = 0 ∧ (launchRec (launchLine lx)).phase = 0 := by decide +kernel
  have h2 : (List.range 256).all (fun i => decide ((lx.counter lx.slot (2 * 2 ^ 14 + i)).state ≠ .free)) = true := by decide +kernel
  refine ⟨names0 _ h, .inr (.inr ⟨h.1, h.2, ?_⟩)⟩
  rintro i ⟨h3, -, h4⟩
  exact of_decide_eq_true (List.all_eq_true.1 h2 i (List.mem_range.2 h3)) h4
theorem test_wit_LaunchesAndCounters : CanLaunch l1 ∧ (launchRec (launchLine l1)).bad = false ∧ (launchRec (launchLine l1)).rmod = false ∧
    (∀ k ∈ (launchRec (launchLine l1)).clusters, l1.inSub l1.slot (8 * k) = true) ∧
    NamesOpen l1 (launchRec (launchLine l1)) ∧ Takes l1 (launchRec (launchLine l1)) 1 0x4000 (some 0x8000) 0x8000 :=
  ⟨canLaunch rfl ⟨rfl, rfl, rfl, rfl⟩ (calm (by decide) rfl rfl rfl) (ownR _ (by decide +kernel) (by decide) (by decide)) (by decide) (unlab rfl rfl (.inl rfl) rfl),
    by decide +kernel, by decide +kernel, by decide +kernel, names0 _ (by decide +kernel), takes0⟩
theorem test_wit_launchRefused : CanLaunch l2 ∧ (launchRec (launchLine l2)).bad = true ∧ CanLaunch l4 ∧ (launchRec (launchLine l4)).bad = false ∧
    ¬ NamesOpen l4 (launchRec (launchLine l4)) := 
  ⟨canLaunch rfl ⟨rfl, rfl, rfl, rfl⟩ (calm (by decide) rfl rfl rfl) (ownR _ (by decide +kernel) (by decide) (by decide)) (by decide) (unlab rfl rfl (.inl rfl) rfl),
    by decide +kernel, canLaunch rfl ⟨rfl, rfl, rfl, rfl⟩ (calm (by decide) rfl rfl rfl) (ownR _ (by decide +kernel) (by decide) (by decide)) (by decide) (unlab rfl rfl (.inl rfl) rfl),
    by decide +kernel, fun h => absurd (h.1 (by decide +kernel)).2 (by decide +kernel)⟩
theorem test_wit_launchOutside : CanLaunch l3 ∧ (launchRec (launchLine l3)).bad = false ∧ l3.act.sup = false ∧
    ∃ k ∈ (launchRec (launchLine l3)).clusters, l3.inSub l3.slot (8 * k) = false :=
  ⟨canLaunch rfl ⟨rfl, rfl, rfl, rfl⟩ (calm (by decide) rfl rfl rfl) (ownR _ (by decide +kernel) (by decide) (by decide)) (by decide) (unlab rfl rfl (.inl rfl) rfl),
    by decide +kernel, rfl, 0, by decide +kernel, by decide +kernel⟩
/-- Counter 5 is free, and open. -/
def l5 : State := on { d := 4, a := 6 } [(6, 5)]
def l6 : State := { l5 with jobs := [(0, { counters := [(5, { state := .open_, count := 1 })] })] }
theorem test_wit_counters : Named l5 [.s l5.ir.d.toNat, .s l5.ir.a.toNat] ∧ AtRest l5 ∧ Identity (aReg l5).val ∧ (aReg l5).val.toNat ≠ 0 ∧ (aReg l5).val.toNat ≠ 3 * 2 ^ 14 ∧
    (counterNamed l5 5).state ≠ .open_ ∧ (aReg l6).val.toNat = 5 ∧ (counterNamed l6 5).state = .open_ ∧ Alone l6.me ∧ l6.me.parked = [] ∧ l6.act.rcd.ctr = 0 ∧
    (∀ i : Fin 64, l6.me.chans[i].recs = []) ∧ (∀ p ∈ l6.cores, p.1 ≠ l6.cur → p.2.residents = [] ∧ p.2.queue = [] ∧ ∀ i : Fin 64, p.2.chans[i].recs = []) ∧
    (counterNamed l5 (3 * 2 ^ 14)).state = .zero ∧ l5.act.sup = true :=
  ⟨nm rfl, ⟨rfl, rfl, rfl, rfl⟩, by unfold Identity countersOf; decide, by decide, by decide, by decide, by decide, by decide +kernel, ⟨rfl, rfl⟩, rfl, rfl, by decide +kernel, by decide +kernel, by decide +kernel, rfl⟩
/-- Assumption 3 is live and 4 is retired; handle 1 names the label of assumption 3 alone, and s6 and s7 carry it or TRUE. -/
def jobL : Job := { lab := { live := 8, retired := 16 } }
def lb (v : Word) (a b : Handle) (x : Word) : State :=
  act' { on { d := 4, a := 6, b := 7 } [] with jobs := [(0, jobL)], clusters := [(0, { clt := [(1, { envs := [8], rc := 2 })] })] }
    (fun c => { c with sregs := (c.sregs.set 6 { val := v, lab := a }).set 7 { val := x, lab := b } })
theorem test_wit_LabelRegisters : Named (lb 5 1 0 0) (.s (lb 5 1 0 0).ir.d.toNat :: .s (lb 5 1 0 0).ir.a.toNat :: bRegs (lb 5 1 0 0)) ∧ FreeS (lb 5 1 0 0) (lb 5 1 0 0).ir.d ∧
    SourceLabels (lb 5 1 0 0) [.h (bReg (lb 5 1 0 0)).lab, .h (lb 5 1 0 0).act.clab] 0 0 ∧
    (SourceLabels (lb 5 1 0 0) [.h (aReg (lb 5 1 0 0)).lab, .h (lb 5 1 0 0).act.clab] 1 (ps (lb 5 1 0 0) 1)) ∧
    Labels (lb 5 1 0 0) [(aReg (lb 5 1 0 0)).lab, (bReg (lb 5 1 0 0)).lab, (lb 5 1 0 0).act.clab] 1 (ps (lb 5 1 0 0) 1) :=
  ⟨nm rfl, fs ⟨rfl, rfl⟩, ⟨_, rfl⟩, ⟨_, rfl⟩, _, rfl⟩
/-- The same with FOCUS of assumption 3. -/
def lfo (v : Word) (a b : Handle) (x : Word) : State := act' (lb v a b x) (fun c => { c with focus := 8 })
theorem test_wit_lset : Attachable (lb 5 0 0 1) (bReg (lb 5 0 0 1)).val ∧
    Labels (lb 5 0 0 1) [BitVec.ofNat 16 (bReg (lb 5 0 0 1)).val.toNat, (bReg (lb 5 0 0 1)).lab, (lb 5 0 0 1).act.clab] 1 (ps (lb 5 0 0 1) 1) :=
  ⟨.inr (.inr (.inr ⟨by decide, _, rfl, rfl, rfl⟩)), _, rfl⟩
/-- The same, all TRUE, with CLAB on the stack: every form completes. -/
def l8 : State := act' (lb 5 0 0 1) (fun a => { a with cstack := [0] })
theorem test_wit_labelForms : l8.act.clab = 0 ∧ (aReg l8).lab = 0 ∧ (bReg l8).lab = 0 ∧ Named l8 (.s l8.ir.d.toNat :: .s l8.ir.a.toNat :: bRegs l8) ∧ FreeS l8 l8.ir.d ∧
    Attachable l8 (bReg l8).val ∧ (tintern 4096 l8.myCluster.clt l8.slot (some [stripped l8 (bReg l8).val])).isSome = true ∧ l8.act.cstack.length < 8 ∧ l8.act.cstack ≠ [] :=
  ⟨rfl, by decide, by decide, nm rfl, fs ⟨rfl, rfl⟩, .inr (.inr (.inr ⟨by decide, _, rfl, rfl, rfl⟩)), by decide +kernel, by decide, by decide⟩
theorem test_wit_holds : HoldsInFocus (lfo 5 1 0 0) (aReg (lfo 5 1 0 0)).lab := by
  refine ⟨?_, [8], rfl, 8, .head _, ?_⟩ <;> unfold Struck stripped <;> (try unfold Spec.Subset) <;> decide +kernel
theorem test_wit_holdsNot : ¬ HoldsInFocus (lb 5 1 0 0) (aReg (lb 5 1 0 0)).lab := by
  rintro ⟨-, l, hl, e, he, h, -⟩
  obtain rfl : l = [8] := Option.some.inj (hl.symm.trans (by decide +kernel))
  obtain rfl := List.mem_singleton.1 he
  exact absurd (h 3 (by decide) (by decide +kernel)) (by decide +kernel)
theorem test_wit_lsel : SourceLabels (lfo 5 1 0 0) [.h (aReg (lfo 5 1 0 0)).lab, .h (lfo 5 1 0 0).act.clab] 1 (ps (lfo 5 1 0 0) 1) ∧
    SourceLabels (lb 5 1 0 0) [.h (bReg (lb 5 1 0 0)).lab, .h (lb 5 1 0 0).act.clab] 0 0 := ⟨⟨_, rfl⟩, _, rfl⟩
theorem test_wit_inconsistent : Inconsistent (lb 5 0 0 16) (bReg (lb 5 0 0 16)).val := by
  unfold Inconsistent Struck stripped Spec.Subset; exact .inl (.inl ⟨4, by decide +kernel⟩)
theorem test_wit_consistent : ¬ Inconsistent (lb 5 0 0 8) (bReg (lb 5 0 0 8)).val := by
  unfold Inconsistent Struck stripped Spec.Subset; decide +kernel
theorem test_wit_lenv : (Inconsistent (lb 5 0 0 8) (bReg (lb 5 0 0 8)).val → (some [8] : Lab) = some []) ∧
    (¬ Inconsistent (lb 5 0 0 8) (bReg (lb 5 0 0 8)).val → (some [8] : Lab) = some [stripped (lb 5 0 0 8) (bReg (lb 5 0 0 8)).val]) ∧
    SourceLabels (lb 5 0 0 8) [.h (aReg (lb 5 0 0 8)).lab, .l (some [8]), .h (bReg (lb 5 0 0 8)).lab, .h (lb 5 0 0 8).act.clab] 1 (ps (lb 5 0 0 8) 1) ∧
    SourceLabels (lb 5 0 0 16) [.h (aReg (lb 5 0 0 16)).lab, .l (some []), .h (bReg (lb 5 0 0 16)).lab, .h (lb 5 0 0 16).act.clab] 0xFFFE 0 :=
  ⟨fun h => absurd h test_wit_consistent, fun _ => by decide +kernel, ⟨_, rfl⟩, _, rfl⟩
theorem test_wit_ljoin : (aReg (lb 5 1 0 6)).val ≠ (bReg (lb 5 1 0 6)).val ∧ (aReg (lb 5 1 1 5)).val = (bReg (lb 5 1 1 5)).val ∧ (aReg (lb 5 1 1 5)).lab = (bReg (lb 5 1 1 5)).lab ∧
    (aReg (lb 5 1 0 5)).val = (bReg (lb 5 1 0 5)).val ∧ (aReg (lb 5 1 0 5)).lab ≠ (bReg (lb 5 1 0 5)).lab ∧
    lunion (lb 5 1 0 5).lab (lb 5 1 0 5).me.lpol ((lb 5 1 0 5).labOf 1) ((lb 5 1 0 5).labOf 0) = some (some [0], false) ∧
    SourceLabels (lb 5 1 0 5) [.l (some [0]), .h (lb 5 1 0 5).act.clab] 0 0 :=
  ⟨by decide, by decide, by decide, by decide, by decide, by decide +kernel, _, rfl⟩
def l7 : State := act' (lb 5 1 0 0) (fun a => { a with cstack := [1] })
theorem test_wit_lcpush : Within (lb 5 1 0 0) (.s (lb 5 1 0 0).ir.a.toNat) ∧ (lb 5 1 0 0).labOf (aReg (lb 5 1 0 0)).lab ≠ none ∧ (lb 5 1 0 0).act.cstack.length < 8 ∧
    Labels (lb 5 1 0 0) [(lb 5 1 0 0).act.clab, (aReg (lb 5 1 0 0)).lab] 1 (ps (lb 5 1 0 0) 1) ∧ l7.act.cstack = 1 :: [] := ⟨wi rfl, by decide +kernel, by decide, ⟨_, rfl⟩, rfl⟩
theorem rest6 (v : Word) (a b : Handle) (x : Word) : AtRest (lb v a b x) := ⟨rfl, rfl, rfl, rfl⟩
theorem test_wit_AssumptionsAndNogoods : 63 < (aReg (lb 64 0 0 0)).val.toNat ∧ (aReg (lb 5 1 0 0)).val.toNat < 64 ∧ (lb 5 1 0 0).labOf (aReg (lb 5 1 0 0)).lab ≠ some [0] ∧
    MayChange (lb 3 0 0 0) ∧ bitIn (jl (lb 3 0 0 0)).live (aReg (lb 3 0 0 0)).val = true ∧ MayChange (lb 4 0 0 0) ∧ bitIn (jl (lb 4 0 0 0)).retired (aReg (lb 4 0 0 0)).val = true :=
  ⟨by decide, by decide, by decide +kernel, ⟨nm rfl, rest6 _ _ _ _, ⟨rfl, rfl⟩, by decide, rfl, by decide⟩, by decide, ⟨nm rfl, rest6 _ _ _ _, ⟨rfl, rfl⟩, by decide, rfl, by decide⟩,
    by decide⟩
theorem test_wit_nogood : FullLabel (lb 8 0xFFFE 0 0) (singles [(aReg (lb 8 0xFFFE 0 0)).lab, (lb 8 0xFFFE 0 0).act.clab]) (some []) 0 ∧
    FullLabel (lb 8 0 0 0) (singles [(aReg (lb 8 0 0 0)).lab, (lb 8 0 0 0).act.clab]) (some [0]) 0 ∧ strip (jl (lb 0 0 0 0)) (0 ||| 0) = 0 ∧
    Struck (jl (lb 16 0 0 0)) (strip (jl (lb 16 0 0 0)) (16 ||| 0)) ∧ strip (jl (lb 8 0 0 0)) (8 ||| 0) ≠ 0 ∧ ¬ Struck (jl (lb 8 0 0 0)) (strip (jl (lb 8 0 0 0)) (8 ||| 0)) ∧
    (jl (lb 8 0 0 0)).nogoods.length + 1 ≤ 256 := by
  refine ⟨fl (by decide +kernel), fl (by decide +kernel), by decide +kernel, .inl ⟨4, by decide +kernel⟩, by decide +kernel, ?_, by decide +kernel⟩
  unfold Struck Spec.Subset; decide +kernel
theorem test_wit_lwait : (lb 8 0 0 0).labOf (aReg (lb 8 0 0 0)).lab = some [0] ∧ (lb 8 0xFFFE 0 0).labOf (aReg (lb 8 0xFFFE 0 0)).lab = some [] ∧
    (lb 8 0xFFFF 0 0).labOf (aReg (lb 8 0xFFFF 0 0)).lab = none ∧ (lb 8 1 0 0).labOf (aReg (lb 8 1 0 0)).lab = some (8 :: []) ∧ (8 : Env) :: [] ≠ [0] ∧
    SourceLabels (lb 8 0 0 0) [.h (bReg (lb 8 0 0 0)).lab, .h (lb 8 0 0 0).act.clab] 0 0 ∧ Labels (lb 8 1 0 0) [(bReg (lb 8 1 0 0)).lab, (lb 8 1 0 0).act.clab] 0 0 ∧
    Alone (lb 8 1 0 0).me ∧ Settled (lb 8 0 0 0) ((lb 8 0 0 0).cur / 8) (lb 8 0 0 0).slot (aReg (lb 8 0 0 0)).lab ∧ Undecided (lb 8 1 0 0) ∧ AtRest (lb 8 1 0 0) :=
  ⟨by decide +kernel, by decide +kernel, by decide +kernel, by decide +kernel, by decide, ⟨_, rfl⟩, ⟨_, rfl⟩, ⟨rfl, rfl⟩, (by intro o h; cases h), .inr ⟨8, [], by decide +kernel, by decide⟩,
    rest6 _ _ _ _⟩

/-! ### Statements about tensors and tiles -/

/-- Records: eight D elements from the start of the portion, the same with blocks of two, and packed codes of E4M3. -/
def recD : Line := BitVec.ofNat 512 (0x8000000000000000 + 8 * 2 ^ 64 + 1 * 2 ^ 88)
def recB : Line := recD ||| BitVec.ofNat 512 (2 ^ 356)
def recN : Line := BitVec.ofNat 512 (0x8000000000000000 + 32 * 2 ^ 64 + 1 * 2 ^ 88 + 6 * 2 ^ 320 + 2 ^ 324 + 4 * 2 ^ 325 + 3 * 2 ^ 329 + 7 * 2 ^ 332)
def box8 : BitVec 256 := BitVec.ofNat 256 (8 * 2 ^ 32)
def cv : State := { on { d := 4, a := 2, b := 7, imm := 5, k := 1 } [] with jobs := [(0, { tids := [(5, recN)] })] }
theorem conv {s : State} (w : Bool) (h1 : decide (cvtRecord s ≠ 0) = true) (h2 : tFmt (cvtRecord s) = 6) (h3 : cvtScales s = 0) (h4 : tBlockLen (cvtRecord s) = 0) : Convertible s w := by
  have h5 : tIsMx (cvtRecord s) = false := by simp [tIsMx, h2]
  have h1 := of_decide_eq_true h1
  simp only [Convertible, h2, h3, h4, h5]
  exact ⟨h1, by simp, by decide, fun h => absurd h (by decide), by simp⟩
theorem test_wit_NarrowConversionsAndRecords : Named cv [.v cv.ir.d.toNat, .v cv.ir.a.toNat, .v (cv.ir.a.toNat + 1), .s cv.ir.b.toNat] ∧
    FreeV cv (cv.ir.d.setWidth 4) ∧ Convertible cv true ∧ PlainCvt cv [cv.act.rdV (cv.ir.a.setWidth 4), cv.act.rdV (cv.ir.a.setWidth 4 + 1), cv.act.rdV (cv.ir.d.setWidth 4)] := by
  refine ⟨?_, fv ⟨rfl, rfl⟩, ?_, ?_⟩
  · exact nm (by decide +kernel)
  · exact conv true (by decide +kernel) (by decide +kernel) (by decide +kernel) (by decide +kernel)
  · exact ⟨rfl, rfl, fun _ => rfl, by decide +kernel⟩
/-- With every element active, all of them zero. -/
def cv2 : State := { cv with ir := { cv.ir with k := 0 } }
theorem test_wit_narrowed : ∀ j, j < 32 → active cv2 j = true → (narrowed cv2 j).1 < 2 ^ (codeAt (cvtRecord cv2) j).2 := by decide +kernel
theorem test_wit_widen : Convertible cv false := conv false (by decide +kernel) (by decide +kernel) (by decide +kernel) (by decide +kernel)
def ti : State := mem' { on { d := 4, a := 6, b := 7, c := 8 } [(6, 1023), (7, 0x8000000000000040)] with jobs := [(0, { tids := [(1023, recD)] })] }
  [(0x44, 8), (0x47, 0x80), (0x48, 8), (0x4B, 1)]
theorem test_wit_tidw : Named ti [.s ti.ir.a.toNat, .s ti.ir.b.toNat] ∧ AtRest ti ∧ Alone ti.me ∧ (ti.act.rd ti.ir.a).val.toNat < 1024 ∧ Calm ti ∧
    OwnRange ti (ti.act.rd ti.ir.b).val 64 ∧ Unlabelled ti [(ti.act.rd ti.ir.a).lab, (ti.act.rd ti.ir.b).lab] ∧
    tMalformed (BitVec.ofNat 512 (ofBytes (Memory.readN ti.mem (scratchKey ti (ti.act.rd ti.ir.b).val) 64))) = false :=
  ⟨nm rfl, ⟨rfl, rfl, rfl, rfl⟩, ⟨rfl, rfl⟩, by decide, calm (by decide) (by decide) rfl rfl, ownR _ (by decide +kernel) (by decide) (by decide), unlab rfl rfl (.inl rfl) rfl,
    by decide +kernel⟩
/-- TOPEN of the record with the box of its eight elements, sc being n. -/
def to1 (n : Word) : State := mem' { on { d := 4, a := 6, b := 7, c := 8 } [(6, 1023), (7, 0x8000000000000040), (8, n)] with jobs := [(0, { tids := [(1023, recD)] })] }
  [(0x44, 8)]
theorem test_wit_TileOpening : TileReady (to1 0) [(to1 0).ir.d, (to1 0).ir.a, (to1 0).ir.b, (to1 0).ir.c] ∧
    Labels (to1 0) [((to1 0).act.rd (to1 0).ir.a).lab, ((to1 0).act.rd (to1 0).ir.b).lab, ((to1 0).act.rd (to1 0).ir.c).lab, (to1 0).act.clab] 0 0 ∧
    ((to1 0).act.rd (to1 0).ir.a).val.toNat < 1024 ∧ recD ≠ 0 ∧ (to1 0).tidOf (to1 0).slot 1023 = recD ∧ tIsMx recD = false ∧ Calm (to1 0) ∧
    OwnRange (to1 0) ((to1 0).act.rd (to1 0).ir.b).val 32 ∧ (∀ k, 2 ^ 39 ≤ k → k < 2 ^ 40 → (to1 0).rdTag false (k / 16) = 0) ∧
    BitVec.ofNat 256 (ofBytes (Memory.readN (to1 0).mem (scratchKey (to1 0) 0x8000000000000040) 32)) = box8 ∧ boxMalformed recD box8 = false ∧
    boxMalformed recD 0 = true ∧ LowestClosed (to1 0) 0 ∧ Alone (to1 2).me ∧ 2 < ((to1 3).act.rd (to1 3).ir.c).val.toNat :=
  ⟨⟨nm rfl, ⟨rfl, rfl, rfl, rfl⟩, by decide +kernel⟩, ⟨_, rfl⟩, by decide, by decide +kernel, by decide +kernel, by decide +kernel, calm (by decide) (by decide) rfl rfl,
    ownR _ (by decide +kernel) (by decide) (by decide), fun k _ _ => plain rfl _, by decide +kernel, by decide +kernel, by decide +kernel, ⟨by decide, rfl, fun j h => absurd h (Nat.not_lt_zero j)⟩, ⟨rfl, rfl⟩, by decide⟩
theorem isOk {α β : Type} {e : Except α β} (h : (match e with | .ok _ => true | .error _ => false) = true) : ∃ b, e = .ok b := by
  cases e with
  | ok b => exact ⟨b, rfl⟩
  | error a => simp at h
theorem test_wit_topenBlocks : ∃ bs, (to1 2).tblocks (to1 2).cur (to1 2).act.sup 2 { rcd := recD, box := box8 } = .ok bs := isOk (by decide +kernel)
/-- Every entry of the table is open. -/
def full : State := { to1 0 with handles := (List.range' 0 65536).map (fun i => (i, { open_ := true })) }
theorem get_range (n i k : Nat) (h : i ≤ k) (h2 : k < i + n) : fget ((List.range' i n).map (fun i => (i, ({ open_ := true } : THandle)))) k = some { open_ := true } := by
  induction n generalizing i with
  | zero => omega
  | succ n ih =>
    rw [List.range'_succ, List.map_cons, fget]
    split
    · rfl
    · exact ih (i + 1) (by omega) (by omega)
theorem test_wit_topenNone : AllOpen full := by
  intro i h
  show ((fget full.handles i).getD ({} : THandle)).open_ = true
  rw [show fget full.handles i = some { open_ := true } from get_range 65536 0 i (Nat.zero_le _) (by omega)]
  rfl
/-- The handle 0 of the table, with the value in s6; s7 holds x. -/
def th (e : THandle) (x : Word) : State := { on { d := 4, a := 6, b := 7, c := 8 } [(6, 0x1000000), (7, x)] with handles := [(0, { e with open_ := true, gen := 256, rcd := recB, box := box8 })] }
def hd (e : THandle) : THandle := { e with open_ := true, gen := 256, rcd := recB, box := box8 }
theorem opened (e : THandle) (x : Word) (h : e.tslot = 0) : Opened (th e x) ((th e x).act.rd (th e x).ir.a).val 0 (hd e) :=
  ⟨(by decide : 0 = (0x1000000 : Word).toNat % 2 ^ 16), rfl, rfl, (by decide : (0x1000000 : Word).toNat = 0 + (256 : BitVec 24).toNat * 2 ^ 16), h⟩
theorem tready (e : THandle) (x : Word) : TileReady (th e x) [(th e x).ir.d, (th e x).ir.a, (th e x).ir.b] ∧ TileReady (th e x) [(th e x).ir.d, (th e x).ir.a] :=
  ⟨⟨nm rfl, ⟨rfl, rfl, rfl, rfl⟩, by intro r h; simp only [List.drop, List.mem_cons, List.not_mem_nil, or_false] at h; obtain rfl | rfl := h <;> exact clean rfl⟩,
   ⟨nm rfl, ⟨rfl, rfl, rfl, rfl⟩, by intro r h; simp only [List.drop, List.mem_cons, List.not_mem_nil, or_false] at h; subst h; exact clean rfl⟩⟩
theorem tlabels (e : THandle) (x : Word) : Labels (th e x) [((th e x).act.rd (th e x).ir.a).lab, (th e x).act.clab] 0 0 ∧
    Labels (th e x) [((th e x).act.rd (th e x).ir.a).lab, ((th e x).act.rd (th e x).ir.b).lab, (th e x).act.clab] 0 0 := ⟨⟨_, rfl⟩, _, rfl⟩
theorem test_wit_tacq : (hd { wait := true }).wait = true ∧ (hd { kind := 1, holder := 5 }).kind ≠ 0 ∧ (hd { kind := 1, holder := 5 }).holder ≠ (th {} 0).cur / 8 ∧
    (hd { kind := 2 }).wait = false ∧ (hd { kind := 2 }).kind ≠ 0 ∧ (hd { kind := 2 }).holder = (th {} 0).cur / 8 ∧ (hd { kind := 2 }).stale = false ∧ (hd { kind := 1, stale := true }).stale = true ∧
    (hd {}).wait = false ∧ (hd {}).kind = 0 ∧ Alone (th {} 0).me := ⟨rfl, by decide, by decide, rfl, by decide, rfl, rfl, rfl, rfl, rfl, rfl, rfl⟩
theorem test_wit_tacqBlocks : ∃ bs, (th {} 0).tblocks (th {} 0).cur (th {} 0).act.sup 2 (hd {}) = .ok bs := isOk (by decide +kernel)
theorem test_wit_TileReleasing : Named (th { kind := 1 } 1151) [.s (th { kind := 1 } 1151).ir.a.toNat, .s (th { kind := 1 } 1151).ir.b.toNat] ∧ AtRest (th { kind := 1 } 1151) ∧
    (th { kind := 1 } 1151).labOf ((th { kind := 1 } 1151).act.rd 6).lab ≠ none ∧ (th { kind := 1 } 1151).labOf ((th { kind := 1 } 1151).act.rd 7).lab ≠ none ∧ (hd { kind := 1 }).kind ≠ 0 ∧ (hd { kind := 1 }).holder = (th {} 0).cur / 8 ∧ (hd { kind := 1 }).wait = false ∧
    Alone (th { kind := 1 } 1151).me ∧ ((th { kind := 1 } 1151).act.rd 7).val.toNat < 1152 ∧ (th { kind := 1 } 1151).inSub (th { kind := 1 } 1151).slot (8 * 1151) = true :=
  ⟨nm rfl, ⟨rfl, rfl, rfl, rfl⟩, clean (by decide), clean (by decide), by decide, rfl, rfl, ⟨rfl, rfl⟩, by decide, rfl⟩
/-- Cells of two elements: 0 and 8 divide nothing, 7 lies within a cell, 6 is an edge. -/
theorem test_wit_tsplit : (hd { kind := 2 }).kind = 2 ∧ tExt recB 0 ≠ 0 ∧ bExt box8 0 ≤ (8 : Word).toNat ∧ (7 : Word).toNat < bExt box8 0 ∧
    (bOrg box8 0 + (7 : Word).toNat).emod (2 ^ tBlk recB 0) ≠ 0 ∧ (bOrg box8 0 + (6 : Word).toNat).emod (2 ^ tBlk recB 0) = 0 ∧ tCirc recB 0 = false ∧
    LowestClosed (th { kind := 2 } 6) 1 := ⟨rfl, by decide +kernel, by decide +kernel, by decide +kernel, by decide +kernel, by decide +kernel, by decide +kernel, by unfold LowestClosed; decide +kernel⟩
theorem test_wit_trenew : (hd { kind := 2 }).kind = 2 ∧ (hd { kind := 1 }).kind = 1 ∧ (hd { kind := 1 }).stale = false ∧ (hd { kind := 1 }).holder = (th { kind := 1 } 5).cur / 8 ∧
    (hd { kind := 1, stale := true }).stale = true ∧ (hd { kind := 1, stale := true }).wait = false ∧ Alone (th { kind := 1, stale := true } 5).me := ⟨rfl, rfl, rfl, rfl, rfl, rfl, rfl, rfl⟩
theorem test_wit_tstat : ∀ i e, ¬ Opened (on { d := 4, a := 6 } [(6, 0x10000)]) ((on { d := 4, a := 6 } [(6, 0x10000)]).act.rd 6).val i e := by
  rintro i e ⟨rfl, rfl, h, -⟩; exact absurd h (by decide)
/-- Eight elements of D, all active and inside the box. -/
def tv (n : Nat) : State := { th { kind := n } 0 with ir := { d := 4, a := 6, b := 7, c := 8, ew := 3 } }
theorem access {s : State} {e : THandle} (w : Nat)
    (h1 : (s.regOk (.v s.ir.d.toNat) && s.regOk (.s s.ir.a.toNat) && s.regOk (.s s.ir.b.toNat) && s.regOk (.s s.ir.c.toNat) && decide (s.cur < 9216) && !s.shuttered s.cur &&
      ewFits e.rcd s.ir.ew && decide (tKeep e.rcd = 0) && decide ((s.act.rd s.ir.c).val = 0) && decide ((s.act.rd s.ir.b).val = 0) && (List.range 4).all (fun k => !tCirc e.rcd k) &&
      decide (e.kind = w) && decide (e.holder = s.cur / 8) && [1, 2, 3].all (fun k => tExt e.rcd k == 0) && decide (s.act.clab = 0) &&
      decide ((s.act.rd s.ir.a).lab = 0) && decide ((s.act.rd s.ir.b).lab = 0) && decide ((s.act.rd s.ir.c).lab = 0) && decide (s.ir.k = 0) &&
      decide ((s.act.rdV (s.ir.d.setWidth 4)).labs = [0, 0, 0, 0])) = true)
    (h2 : Opened s (s.act.rd s.ir.a).val ((s.act.rd s.ir.a).val.toNat % 2 ^ 16) e)
    (h3 : (List.range (512 / intWidth s)).all (fun i => !tileActive s e i || ((List.range 4).all (fun k => tExt e.rcd k == 0 ||
      (decide (0 ≤ tileCoord s e i k) && decide (tileCoord s e i k < tExt e.rcd k))) &&
      ((decide ((tileAddr s e i).toNat / 2 ^ 60 = 8) && decide ((tileAddr s e i).toNat % 2 ^ 60 / 2 ^ 18 = s.cur % 8) &&
        decide ((tileAddr s e i).toNat % 2 ^ 18 < s.me.scratchSize)) && decide ((tileAddr s e i).toNat % (intWidth s / 8) = 0)))) = true)
    (h4 : s.tags = [] ∧ s.wtags = [] ∧ s.pages = []) : TileAccess s e w := by
  simp only [Bool.and_eq_true, decide_eq_true_eq, Bool.not_eq_true', List.all_eq_true, List.mem_range, List.mem_cons, List.not_mem_nil, or_false, beq_iff_eq] at h1
  obtain ⟨⟨⟨⟨⟨⟨⟨⟨⟨⟨⟨⟨⟨⟨⟨⟨⟨⟨⟨r1, r2⟩, r3⟩, r4⟩, c1⟩, c2⟩, e1⟩, e2⟩, c3⟩, c4⟩, e3⟩, e4⟩, e5⟩, e6⟩, g1⟩, g2⟩, g3⟩, g4⟩, g5⟩, g6⟩ := h1
  have z (k : Nat) : tileOffset 0 k = 0 := by simp [tileOffset]
  unfold TileAccess
  simp only [c3, c4, z]
  refine ⟨nm (by simp [r1, r2, r3, r4]), h2, c1, c2, e1, e2, by decide, e3, e4, e5, by decide, ?_, ?_, g1, g2, g3, g4, fun h => absurd g5 h, g6,
    fun g _ _ => ⟨plain h4.1 _, plainW h4.1 h4.2.1 _, by simp [State.pageAbroad, h4.2.2]⟩⟩
  · intro k hk h0
    rw [if_pos (e6 k (by simp at h0; omega))]; trivial
  · intro i hi ha
    have := List.all_eq_true.1 h3 i (List.mem_range.2 hi)
    rw [ha] at this
    simp only [Bool.not_true, Bool.false_or, Bool.and_eq_true, decide_eq_true_eq, List.all_eq_true, List.mem_range, Bool.or_eq_true, beq_iff_eq] at this
    exact ⟨fun k hk he => (this.1 k hk).resolve_left he, ⟨this.2.1.1.1, this.2.1.1.2, this.2.1.2⟩, this.2.2⟩
theorem test_wit_TileVectors : TileAccess (tv 1) (hd { kind := 1 }) 1 ∧ (tv 1).act.focld.getLsbD 0 = false ∧ (tv 1).boxShort (hd { kind := 1 }) = true ∧
    FreeV (tv 1) ((tv 1).ir.d.setWidth 4) ∧ TileAccess (tv 2) (hd { kind := 2 }) 2 ∧ (tv 2).act.focld.getLsbD 0 = false ∧ (tv 2).boxShort (hd { kind := 2 }) = true ∧
    FreeV (tv 2) ((tv 2).ir.d.setWidth 4) :=
  ⟨access 1 (by decide +kernel) ⟨by decide, rfl, rfl, by decide, rfl⟩ (by decide +kernel) ⟨rfl, rfl, rfl⟩, by decide +kernel, by decide +kernel, fv ⟨rfl, rfl⟩,
    access 2 (by decide +kernel) ⟨by decide, rfl, rfl, by decide, rfl⟩ (by decide +kernel) ⟨rfl, rfl, rfl⟩, by decide +kernel, by decide +kernel, fv ⟨rfl, rfl⟩⟩
theorem test_wit_vstt : ∀ i ∈ (List.range (512 / intWidth (tv 2))).filter (tileActive (tv 2) (hd { kind := 2 })),
    ∀ j ∈ (List.range (512 / intWidth (tv 2))).filter (tileActive (tv 2) (hd { kind := 2 })), i ≠ j →
    (tileAddr (tv 2) (hd { kind := 2 }) i).toNat + intWidth (tv 2) / 8 ≤ (tileAddr (tv 2) (hd { kind := 2 }) j).toNat ∨
      (tileAddr (tv 2) (hd { kind := 2 }) j).toNat + intWidth (tv 2) / 8 ≤ (tileAddr (tv 2) (hd { kind := 2 }) i).toNat := by decide +kernel

/-! ### Statements about engines, saves, shootdowns and containment -/

/-- Eight S elements, dense and kept 2 of 12 along dimension 0; a handle of each under read tenure. -/
def recS : Line := BitVec.ofNat 512 (0x8000000000000000 + 8 * 2 ^ 64 + 1 * 2 ^ 88 + 2 ^ 320)
def recK : Line := recS ||| BitVec.ofNat 512 (2 ^ 351)
def hdS (r : Line) : THandle := { open_ := true, kind := 1, rcd := r, box := box8 }
def mx (x : Word) : State :=
  { on { d := 1, a := 6, b := 7, c := 8, e := 9 } [(6, x), (7, 0x10001), (8, BitVec.ofNat 64 (8 * 2 ^ 24 + 2 ^ 49))] with handles := [(0, hdS recK), (1, hdS recS)] }
theorem fits {c : Word} {sp : Bool} {a b : THandle} (h : (decide (c.toNat < 2 ^ 50) && decide (0 < c.toNat / 2 ^ 24 % 2 ^ 24) && decide (a.rcd ≠ 0) && decide (b.rcd ≠ 0) &&
      decide (tFmt a.rcd = 1) && decide (tFmt b.rcd = 1) && decide (if sp then (tKeep a.rcd ≠ 0 ∧ tKeep b.rcd = 0 ∧ tSpdim a.rcd = 0) else tKeep a.rcd = 0 ∧ tKeep b.rcd = 0) &&
      !c.getLsbD 48 && c.getLsbD 49 && decide (c.toNat % 2 ^ 24 + c.toNat / 2 ^ 24 % 2 ^ 24 ≤ if tExt a.rcd 0 = 0 then 1 else bExt a.box 0) &&
      decide (c.toNat % 2 ^ 24 + c.toNat / 2 ^ 24 % 2 ^ 24 ≤ if tExt b.rcd 0 = 0 then 1 else bExt b.box 0) &&
      [a, b].all (fun e => (List.range (c.toNat / 2 ^ 24 % 2 ^ 24)).all (fun p => (List.range (Min.min 32 (if tExt e.rcd 1 = 0 then 1 else bExt e.box 1))).all (fun r =>
        (tInside e.rcd (boxAt e.box ((List.range 4).map (fun (i : Nat) => if i = 0 then ((c.toNat % 2 ^ 24 : Nat) + p : Int) else if i = 1 - 0 then (r : Int) else 0)))).isSome)))) = true) :
    MatrixFits a b c sp := by
  simp only [Bool.and_eq_true, decide_eq_true_eq, Bool.not_eq_true', List.all_cons, List.all_nil, List.all_eq_true, List.mem_range, and_true] at h
  obtain ⟨⟨⟨⟨⟨⟨⟨⟨⟨⟨⟨h1, h2⟩, h3⟩, h4⟩, h5⟩, h6⟩, h7⟩, h8⟩, h9⟩, h10⟩, h11⟩, h12, h13⟩ := h
  unfold MatrixFits
  simp only [h8, h9, h5, h6, Bool.false_eq_true, if_false, if_true]
  refine ⟨h1, h2, h3, h4, by simp, by simp, ?_, by simp, h10, h11, .inr (fun p hp r hr => h12 p hp r hr), .inr (fun p hp r hr => h13 p hp r hr)⟩
  cases sp
  · simpa using h7
  · simp only [if_true] at h7 ⊢; exact .inl h7
theorem holding (h : State.thandle s i = e) (h1 : e.open_ = true) (h2 : e.kind ≠ 0) (h3 : e.holder = s.cur / 8) (h4 : e.tslot = s.slot) {x : Word} (h5 : i = x.toNat % 2 ^ 16)
    (h6 : x.toNat = i + e.gen.toNat * 2 ^ 16) : Holding s x i e := ⟨⟨h5, h.symm, h1, h6, h4⟩, h2, h3⟩
theorem test_wit_MatrixCommands : Named (mx 0x10001) ([.a (mx 0x10001).ir.d.toNat, .s (mx 0x10001).ir.a.toNat, .s (mx 0x10001).ir.b.toNat, .s (mx 0x10001).ir.c.toNat] ++ ([] : List (BitVec 6)).map (fun r => .s r.toNat)) ∧
    Holding (mx 0x10001) ((mx 0x10001).act.rd 6).val 1 (hdS recS) ∧ Holding (mx 0x10001) ((mx 0x10001).act.rd 7).val 1 (hdS recS) ∧
    MatrixFits (hdS recS) (hdS recS) ((mx 0x10001).act.rd 8).val false ∧ MatrixRoom (mx 0x10001) ∧
    (mx 0x10001).labOf ((mx 0x10001).act.rd 6).lab ≠ none ∧ (mx 0x10001).labOf ((mx 0x10001).act.rd 7).lab ≠ none :=
  ⟨nm (by decide), holding (by decide +kernel) rfl (by decide) rfl rfl (by decide) (by decide), holding (by decide +kernel) rfl (by decide) rfl rfl (by decide) (by decide),
    fits (by decide +kernel), ⟨.inl rfl, rfl, rfl⟩, clean rfl, clean rfl⟩
theorem test_wit_mmas : Named (mx 0x10000) ([.a (mx 0x10000).ir.d.toNat, .s (mx 0x10000).ir.a.toNat, .s (mx 0x10000).ir.b.toNat, .s (mx 0x10000).ir.c.toNat] ++ [(mx 0x10000).ir.e].map (fun r => .s r.toNat)) ∧
    Holding (mx 0x10000) ((mx 0x10000).act.rd 6).val 0 (hdS recK) ∧ Holding (mx 0x10000) ((mx 0x10000).act.rd 7).val 1 (hdS recS) ∧
    MatrixFits (hdS recK) (hdS recS) ((mx 0x10000).act.rd 8).val true ∧
    Labels (mx 0x10000) ([((mx 0x10000).act.rd 6).lab, ((mx 0x10000).act.rd 7).lab, ((mx 0x10000).act.rd 8).lab] ++ [(mx 0x10000).ir.e].map (fun r => ((mx 0x10000).act.rd r).lab) ++
      [(mx 0x10000).act.clab]) 0 0 :=
  ⟨nm (by decide), holding (by decide +kernel) rfl (by decide) rfl rfl (by decide) (by decide), holding (by decide +kernel) rfl (by decide) rfl rfl (by decide) (by decide),
    fits (by decide +kernel), _, rfl⟩
def ml : State := on { d := 1, a := 6 } [(6, 0x800000000003F000)]
theorem walked {e : Except (Cause × Word) (List Piece)} (h : (match e with | .ok ps => (match ml.walks none ps with | .ok _ => true | .error _ => false) | .error _ => false) = true) :
    ∃ ps, e = .ok ps ∧ ∃ t, ml.walks none ps = .ok t := by
  cases e with
  | ok ps =>
    refine ⟨ps, rfl, ?_⟩
    cases g : ml.walks none ps with
    | ok t => exact ⟨t, rfl⟩
    | error _ => simp [g] at h
  | error _ => simp at h
theorem test_wit_mload : Named ml [.a ml.ir.d.toNat, .s ml.ir.a.toNat] ∧ ml.labOf (ml.act.rd ml.ir.a).lab ≠ none ∧ MatrixRoom ml ∧
    (∃ ps, ml.pieces ml.cur ml.act.sup .rd (ml.act.rd ml.ir.a).val 4096 = .ok ps ∧ ∃ t, ml.walks none ps = .ok t) ∧
    ∃ ps, ml.pieces ml.cur ml.act.sup .wr (ml.act.rd ml.ir.a).val 4096 = .ok ps ∧ ∃ t, ml.walks none ps = .ok t :=
  ⟨nm (by decide), clean (by decide), ⟨.inl rfl, rfl, rfl⟩, walked (by decide +kernel), walked (by decide +kernel)⟩
def cmd1 : MxCmd := { kind := .mzero, acc := 1, core := 0, aid := 0 }
def mq (q : MxQueue) (a : Accum) : State := { ml with clusters := [(0, { mxq := Vector.replicate 8 q, accs := Vector.replicate 16 a })] }
theorem test_wit_mzeroStalls : Named (mq { active := some cmd1, shadow := some cmd1 } {}) [.a (mq {} {}).ir.d.toNat] ∧ (matrixQueue (mq { active := some cmd1, shadow := some cmd1 } {})).fault = none ∧
    (matrixQueue (mq { active := some cmd1, shadow := some cmd1 } {})).active ≠ none ∧ (matrixQueue (mq { active := some cmd1, shadow := some cmd1 } {})).shadow ≠ none ∧
    (matrixQueue (mq { fault := some 5 } {})).fault = some 5 ∧ (mq {} {}).act.cancelled = false := ⟨nm (by decide), rfl, by decide, by decide, rfl, rfl⟩
theorem test_wit_mwait : Named (mq {} {}) [.a (mq {} {}).ir.d.toNat] ∧ AtRest (mq {} {}) ∧
    (∃ c, (matrixQueue (mq { active := some cmd1 } {})).active = some c ∧ c.acc.toNat = 1) ∧ Alone (mq { active := some cmd1 } {}).me ∧
    (matrixQueue (mq {} {})).active = none ∧ (matrixQueue (mq {} {})).shadow = none ∧ ((mq {} {}).myCluster.accs[1]).pend = none ∧
    ((mq {} { pend := some (.bounds, 5) }).myCluster.accs[1]).pend = some (.bounds, 5) :=
  ⟨nm (by decide), ⟨rfl, rfl, rfl, rfl⟩, ⟨cmd1, rfl, rfl⟩, ⟨rfl, rfl⟩,
    by decide, by decide, by decide, by decide⟩
/-- Channel 15. -/
def bt (b : Bte) : State := { on { d := 4, a := 6, b := 7 } [(6, 15), (7, 0x40)] with clusters := [(0, { bte := Vector.replicate 16 b })] }
theorem test_wit_EngineStarts : Named (bt {}) [.s (bt {}).ir.a.toNat, .s (bt {}).ir.b.toNat] ∧ (bt {}).labOf ((bt {}).act.rd 6).lab ≠ none ∧ (bt {}).labOf ((bt {}).act.rd 7).lab ≠ none ∧ (bt {}).act.cancelled = false ∧ ((bt {}).act.rd 6).val.toNat < 16 ∧ ((bt {}).act.rd 7).val.toNat % 64 = 0 ∧
    Labels (bt {}) [((bt {}).act.rd (bt {}).ir.a).lab, ((bt {}).act.rd (bt {}).ir.b).lab, (bt {}).act.clab] 0 0 ∧ (channel (bt {}) 15).state ≠ 1 ∧
    (channel (bt { state := 1 }) 15).state = 1 ∧ (channel (bt { state := 1 }) 15).queued = 0 ∧ (channel (bt { state := 1, queued := 64 }) 15).queued ≠ 0 :=
  ⟨nm rfl, clean (by decide), clean (by decide), rfl, by decide, by decide, ⟨_, rfl⟩, by decide +kernel, by decide +kernel, by decide +kernel, by decide +kernel⟩
/-- A collective's record at 0x40 with its word 6 not 0; a ring; a SYNC word with generation 5. -/
def en (x d : Word) (l : List (Nat × Byte)) : State := mem' (on { d := 4, a := 6, b := 7 } [(6, x), (4, d)]) l
theorem test_wit_clgo : Named (en 0x8000000000000040 0 [(0x70, 1)]) [.s 4, .s 6] ∧ Calm (en 0x8000000000000040 0 [(0x70, 1)]) ∧
    OwnRange (en 0x8000000000000040 0 [(0x70, 1)]) ((en 0x8000000000000040 0 [(0x70, 1)]).act.rd 6).val 64 ∧ (en 0x8000000000000040 0 [(0x70, 1)]).myCluster.colls.length < 16 ∧
    Room (en 0x8000000000000040 0 [(0x70, 1)]) ∧ FreeS (en 0x8000000000000040 0 [(0x70, 1)]) 4 ∧
    (BitVec.ofNat 512 (ofBytes (Memory.readN (en 0x8000000000000040 0 [(0x70, 1)]).mem (scratchKey (en 0x8000000000000040 0 [(0x70, 1)]) 0x8000000000000040) 64)) : Line).toNat / 2 ^ 384 % 2 ^ 64 ≠ 0 :=
  ⟨nm rfl, calm (by decide) (by decide) rfl rfl, ownR _ (by decide +kernel) (by decide) (by decide), by decide, by unfold Room; decide, fs ⟨rfl, rfl⟩, decide_eq_true_iff.1 (by decide +kernel)⟩
theorem test_wit_ringwait : Named (en 0x8000000000000040 0 [(0x50, 1)]) [.s 4, .s 6, .s 7] ∧ AtRest (en 0x8000000000000040 0 [(0x50, 1)]) ∧
    OwnRange (en 0x8000000000000040 0 [(0x50, 1)]) ((en 0x8000000000000040 0 [(0x50, 1)]).act.rd 6).val 32 ∧
    BitVec.ofNat 64 (ofBytes (Memory.readN (en 0x8000000000000040 0 [(0x50, 1)]).mem (2 ^ 39 + 0x50) 8)) ≠ ((en 0x8000000000000040 0 [(0x50, 1)]).act.rd 7).val ∧
    BitVec.ofNat 64 (ofBytes (Memory.readN (en 0x8000000000000040 0 []).mem (2 ^ 39 + 0x50) 8)) = ((en 0x8000000000000040 0 []).act.rd 7).val ∧ Alone (en 0x8000000000000040 0 []).me :=
  ⟨nm rfl, ⟨rfl, rfl, rfl, rfl⟩, ownR _ (by decide +kernel) (by decide) (by decide), by decide +kernel, by decide +kernel, rfl, rfl⟩
theorem test_wit_syncw : OwnRange (en 0x8000000000000040 5 [(0x48, 5)]) ((en 0x8000000000000040 5 [(0x48, 5)]).act.rd 6).val 16 ∧
    Unlabelled (en 0x8000000000000040 5 [(0x48, 5)]) [((en 0x8000000000000040 5 [(0x48, 5)]).act.rd 6).lab, ((en 0x8000000000000040 5 [(0x48, 5)]).act.rd 4).lab] ∧
    ofBytes (Memory.readN (en 0x8000000000000040 5 [(0x48, 5)]).mem (2 ^ 39 + 0x48) 4) = ((en 0x8000000000000040 5 [(0x48, 5)]).act.rd 4).val.toNat % 2 ^ 32 ∧
    ofBytes (Memory.readN (en 0x8000000000000040 5 []).mem (2 ^ 39 + 0x48) 4) ≠ ((en 0x8000000000000040 5 []).act.rd 4).val.toNat % 2 ^ 32 :=
  ⟨ownR _ (by decide +kernel) (by decide) (by decide), unlab rfl rfl (.inl rfl) rfl, by decide +kernel, by decide +kernel⟩
/-- MSAVE of 64 bytes within a quota of one unit, without a quota, with a full set; of a length that is no multiple of 64. -/
def ms (q : Word) (l : List MustSave) (x b : Word) : State := me' (on { d := 4, a := 6, b := 7 } [(6, x), (7, b)]) (fun c => { c with msquota := q, mustSave := l })
def set1 : MustSave := { addr := 0, len := 64, frames := [0], pages := [], tslot := 0 }
theorem test_wit_SavesAndShootdowns : Named (ms 1 [] 0x8000000000000040 64) [.s 4, .s 6, .s 7] ∧ AtRest (ms 1 [] 0x8000000000000040 64) ∧ Alone (ms 1 [] 0x8000000000000040 64).me ∧
    Calm (ms 1 [] 0x8000000000000040 64) ∧ OwnRange (ms 1 [] 0x8000000000000040 64) ((ms 1 [] 0x8000000000000040 64).act.rd 6).val 64 ∧
    (∀ k, 2 ^ 39 ≤ k → k < 2 ^ 40 → (ms 1 [] 0x8000000000000040 64).rdTag false (k / 16) = 0) ∧
    charge (ms 1 [] 0x8000000000000040 64).me.mustSave + (64 + 65535) / 65536 ≤ (ms 1 [] 0x8000000000000040 64).me.msquota.toNat % 2048 ∧
    (ms 0 [] 0x8000000000000040 64).me.msquota.toNat % 2048 < charge (ms 0 [] 0x8000000000000040 64).me.mustSave + (64 + 65535) / 65536 ∧
    (ms 0 (List.replicate 16 set1) 0x8000000000000040 64).me.mustSave.length = 16 ∧ ((ms 1 [] 0x8000000000000040 65).act.rd 7).val.toNat % 64 ≠ 0 ∧
    ((ms 1 [] 0 0).act.rd 7).val = 0 ∧ 1 < ((ms 1 [] 2 0).act.rd 6).val.toNat :=
  ⟨nm rfl, ⟨rfl, rfl, rfl, rfl⟩, ⟨rfl, rfl⟩, calm (by decide) (by decide) rfl rfl, ownR _ (by decide +kernel) (by decide) (by decide), fun _ _ _ => plain rfl _, by decide, by decide,
    by decide, by decide, by decide, by decide⟩
/-- Slot 63, pages of size 2. -/
def tb : State := on { a := 6, b := 7 } [(6, 0x12345678), (7, 0x23F)]
theorem test_wit_tlbi : tb.act.sup = true ∧ Named tb [.s tb.ir.a.toNat, .s tb.ir.b.toNat] ∧ AtRest tb ∧ Alone tb.me ∧ (tb.act.rd tb.ir.b).val.toNat < 2 ^ 10 ∧
    (tb.act.rd tb.ir.b).val.toNat / 64 % 4 = 0 ∧ BitVec.ofNat 2 ((tb.act.rd tb.ir.b).val.toNat / 256) ≠ 3 := ⟨rfl, nm rfl, ⟨rfl, rfl, rfl, rfl⟩, ⟨rfl, rfl⟩, by decide, by decide, by decide⟩
/-- Core 8 waits for a read tenure through a page that the shootdown names. -/
def page1 : TEntry := { tslot := 63, size := 2, page := 0, leaf := 0 }
def hdW : THandle := { hd {} with wait := true, want := 1, core := 8, holder := 1, blocks := [{ key := 0, cell := [], lines := [], pages := [page1] }] }
def tbW : State := { tb with cores := tb.cores ++ [(8, { Core.reset 8 with parked := [parkedOf (.tacq 0 4 0 0 0)] })], handles := [(0, hdW)] }
theorem test_wit_tlbiWaits : tbW.act.sup = true ∧ Named tbW [.s tbW.ir.a.toNat, .s tbW.ir.b.toNat] ∧ tbW.labOf (tbW.act.rd tbW.ir.a).lab ≠ none ∧ AtRest tbW ∧ Alone tbW.me ∧
    (tbW.act.rd tbW.ir.b).val.toNat < 2 ^ 10 ∧ (tbW.act.rd tbW.ir.b).val.toNat / 64 % 4 = 0 ∧ BitVec.ofNat 2 ((tbW.act.rd tbW.ir.b).val.toNat / 256) ≠ 3 ∧
    tbW.handles = [(0, hdW)] ∧ hdW.kind = 0 ∧ hdW.wait = true ∧ (∃ bl ∈ hdW.blocks, ∃ y ∈ bl.pages, ShotDown 2 0x12345678 63 2 y) ∧
    tbW.acquirer 0 = some (8, parkedOf (.tacq 0 4 0 0 0), 4, 0, 0) ∧
    ∃ bs, (tbW.shoot (tlbiHits 2 0x12345678 63 2)).tblocks hdW.core hdW.sup hdW.want hdW = .ok bs :=
  ⟨rfl, nm rfl, clean (by decide), ⟨rfl, rfl, rfl, rfl⟩, ⟨rfl, rfl⟩, by decide, by decide, by decide, rfl, rfl, rfl, ⟨_, .head _, page1, .head _, .inl rfl⟩, rfl, isOk (by decide +kernel)⟩
/-- Entry 63, in a state, for an operation on cores 0 and 1 of the last cluster. -/
def co (op : Word) (e : Shutter) : State := { on { a := 6, b := 7 } [(6, 0x30101172F), (7, op * 256 + 63)] with plant := { ({} : Plant) with shutters := [(63, e)] } }
theorem mayContain {op : Nat} (h : s.act.sup = true ∧ s.regOk (.s s.ir.a.toNat) = true ∧ s.regOk (.s s.ir.b.toNat) = true)
    (h2 : AtRest s) (h3 : (s.act.rd s.ir.a).val &&& 0xFFFFFF00E0C0E0C0 = 0 ∧ rectFits (s.act.rd s.ir.a).val = true ∧
      (s.act.rd s.ir.b).val.toNat < 2 ^ 10 ∧ (s.act.rd s.ir.b).val.toNat / 64 % 4 = 0 ∧ (s.act.rd s.ir.b).val.toNat / 2 ^ 8 = op) : MayContain s op :=
  ⟨h.1, nm (by simp [h.2.1, h.2.2]), h2, h3⟩
theorem test_wit_Containment : MayContain (co 0 {}) 0 ∧ Alone (co 0 {}).me ∧ (co 0 {}).me.running = true ∧ (shutterOf (co 0 {})).state = 0 ∧
    (co 0 {}).armedElsewhere 63 0x30101172F = false ∧ MayContain (co 0 { state := 1 }) 0 ∧ (shutterOf (co 0 { state := 1 })).state ≠ 0 ∧
    MayContain (co 1 { state := 1 }) 1 ∧ (shutterOf (co 1 { state := 1 })).state = 1 ∧ MayContain (co 1 {}) 1 ∧ (shutterOf (co 1 {})).state ≠ 1 ∧
    MayContain (co 2 { state := 2 }) 2 ∧ (shutterOf (co 2 { state := 2 })).state = 2 ∧ (shutterOf (co 2 { state := 2 })).perm = false ∧
    MayContain (co 2 { perm := true }) 2 ∧ (shutterOf (co 2 { perm := true })).perm = true ∧ MayContain (co 3 {}) 3 :=
  ⟨mayContain (by decide) ⟨rfl, rfl, rfl, rfl⟩ (by decide), ⟨rfl, rfl⟩, rfl, by decide, by decide +kernel, mayContain (by decide) ⟨rfl, rfl, rfl, rfl⟩ (by decide), by decide,
    mayContain (by decide) ⟨rfl, rfl, rfl, rfl⟩ (by decide), by decide, mayContain (by decide) ⟨rfl, rfl, rfl, rfl⟩ (by decide), by decide,
    mayContain (by decide) ⟨rfl, rfl, rfl, rfl⟩ (by decide), by decide, by decide, mayContain (by decide) ⟨rfl, rfl, rfl, rfl⟩ (by decide), by decide,
    mayContain (by decide) ⟨rfl, rfl, rfl, rfl⟩ (by decide)⟩

/-! ### Statements about events -/

theorem waits (p : Park) (x : Args) : Waits (parkedOn p x) (parkedOf p) p := ⟨rfl, rfl, rfl⟩
def pk (p : Park) : State := parkedOn p {}
/-- The parked activation, in another state of the core, of the counters of its job, or of the clusters. -/
def pkCore (p : Park) (f : Core → Core) : State := { cores := [(0, f { Core.reset 0 with parked := [parkedOf p] })], arg := { m := 1 } }
theorem test_wit_WaitsEnd : Waits (pk (.watch 5 9 0 4)) (parkedOf (.watch 5 9 0 4)) (.watch 5 9 0 4) ∧ watchSlot ((pk (.watch 5 9 0 4)).core 0).watches 5 = some 0 ∧
    Waits (pkCore (.watch 5 9 0 4) (fun c => { c with watches := (List.range 16).map (fun i => (i, BitVec.ofNat 64 (8 + i), 0, 0)) })) (parkedOf (.watch 5 9 0 4)) (.watch 5 9 0 4) ∧
    watchSlot ((List.range 16).map (fun i => (i, BitVec.ofNat 64 (8 + i), 0, 0))) 5 = none ∧
    Waits (pk (.hostq 2 4)) (parkedOf (.hostq 2 4)) (.hostq 2 4) ∧ Waits (pk (.msave 2 4)) (parkedOf (.msave 2 4)) (.msave 2 4) ∧
    Waits (pk (.ccancel 5 4)) (parkedOf (.ccancel 5 4)) (.ccancel 5 4) ∧ (parkedOf (.ccancel 5 4)).cancelled = false ∧
    Waits (pk (.sleep 0)) (parkedOf (.sleep 0)) (.sleep 0) ∧ ((pk (.sleep 0)).clock - 0).toNat < 2 ^ 63 ∧ 2 ^ 63 ≤ ((pk (.sleep 1)).clock - 1).toNat ∧
    Waits (pk (.tidw 1023)) (parkedOf (.tidw 1023)) (.tidw 1023) ∧ Waits (pk (.contain 0 63 0)) (parkedOf (.contain 0 63 0)) (.contain 0 63 0) ∧
    Waits (pk (.tlbi 1 0 63 2)) (parkedOf (.tlbi 1 0 63 2)) (.tlbi 1 0 63 2) ∧ (pk (.tlbi 1 0 63 2)).handles = [] ∧
    Waits (pk (.fence 3)) (parkedOf (.fence 3)) (.fence 3) :=
  ⟨waits _ _, by decide, ⟨rfl, rfl, rfl⟩, by decide +kernel, waits _ _, waits _ _, waits _ _, rfl, waits _ _, by decide, by decide, waits _ _, waits _ _, waits _ _, rfl, waits _ _⟩
theorem sole (p : Park) (x : Args) : Sole (parkedOn p x) 0 (parkedOf p) := ⟨rfl, (by intro r h; cases h), .inl rfl⟩
theorem test_wit_fenceComplete (f : BitVec 2) : Waits (pk (.fence f)) (parkedOf (.fence f)) (.fence f) ∧ Sole (pk (.fence f)) 0 (parkedOf (.fence f)) ∧ (parkedOf (.fence f)).outs = [] ∧
    (parkedOf (.fence f)).deferred = [] := ⟨waits _ _, sole _ _, rfl, rfl⟩
def ct (st : CState) : State := { pk (.ccwait 5 4) with jobs := [(0, { counters := [(5, { state := st })] })] }
theorem test_wit_ccwaitWake : Waits (ct .zero) (parkedOf (.ccwait 5 4)) (.ccwait 5 4) ∧ ((ct .zero).counter 0 5).state = .zero ∧ Waits (ct .cancelled) (parkedOf (.ccwait 5 4)) (.ccwait 5 4) ∧
    ((ct .cancelled).counter 0 5).state = .cancelled ∧ Sole (ct .zero) 0 (parkedOf (.ccwait 5 4)) :=
  ⟨⟨rfl, rfl, rfl⟩, rfl, ⟨rfl, rfl, rfl⟩, rfl, rfl, (by intro r h; cases h), .inl rfl⟩
/-- Cores 0 and 1 are members of gang 1; core 1 is done; core 0 has arrived, or has been elected. -/
def gg (g : Gang) (l : List Act) (x : Args) : State := { cores := [(0, { Core.reset 0 with parked := l })], clusters := [(0, { gangs := [(1, g)] })], arg := x }
def ga (p : Park) : Act := { parkedOf p with gang := some 1 }
def g1 : Gang := { mask := 3, done := 2, barArr := [(0, 5)] }
theorem test_wit_barRelease : fget ((gg g1 [] { m := 1 }).cluster 0).gangs 1 = some g1 ∧ g1.barArr ≠ [] ∧
    (∀ i, i < 8 → g1.mask.getLsbD i = true → g1.done.getLsbD i = true ∨ ∃ p ∈ g1.barArr, p.1 = i) ∧ (∀ i, i < 8 → ∀ a ∈ ((gg g1 [] { m := 1 }).core (8 * 0 + i)).parked, a.elect = none) :=
  ⟨rfl, by decide, by decide, by decide +kernel⟩
theorem test_wit_barMember : g1.barArr = [(0, 5)] ∧ (∀ j, j < 8 → g1.mask.getLsbD j = true → g1.done.getLsbD j = true ∨ j = 0) ∧
    ((gg g1 [ga (.bar 4)] { m := 1 }).core 0).parked.find? (fun y => y.gang == some 1 && (match y.park with | some (.bar _) => true | _ => false)) = some (ga (.bar 4)) ∧
    (ga (.bar 4)).elect = none ∧ Sole (gg g1 [ga (.bar 4)] { m := 1 }) 0 (ga (.bar 4)) := ⟨rfl, by decide, rfl, rfl, rfl, (by intro r h; cases h), .inl rfl⟩
theorem test_wit_electExecute : fget ((gg g1 [ga (.elect 4)] { m := 1 }).cluster 0).gangs 1 = some g1 ∧ g1.elected = some 0 ∧ (ga (.elect 4)).electGen = g1.electGen ∧
    fget g1.results 0 = none ∧ ((gg g1 [ga (.elect 4)] { m := 1 }).core 0).parked.find? (fun x => x.gang == some 1 && (match x.park with | some (.elect _) => true | _ => false)) = some (ga (.elect 4)) ∧
    Sole (gg g1 [ga (.elect 4)] { m := 1 }) 0 (ga (.elect 4)) := ⟨rfl, by decide, rfl, rfl, rfl, rfl, (by intro r h; cases h), .inl rfl⟩
/-- Address 0x40 of core 0's portion; the word there is 1. -/
def lw1 (p : Park) : State := { pk p with mem := [(2 ^ 39 + 0x40, 1)] }
theorem ownAt (p : Park) : OwnAt (lw1 p) 0 (parkedOf p) 0x8000000000000040 :=
  ⟨calm (by show 0 < 9216; decide) rfl rfl rfl, own _ rfl, rfl, by simp [parkedOf, Act.blank], fun _ _ _ => plain rfl _⟩
theorem test_wit_LoadsAndOutcomesEnd : Waits (lw1 (.ldfe 0x8000000000000040 4 0 true {})) (parkedOf (.ldfe 0x8000000000000040 4 0 true {})) (.ldfe 0x8000000000000040 4 0 true {}) ∧
    OwnAt (lw1 (.ldfe 0x8000000000000040 4 0 true {})) 0 (parkedOf (.ldfe 0x8000000000000040 4 0 true {})) 0x8000000000000040 ∧
    (lw1 (.ldfe 0x8000000000000040 4 0 true {})).full false (ownKey 0 0x8000000000000040) = true ∧
    (parkedOf (.ldfe 0x8000000000000040 4 0 true {})).outs = [] ∧ (parkedOf (.ldfe 0x8000000000000040 4 0 true {})).deferred = [] ∧
    State.full { lw1 (.ldfe 0x8000000000000040 4 0 true {}) with fe := [((2 ^ 39 + 0x40) / 8, false)] } false (ownKey 0 0x8000000000000040) = false :=
  ⟨⟨rfl, rfl, rfl⟩, ownAt _, by decide +kernel, rfl, rfl, by decide +kernel⟩
/-- A ring header and a signal at 0x40 of core 0's portion: HEAD and the generation are 1. -/
def lw3 (p : Park) : State := { pk p with mem := [(2 ^ 39 + 0x48, 1), (2 ^ 39 + 0x50, 1)] }
theorem test_wit_ringwaitWake (old : Word) (gen : BitVec 32) (sw : Bool) : let p : Park := .ringwait 0x8000000000000040 old 4 [0, 0] sw {}; let q : Park := .syncw 0x8000000000000040 gen 4 [0, 0] sw {}
    Waits (lw3 p) (parkedOf p) p ∧ Waits (lw3 q) (parkedOf q) q ∧ Sole (lw3 p) 0 (parkedOf p) ∧ Sole (lw3 q) 0 (parkedOf q) ∧
    OwnAt (lw3 p) 0 (parkedOf p) (0x8000000000000040 + 16) ∧ OwnAt (lw3 q) 0 (parkedOf q) (0x8000000000000040 + 8) :=
  ⟨⟨rfl, rfl, rfl⟩, ⟨rfl, rfl, rfl⟩, ⟨rfl, (by intro r h; cases h), .inl rfl⟩, ⟨rfl, (by intro r h; cases h), .inl rfl⟩,
    ⟨calm (by show 0 < 9216; decide) rfl rfl rfl, own _ rfl, rfl, by simp [parkedOf, Act.blank], fun _ _ _ => plain rfl _⟩,
    ⟨calm (by show 0 < 9216; decide) rfl rfl rfl, own _ rfl, rfl, by simp [parkedOf, Act.blank], fun _ _ _ => plain rfl _⟩⟩
theorem test_wit_ringwaitWord : ofBytes (Memory.readN (lw3 .outs).mem (ownKey 0 0x8000000000000050) 8) = 1 ∧ ofBytes (Memory.readN (lw3 .outs).mem (ownKey 0 0x8000000000000048) 4) = 1 ∧
    (0x8000000000000040 : Word).toNat % 32 = 0 := ⟨by decide +kernel, by decide +kernel, by decide⟩
def mw (q : MxQueue) (a : Accum) : State := { pk (.mwait 1) with clusters := [(0, { mxq := Vector.replicate 8 q, accs := Vector.replicate 16 a })] }
theorem test_wit_mwaitWake : Waits (mw {} {}) (parkedOf (.mwait 1)) (.mwait 1) ∧ ((mw {} {}).cluster 0).names 0 1 = false ∧ (((mw {} {}).cluster 0).accs[1]).pend = none ∧
    Waits (mw {} { pend := some (.bounds, 5) }) (parkedOf (.mwait 1)) (.mwait 1) ∧ (((mw {} { pend := some (.bounds, 5) }).cluster 0).accs[1]).pend = some (.bounds, 5) :=
  ⟨⟨rfl, rfl, rfl⟩, by decide, rfl, ⟨rfl, rfl, rfl⟩, rfl⟩
/-- LWAIT for the label h since ten cycles, with a limit; handle 1 names an undecided label. -/
def lw2 (h : Handle) (n : Word) : State := { pk (.lwait h 0 (-10) n 4) with clusters := [(0, { clt := [(1, { envs := [8], rc := 2 })] })] }
theorem test_wit_lwaitWake (h : Handle) (n : Word) : Waits (lw2 h n) (parkedOf (.lwait h 0 (-10) n 4)) (.lwait h 0 (-10) n 4) ∧ Settled (lw2 h n) 0 ((lw2 h n).core 0).tslot.toNat h :=
  ⟨⟨rfl, rfl, rfl⟩, by intro o h; cases h⟩
theorem test_wit_lwaitLabels : tlab ((lw2 0 5).cluster 0).clt 0 = some [0] ∧ tlab ((lw2 0 5).cluster 0).clt 0xFFFE = some [] ∧ tlab ((lw2 0 5).cluster 0).clt 0xFFFF = none ∧
    tlab ((lw2 0 5).cluster 0).clt 1 = some (8 :: []) ∧ (10 : Word).toNat ≤ ((lw2 1 10).clock - -10).toNat ∧ ((lw2 1 11).clock - -10).toNat < (11 : Word).toNat := by decide
/-- Two retirements under way: number 1, of assumption 3, has still to reach dies 0 and 7; number 2, of 4, all. -/
def op1 (ds : List Nat) : LabOp := { id := 1, kind := .retire, tslot := 0, envs := [8], status := 0, dies := ds, core := 0, aid := 0, time := 0 }
def op2 : LabOp := { op1 (List.range 8) with id := 2, envs := [16] }
def lo (l : List LabOp) (m : Nat) : State := { pk (.labelOp 1 (some 4)) with labOps := l, arg := { n := 1, m := m } }
theorem test_wit_LabelBroadcasts : (lo [op1 [0, 7], op2] 7).labOps.find? (fun x => x.id == (lo [op1 [0, 7], op2] 7).arg.n) = some (op1 [0, 7]) ∧ 7 ∈ (op1 [0, 7]).dies ∧
    (∀ p ∈ (lo [op1 [0, 7], op2] 7).labOps, p.tslot = (op1 [0, 7]).tslot → p.id < (op1 [0, 7]).id → 7 ∉ p.dies) ∧
    (∃ p ∈ (lo [op1 [0, 7], op2] 7).labOps, p.tslot = (op1 [0, 7]).tslot ∧ p.id ≠ (op1 [0, 7]).id ∧ 7 ∈ p.dies) ∧
    (∀ p ∈ (lo [op1 [0, 7]] 7).labOps, p.tslot = (op1 [0, 7]).tslot → p.id ≠ (op1 [0, 7]).id → 7 ∉ p.dies) ∧
    (op1 [0, 7]).status = 0 ∧ (op1 [0, 7]).kind ≠ .assume ∧ dieOf 0 % 8 ∉ (op1 [7]).dies ∧ (2007 - 2000) % 8 ∉ (op1 [0]).dies ∧ (op1 [0, 7]).dies ≠ [] := by decide
/-- The second may reach die 7 once the first has, and no table of it holds a label. -/
theorem test_wit_broadcastOrder : (lo [op1 [], op2] 7).labOps.find? (fun x => x.id == 2) = some op2 ∧ 7 ∈ op2.dies ∧ op2.kind ≠ .lscrub ∧ (op1 []).id < op2.id ∧ (op1 []).sweeps = true ∧
    7 ∉ (op1 []).dies ∧ SweptOn (lo [op1 [], op2] 7) (op1 []) 7 := ⟨by decide, by decide, by decide, by decide, by decide, by decide, by unfold SweptOn; decide⟩
theorem test_wit_labelOpRetire : (lo [op1 []] 0).labOps.find? (fun x => x.id == 1) = some (op1 []) ∧ (lo [op1 []] 0).opDone (op1 []) = true ∧
    ((lo [op1 []] 0).core 0).parked.find? (fun x => match x.park with | some (.labelOp i _) => i == (op1 []).id | _ => false) = some (parkedOf (.labelOp 1 (some 4))) ∧
    Sole (lo [op1 []] 0) 0 (parkedOf (.labelOp 1 (some 4))) := ⟨rfl, by decide, rfl, rfl, (by intro r h; cases h), .inl rfl⟩
/-- A result for s4 is under way to a running activation of slot 0, and to a parked one of a halted core. -/
def out4 : Out := { op := .arith, iss := {}, writes := [.s 4 42 0], flags := 0 }
def rl : State := { act' (on {} []) (fun a => { a with outs := [out4] }) with arg := {} }
def po : Act := { parkedOf .outs with outs := [out4] }
def rp : State := { cores := [(0, { Core.reset 0 with parked := [po], halted := true })], arg := { m := 1 } }
theorem test_wit_ResultsAndTraps : (rl.core 0).running = true ∧ (rl.core 0).act.slot = rl.arg.m ∧ (rl.core 0).act.park = none ∧ (rl.core 0).act.outs[rl.arg.k]? = some out4 ∧
    out4.writes = [.s 4 42 0] ∧ out4.iss.elect = none ∧ rp.parkedAt 0 1 = some po ∧ Sole rp 0 po ∧ po.park = some .outs ∧ po.outs = [out4] ∧ po.deferred = [] ∧
    (rp.core 0).halted = true := ⟨rfl, rfl, rfl, rfl, rfl, rfl, rfl, ⟨rfl, (by intro r h; cases h), .inl rfl⟩, rfl, rfl, rfl, rfl⟩
def pt : PendTrap := { cause := .swtrap, xval := 5, xpc := 0x1000 }
def te : State := act' (on {} []) (fun a => { a with pend := some pt })
theorem test_wit_trapEntry : (te.core te.arg.n).running = true ∧ (te.core te.arg.n).halted = false ∧ (te.core te.arg.n).act.pend = some pt ∧ pt.deferred = false ∧ pt.pix = none ∧
    pt.cause ≠ .pfail ∧ (te.core te.arg.n).stallSince = none ∧ (te.core te.arg.n).twait = false ∧
    CanTrap (({ te with cur := te.arg.n }).setCore te.arg.n { te.core te.arg.n with act := { (te.core te.arg.n).act with pend := none } }) pt.cause ∧ ((on {} []).core 0).act.pend = none :=
  ⟨rfl, rfl, rfl, rfl, rfl, by decide, rfl, rfl, ⟨rfl, rfl, rfl, .inr (by decide)⟩, rfl⟩
/-- A message of 8 bytes from core 8 for channel 5 of core 0, whose ring of four units at 0x100 holds nothing. -/
def msg1 : Msg := { core := 0, chan := 5, net := 0, payload := [1, 2, 3, 4, 5, 6, 7, 8], from_ := some (8, 1), seq := 1 }
def ch1 : Chan := { entry := 0x4000, bound := true, en := true, rbase := 0x100, rsize := 4 }
def mv (c : Chan) (net waiting : List Msg) : State :=
  { me' (on {} []) (fun k => { k with chans := k.chans.set 5 c, sendReq := [msg1] }) with net := net, waiting := waiting, answers := [{ core := 0, aid := 0, kind := 0 }] }
theorem mayPass (s : State) (m : Msg) (h : m.tslot = 0) : MayPass s m := fun k _ => by rw [h]; rfl
theorem mayPlace (s : State) (m : Msg) (ht : m.tslot = 0) (h : (decide (m.core < 9216 ∧ m.chset = none ∧ m.dmod = s.plant.modId ∧ m.badAlias = false ∧
      s.shuttered m.core = false ∧ (m.sup = true ∨ (m.chan.toNat < 56 ∧ m.tslot = (s.core m.core).tslot.toNat)) ∧ m.watch = false ∧ m.lab = some [0] ∧ m.start = false ∧
      m.succ = false ∧ (chanOf s m).bound = true ∧ (chanOf s m).en = true ∧ (m.net = 2 ∨ ((chanOf s m).rep = true ↔ m.net = 1)) ∧ (chanOf s m).level = 0) &&
      decide ((chanOf s m).rsize.toNat ≤ 2 ^ 13 ∧ unitsOf m ≤ (chanOf s m).rsize.toNat - (chanOf s m).used ∧ (chanOf s m).rhead.toNat < (chanOf s m).rsize.toNat ∧ (chanOf s m).contig = false ∧
      (chanOf s m).ready = false ∧ (chanOf s m).auto = false ∧ (s.core m.core).parked = [] ∧ (s.core m.core).running = true ∧
      (chanOf s m).rbase.toNat + 32 * (chanOf s m).rsize.toNat ≤ 2 ^ 21)) = true) : MayPlace s m := by
  simp only [Bool.and_eq_true, decide_eq_true_eq] at h
  obtain ⟨⟨a1, a2, a3, a5, a6, a7, a8, a9, a10, a11, a12, a13, a14, a15⟩, b1, b2, b3, b4, b5, b6, b7, b8, b9⟩ := h
  exact ⟨a1, a2, a3, .inr (mayPass s m ht), a5, a6, a7, a8, a9, a10, a11, a12, a13, a14, a15, b1, b2, b3, fun h => absurd h (by simp [b4]), b5, b6, (by rw [b7]; intro a h; cases h), b8, b9⟩
theorem test_wit_MessagesMove : ((mv ch1 [msg1] []).core 0).sendReq = msg1 :: [] ∧ (∀ x ∈ (mv ch1 [msg1] []).waiting, ¬ SameQueue msg1 x) ∧ (∀ x ∈ (mv ch1 [msg1] []).net, (mv ch1 [msg1] []).willWait x = false) ∧ SameQueue msg1 msg1 ∧
    (mv ch1 [msg1] []).net[0]? = some msg1 ∧ MayPlace (mv ch1 [msg1] []) msg1 ∧ (mv ch1 [msg1] []).overtakes msg1 = false ∧
    (mv ch1 [msg1, { msg1 with seq := 0 }] []).overtakes msg1 = true ∧ (mv ch1 [] [msg1]).waiting[0]? = some msg1 ∧ MayPlace (mv ch1 [] [msg1]) msg1 ∧
    (∀ x ∈ (mv ch1 [] [msg1]).waiting.take 0, x.core ≠ msg1.core ∨ x.chan ≠ msg1.chan) :=
  ⟨rfl, (by intro x h; cases h), by decide +kernel, ⟨rfl, rfl, rfl, rfl⟩, rfl, mayPlace _ _ rfl (by decide +kernel), by decide +kernel, by decide +kernel, rfl, mayPlace _ _ rfl (by decide +kernel), by intro x h; cases h⟩
def pa : Act := { parkedOf .answers with unanswered := 1, aid := 7 }
def an : State := { me' (on {} []) (fun k => { k with parked := [pa] }) with answers := [{ core := 0, aid := 7, kind := 1 }] }
theorem test_wit_messageAnswer : (mv ch1 [] []).answers[0]? = some { core := 0, aid := 0, kind := 0 } ∧ ((mv ch1 [] []).core 0).running = true ∧ ((mv ch1 [] []).core 0).act.aid = 0 ∧
    ((mv ch1 [] []).core 0).act.park = none ∧ an.answers[0]? = some { core := 0, aid := 7, kind := 1 } ∧ (∀ r ∈ (an.core 0).residents, r.aid = 7 → r = pa) ∧ pa ∈ (an.core 0).parked ∧
    Sole an 0 pa ∧ pa.park = some .answers ∧ pa.unanswered = 1 ∧ (an.core 0).running = true ∧ pa.rcd.ctr = 0 ∧ pa.rcd.ubuf = none ∧ pa.gang = none ∧
    (an.job (an.core 0).tslot.toNat).counters = [] ∧ ((an.core 0).chans[pa.chan.toNat]'pa.chan.isLt).recs = [] :=
  ⟨rfl, rfl, rfl, rfl, rfl, by decide +kernel, .head _, ⟨rfl, (by intro r h; cases h), .inr (by decide)⟩, rfl, rfl, rfl, rfl, rfl, rfl, rfl, rfl⟩
/-- SQWAKE of both queues: armed, for channel 63, at a length of 7. -/
def sq (w : Word) (m : Nat) : State := { me' (on {} []) (fun k => { k with sqwake := w }) with arg := { m := m } }
theorem test_wit_ChannelsMove : ((sq 0x77F0000 1).core 0).sqwake.toNat / 2 ^ 16 % 2 ^ 11 / 64 % 2 = 1 ∧ ((sq 0x77F0000 1).core 0).sendRep.length ≤ 0x77F / 256 % 8 ∧
    ((sq 0x77F0000 0).core 0).sqwake.toNat / 2 ^ 0 % 2 ^ 11 / 64 % 2 = 0 := by decide
def ch2 : Chan := { ch1 with pend := 1, auto := true, recs := [{ units := 2, len := 8 }] }
def cy : State := { me' (on {} []) (fun k => { k with chans := k.chans.set 56 ch2 }) with arg := { m := 56 } }
theorem test_wit_channelYield : (cy.core 0).chans[56] = ch2 ∧ ch2.recs = { units := 2, len := 8 } :: [] ∧ ch2.act = false ∧ ch2.bound = true ∧ ch2.pend ≠ 0 ∧ ch2.en = true ∧ ch2.hold = false ∧
    ch2.auto = true ∧ (cy.core 0).stopReq = false ∧ (cy.core 0).running = true ∧ 56 ≤ cy.arg.m := ⟨rfl, rfl, rfl, rfl, by decide, rfl, rfl, rfl, rfl, rfl, by decide⟩
def msg2 : Msg := { core := 0, chan := 5, net := 0, chset := some 0x2A, from_ := some (8, 1) }
theorem test_wit_chsetApply : (mv ch1 [msg2] []).net[0]? = some msg2 ∧ msg2.chset = some 0x2A ∧ (mv ch1 [msg2] []).overtakes msg2 = false ∧ msg2.dmod = (mv ch1 [msg2] []).plant.modId ∧
    (mv ch1 [msg2] []).turnedAway msg2 = false ∧ MayPass (mv ch1 [msg2] []) msg2 ∧ (chanOf (mv ch1 [msg2] []) msg2).recs = [] ∧ ((mv ch1 [msg2] []).core 0).running = true :=
  ⟨rfl, rfl, by decide +kernel, by decide +kernel, by decide +kernel, mayPass _ _ rfl, rfl, rfl⟩
/-- CHBIND of channel 63 of core 0: entry 0x4000, PRIO 7, a ring of 8192 units at 0, which ends with the portion. -/
def cb (r : Line) (f : Core → Core) : State := { cores := [(0, f { Core.reset 0 with running := true, parked := [parkedOf (.chbind r 0 4)] })], arg := { m := 1 } }
def bind1 : Line := BitVec.ofNat 512 (0x4000 + (63 + 7 * 64) * 2 ^ 64 + 8192 * 2 ^ 146)
theorem test_wit_chbindApply : Waits (cb bind1 id) (parkedOf (.chbind bind1 0 4)) (.chbind bind1 0 4) ∧ ((cb bind1 id).cluster 0).gated = false ∧ ((cb bind1 id).core 0).running = true ∧
    (BitVec.ofNat 64 bind1.toNat).toNat % 4 = 0 ∧ BitVec.ofNat 64 bind1.toNat ≠ (0 : Word) ∧ bind1.toNat / 2 ^ 76 % 2 ^ 52 = 0 ∧ bind1.toNat / 2 ^ 146 % 2 ^ 14 = 8192 ∧
    bind1.toNat / 2 ^ 128 % 2 ^ 18 = 0 ∧ bind1.toNat / 2 ^ 160 % 2 ^ 32 = 0 ∧ ((cb bind1 id).core 0).chans[63].bound = false ∧ ((cb bind1 id).core 0).chans[63].recs = [] ∧
    0 + 8192 * 32 ≤ ((cb bind1 id).core 0).scratchSize :=
  ⟨⟨rfl, rfl, rfl⟩, rfl, rfl, by decide +kernel, by decide +kernel, by decide +kernel, by decide +kernel, by decide +kernel, by decide +kernel, rfl, rfl, by decide⟩
/-- An entry that is not a multiple of 4. -/
def bind2 : Line := BitVec.ofNat 512 (0x4001 + 63 * 2 ^ 64 + 8192 * 2 ^ 146)
theorem test_wit_chbindMalformed : Waits (cb bind2 id) (parkedOf (.chbind bind2 0 4)) (.chbind bind2 0 4) ∧ BitVec.ofNat 64 bind2.toNat ≠ (0 : Word) ∧
    (BitVec.ofNat 64 bind2.toNat).toNat % 4 ≠ 0 ∧ ((cb bind2 id).core 0).chans[63].recs = [] := ⟨⟨rfl, rfl, rfl⟩, by decide +kernel, by decide +kernel, rfl⟩
def bind0 : Line := BitVec.ofNat 512 (63 * 2 ^ 64)
theorem test_wit_chunbind : Waits (cb bind0 id) (parkedOf (.chbind bind0 0 4)) (.chbind bind0 0 4) ∧ bind0.toNat % 2 ^ 64 = 0 ∧ bind0.toNat / 2 ^ 70 = 0 ∧
    ((cb bind0 id).core 0).chans[63].pend = 0 ∧ ((cb bind0 (fun k => { k with chans := k.chans.set 63 { ch1 with act := true } })).core 0).chans[63].act = true :=
  ⟨⟨rfl, rfl, rfl⟩, by decide +kernel, by decide +kernel, rfl, rfl⟩

/-! ### Statements about time, tenure and the engines -/

def tw : State := { me' (on {} []) (fun c => { c with ptroot := 1, lsplit := 31, carveRun := none }) with mem := [(0, 1), (1, 0x10), (0x1000, 3)] }
def cg (g : Bool) : State := { clusters := [(0, { gated := g })] }
theorem test_wit_ltimeTick : (({ cg false with clock := 64 } : State).cluster 0).gated = false ∧ (({ cg false with clock := 64 } : State).cluster 0).ordcfg.toNat / 2 ^ 16 % 2 ^ 12 = 64 ∧
    ((({ cg false with clock := 64 } : State).clock - (({ cg false with clock := 64 } : State).cluster 0).tickAt).toNat) = 64 := by decide
theorem test_wit_TimeAndCaches : ((cg false).cluster 0).gated = false ∧ ((cg true).cluster 0).gated = true ∧ ((cg false).cluster 0).idle = true ∧ (∀ i, i < 8 → ((cg false).core (8 * 0 + i)).idle = true) ∧
    ((on {} []).core (8 * 0 + 0)).running = true ∧ (tw.core 0).ptroot.getLsbD 0 = true ∧ tw.cached 0 0 = none ∧ tw.walk (0 / 8) ((tw.core 0).ptroot.toNat / 2 ^ 12 % 2 ^ 39 * 4096) 0 4 = some (3, 30) :=
  ⟨rfl, rfl, by decide +kernel, by decide +kernel, rfl, by decide, by decide +kernel, by decide +kernel⟩
theorem test_wit_walk : ∀ y, tw.tenureAt y = none ∧ tw.pageAbroad y = none := by
  intro y
  rw [State.tenureAt, State.pageAbroad, show tw.handles = [] from rfl, show tw.pages = [] from rfl]
  exact ⟨rfl, by simp⟩
/-- A cluster with one trace record that has not drained (R421), and one whose records were dropped. -/
def cgt : State := { clusters := [(0, { dbg := { buffer := [traceRec 1 0 5 0] } })], arg := { flag := true } }
theorem test_wit_forcedGate : (cgt.cluster 0).gated = false ∧ (cgt.cluster 0).workless = true ∧ (cgt.cluster 0).dbg.buffer ≠ [] ∧
    (∀ i, i < 8 → (cgt.core (8 * 0 + i)).idle = true) := ⟨rfl, by decide +kernel, by decide +kernel, by decide +kernel⟩
def afterGate (i : Instr) (s : State) : State := match exec i s with | .next t => t | _ => {}
theorem test_forcedGate : ((afterGate .clusterPowerGate cgt).cluster 0).dbg.trdrop = 1 ∧
    ((afterGate .clusterPowerUp (afterGate .clusterPowerGate cgt)).cluster 0).dbg.buffer.map (·.take 1) = [[7]] := by decide +kernel
theorem test_wit_cacheFill : tw.leaf 0 0x3FFFFFFF = some (3, 30) ∧ leafKey tw 3 30 0x3FFFFFFF / 64 < 2 ^ 31 ∧ pteTgt 3 ≠ 2 ∧ tw.writes (0 / 8) (leafKey tw 3 30 0x3FFFFFFF / 64) = false ∧
    Usable (tw.stamp (leafKey tw 3 30 0x3FFFFFFF / 64)).rts (tw.cluster (0 / 8)).ltime ∧ (∀ i, i < 4 → tw.rdTag false (4 * (leafKey tw 3 30 0x3FFFFFFF / 64) + i) = 0) ∧
    (tw.core 0).sets ≠ 0 ∧ (tw.core 0).vpool.getLsbD 0 = false :=
  ⟨by decide +kernel, by decide +kernel, by decide, by decide +kernel, by unfold Usable; decide +kernel, by decide +kernel, by decide, by decide⟩
theorem test_wit_carveSample : ((on {} []).core 0).carveRun = none ∧ ((me' (on {} []) (fun c => { c with carveRun := some (1, 4, 2) })).core 0).carveRun = some (1, 4, 2) := ⟨rfl, rfl⟩
/-- Core 0 acquires handle 0, of two lines in two blocks; another activation runs on it. -/
def bk (n : Nat) : Block := { key := 64 * n, cell := [n, 0, 0, 0], lines := [2 ^ 33 + n], pages := [] }
def he (want taken : Nat) : THandle := { open_ := true, rcd := recD, box := box8, wait := true, want := want, blocks := [bk 0, bk 1], taken := taken, since := 5 }
def tg (want taken : Nat) (other : FMap THandle) : State :=
  { me' (on {} []) (fun c => { c with parked := [parkedOf (.tacq 0 4 0 0 0)] }) with handles := (0, he want taken) :: other }
theorem test_wit_TenureMoves : ((tg 1 0 []).thandle 0) = he 1 0 ∧ (he 1 0).wait = true ∧ (tg 1 0 []).acquirer 0 = some (0, parkedOf (.tacq 0 4 0 0 0), 4, 0, 0) ∧ (he 1 0).kind = 0 ∧
    (he 1 0).blocks[(he 1 0).taken]? = some (bk 0) ∧ (he 1 0).taken + 1 ≠ (he 1 0).blocks.length ∧ ¬ Kept (tg 1 0 []) 0 (he 1 0) (bk 0) :=
  ⟨rfl, rfl, rfl, rfl, rfl, by decide, by rintro ⟨p, hp, h, -⟩; cases hp with | head => exact h rfl | tail _ h => cases h⟩
theorem test_wit_takePages : ∃ t, (tg 1 0 []).takePages ((he 1 0).want == 2) (bk 0).lines = some t := ⟨_, rfl⟩
def held : THandle := { he 0 1 with wait := false, kind := 2 }
theorem test_wit_kept : Kept (tg 1 0 [(1, held)]) 0 (he 1 0) (bk 0) :=
  ⟨(1, held), by decide +kernel, by decide, .inl ⟨.inl rfl, bk 0, by decide +kernel, 2 ^ 33, by decide +kernel, by decide +kernel⟩⟩
theorem test_wit_lastBlock : LastBlock (tg 1 2 []) 0 0 (parkedOf (.tacq 0 4 0 0 0)) 4 0 0 ∧ (he 1 2).want = 1 ∧ LastBlock (tg 2 2 []) 0 0 (parkedOf (.tacq 0 4 0 0 0)) 4 0 0 ∧ (he 2 2).want = 2 :=
  ⟨⟨rfl, rfl, rfl, rfl, rfl, rfl, rfl, rfl, rfl⟩, rfl, ⟨rfl, rfl, rfl, rfl, rfl, rfl, rfl, rfl, rfl⟩, rfl⟩
def re (k : Nat) : State := { pk (.trel 0 1 0) with handles := [(0, { he 0 2 with wait := false, kind := k })] }
theorem test_wit_tenureRelease (k : Nat) : Waits (re k) (parkedOf (.trel 0 1 0)) (.trel 0 ((re k).thandle 0).gen 0) ∧ ((re k).thandle 0).open_ = true ∧ (re k).commandsName 0 = false ∧
    ((re k).thandle 0).kind = k ∧ ((re k).thandle 0).holder = 0 / 8 ∧ frising (re k).wmem = true ∧ (re k).succs = [] := ⟨⟨rfl, rfl, rfl⟩, rfl, rfl, rfl, rfl, rfl, rfl⟩
def tx : State := { pk (.tacq 0 4 0 1 0) with handles := [(0, he 2 0)], clock := 0x10000000000 }
theorem test_wit_tenurewait : Waits tx (parkedOf (.tacq 0 4 0 1 0)) (.tacq 0 4 0 1 0) ∧ tx.arg.flag = false ∧ waited tx (tx.arg.n / 8) 0 := ⟨⟨rfl, rfl, rfl⟩, rfl, by unfold waited; decide +kernel⟩
def st : State := { me' (on {} []) (fun c => { c with stalled := true, stallSince := some 7 }) with clock := 0x10000000000 }
def bw : Bte := { state := 1, cur := some 0, since := 7 }
def sb : State := { bt bw with clock := 0x10000000000, arg := { m := 15, flag := true } }
theorem test_wit_waitsEndElsewhere : st.parkedAt 0 0 = none ∧ (st.core 0).stallSince = some 7 ∧ (st.core 0).stalled = true ∧ waited st 0 7 ∧ sb.bteAt 0 15 = bw ∧ bw.state = 1 ∧ bw.cur ≠ none ∧
    bw.owed = none ∧ bw.since ≠ 0 ∧ waited sb 0 7 ∧ sb.engStopped 0 bw.core = false := ⟨rfl, rfl, rfl, by unfold waited; decide +kernel, rfl, rfl, by simp [bw], rfl, by decide, by unfold waited; decide +kernel, by decide +kernel⟩
/-- The same while the channel waits for its completion entry. -/
def bw4 : Bte := { state := 1, cur := some 0, owed := some (0, 0), waitStage := 4, since := 7 }
def sb4 : State := { bt bw4 with clock := 0x10000000000, arg := { m := 15, flag := true } }
theorem test_wit_waitsForEntry : sb4.bteAt 0 15 = bw4 ∧ bw4.state = 1 ∧ bw4.cur ≠ none ∧ bw4.owed ≠ none ∧ bw4.waitStage = 4 ∧ bw4.since ≠ 0 ∧ waited sb4 0 7 ∧ sb4.engStopped 0 bw4.core = false :=
  ⟨rfl, rfl, by simp [bw4], by simp [bw4], rfl, by decide, by unfold waited; decide +kernel, by decide +kernel⟩
/-- A page of another module, asked for by this one; one granule of a recalled page comes back. -/
def ph : State := { arg := { n := 2 ^ 40 + 5, m := 0 } }
def pb : State := { pages := [(5, { holders := [3], write := true, recalled := true })], arg := { n := 5, m := 3, k := 4095, bytes := List.replicate 16 1 } }
theorem test_wit_pagesElsewhere : ((fget ph.pages (2 ^ 40 + 5)).getD {}).holders = [] ∧ ((fget ph.pages (2 ^ 40 + 5)).getD {}).recalled = false ∧ ph.arg.m = ph.modId ∧
    2 ^ 56 ≤ ph.arg.n * 65536 ∧ ph.arg.n * 65536 < 2 ^ 60 ∧ ((fget pb.pages 5).getD {}).recalled = true ∧ 3 ∈ ((fget pb.pages 5).getD {}).holders ∧ (3 : Nat) ≠ pb.modId ∧
    ((fget pb.pages 5).getD {}).write = true ∧ pb.arg.bytes.length = 16 ∧ pb.arg.msg = none ∧ pb.arg.n * 65536 + pb.arg.k % 4096 * 16 < 2 ^ 38 ∧
    ph.deadModule 0 = false ∧ ph.deadModule (remoteModule (ph.arg.n * 65536)) = false := by decide +kernel
def pg (m : Nat) : State := { pages := [(5, { holders := [3], write := true })], arg := { n := 5, m := m } }
def pr : State := { pages := [(5, { holders := [3], write := true, recalled := true })], arg := { n := 5, m := 3 } }
theorem test_wit_pages : (((fget (pg 4).pages 5).getD {}).holders = [3] ∧ ((fget (pg 4).pages 5).getD {}).write = true ∧ ((fget (pg 4).pages 5).getD {}).recalled = false ∧ (3 : Nat) ≠ (pg 3).modId ∧
    (∀ q ∈ (pg 3).stamps, q.1 / 1024 ≠ 5) ∧ (pg 3).deadModule 3 = false) ∧ pr.succs = [] ∧ ((fget pr.pages 5).getD {}).recalled = true ∧ 3 ∈ ((fget pr.pages 5).getD {}).holders := by decide +kernel
/-- Queue 7 of cluster 0 has a command; the accumulators hold 0. -/
def mk (m : MxCmd) : State := { clusters := [(0, { mxq := (Vector.replicate 8 {}).set 7 { active := some m } })], arg := { m := 7 }, handles := [] }
def mzero : MxCmd := { kind := .mzero, acc := 1, core := 7, aid := 0 }
/-- An MMA of I8: records of 32 codes, of which K takes 8. -/
def recI : Line := BitVec.ofNat 512 (0x8000000000000000 + 32 * 2 ^ 64 + 1 * 2 ^ 88 + 4 * 2 ^ 320)
def opI : Operand := { rcd := recI, box := BitVec.ofNat 256 (32 * 2 ^ 32) }
def mma : MxCmd := { kind := .mma, acc := 1, a := opI, b := opI, ctl := BitVec.ofNat 64 (8 * 2 ^ 24 + 2 ^ 49), core := 7, aid := 0 }
theorem test_wit_MatrixWork : (∀ q, q < 8 → (queueOf {} 0 q).waits = false) ∧ (queueOf (mk mma) 0 7).active = some mma ∧ tFmt mma.a.rcd = 4 ∧ mma.done < mma.unitEnd mma.done ∧
    mma.grantEnd mma.done = mma.unitEnd mma.done ∧ mma.core / 8 = 0 := ⟨by decide +kernel, rfl, by decide +kernel, by decide +kernel, by decide +kernel, rfl⟩
theorem test_wit_turn : Turn (mk mma) 7 ∧ Turn { (mk mma) with clusters := [(0, { mxq := (Vector.replicate 8 {}).set 7 { active := some mma }, mxEnd := 48, mxTurn := 7 })] } 7 :=
  ⟨.inl ⟨by decide, 1, by decide +kernel⟩, .inr ⟨by decide, by decide, by decide +kernel, by decide +kernel⟩⟩
theorem test_wit_pick : ((mk mma).cluster 0).pick (fun r => (mk mma).engStopped 0 (8 * 0 + r)) = some (7, 1) := by decide +kernel
def blk : Except (Cause × Word) (List (List Elem × List Elem)) := (mk mma).mxBlock mma ((List.range (mma.unitEnd mma.done - mma.done)).map (fun i => mma.done + i))
theorem blkOk : ∃ ps, blk = .ok ps := isOk (by decide +kernel)
def psI : List (List Elem × List Elem) := match blk with | .ok ps => ps | .error _ => []
theorem plainTags {l : List LSrc} (h : l.all (fun x => decide (x = .h 0) || decide (x = .l (some [0]))) = true) : ∀ x ∈ l, x = .h 0 ∨ x = .l (some [0]) := by
  intro x hx
  have := List.all_eq_true.1 h x hx
  rwa [Bool.or_eq_true, decide_eq_true_eq, decide_eq_true_eq] at this
theorem blkIs : blk = .ok psI := by
  obtain ⟨ps, h⟩ := blkOk
  unfold psI
  simp only [h]
theorem test_wit_grant : blk = .ok psI ∧ (∀ x ∈ ((mk mma).on mma.core).mxTags psI, x = .h 0 ∨ x = .l (some [0])) ∧ mma.lab = 0 ∧
    (({} : State).cluster 0).accs.toList.all (fun a => a.lab == 0) = true := ⟨blkIs, plainTags (by decide +kernel), rfl, by decide +kernel⟩
/-- Commands that complete: MZERO, MMA at K 8 and before it, MLOAD and MSTORE of a granule of device DRAM at 16. -/
def span (k : MxKind) : MxCmd := { kind := k, acc := 1, core := 7, aid := 0, spans := [(16, 0, 16)] }
theorem test_wit_complete : Completing (mk mzero) mzero ∧ Completing (mk mma) mma ∧ mma.done < mma.kn ∧ Completing (mk { mma with done := 8 }) { mma with done := 8 } ∧ mma.kn ≤ 8 ∧
    Completing (mk (span .mload)) (span .mload) ∧ PlainSpans (mk (span .mload)) (span .mload) ∧ Completing (mk (span .mstore)) (span .mstore) ∧ PlainSpans (mk (span .mstore)) (span .mstore) := by
  have plainSpan (k : MxKind) : PlainSpans (mk (span k)) (span k) := by
    refine ⟨rfl, rfl, rfl, ?_⟩
    intro p hp
    obtain rfl := List.mem_singleton.1 hp
    exact ⟨by decide, by decide, rfl, fun i _ => plain rfl _⟩
  exact ⟨⟨by decide, rfl, rfl, rfl, rfl⟩, ⟨by decide, rfl, rfl, rfl, rfl⟩, by decide +kernel, ⟨by decide, rfl, rfl, rfl, rfl⟩, by decide +kernel, ⟨by decide, rfl, rfl, rfl, rfl⟩, plainSpan _,
    ⟨by decide, rfl, rfl, rfl, rfl⟩, plainSpan _⟩
/-- Channel 15 of cluster 0 runs a record for core 0. -/
def rc (b : Bte) (l : List (Nat × Byte)) : State := { mem' (bt b) l with arg := { m := 15 } }
def run (r : Line) : Bte := { state := 1, cur := some r, raddr := 0x8000000000000100 }
theorem runs {b : Bte} {r : Line} {k : Nat} {l : List (Nat × Byte)} (h : (decide (b.state = 1) && decide (b.owed = none) && decide (b.cur = some r) && decide (lf r 64 3 = k) && !b.cancel &&
    decide (b.core = 0) && decide (b.rlab = 0)) = true) : RunsRecord (rc b l) b r k := by
  simp only [Bool.and_eq_true, decide_eq_true_eq, Bool.not_eq_true'] at h
  obtain ⟨⟨⟨⟨⟨⟨h1, h2⟩, h3⟩, h4⟩, h5⟩, h6⟩, h7⟩ := h
  exact ⟨(by decide : 15 < 16), rfl, h1, h2, h3, h4, h5, (by rw [h6]; show (false || (0 : Word).getLsbD 1) = false; decide), (by rw [h6]; rfl), h7, bare rfl rfl rfl⟩
theorem portion {s : State} {c : Nat} {x : Word} {n : Nat} (h : (decide (c < 9216) && !s.shuttered c && (decide (x.toNat / 2 ^ 60 = 8) && decide (x.toNat % 2 ^ 60 / 2 ^ 18 = (s.on c).cur % 8) &&
    decide (x.toNat % 2 ^ 18 < (s.on c).me.scratchSize)) && decide (x.toNat % 2 ^ 18 + n ≤ (s.on c).me.scratchSize) && decide (x.toNat % 2 ^ 18 + n ≤ 2 ^ 18)) = true) :
    PortionOf s c x n := by
  simp only [Bool.and_eq_true, decide_eq_true_eq, Bool.not_eq_true'] at h
  exact ⟨h.1.1.1.1, h.1.1.1.2, ⟨h.1.1.2.1.1, h.1.1.2.1.2, h.1.1.2.2⟩, h.1.2, h.2⟩
/-- COPY and FILL of 100 bytes, of which the first 64 are done; COUNTED; FEMARK. -/
def rCopy : Line := BitVec.ofNat 512 (0x8000000000001000 * 2 ^ 128 + 0x8000000000002000 * 2 ^ 192 + 100 * 2 ^ 256)
def rFill : Line := BitVec.ofNat 512 (2 * 2 ^ 64 + 0x1122334455667788 * 2 ^ 128 + 0x8000000000002000 * 2 ^ 192 + 100 * 2 ^ 256)
def rCnt : Line := BitVec.ofNat 512 (3 * 2 ^ 64 + 0x8000000000003000 * 2 ^ 128 + 0x8000000000003008 * 2 ^ 192)
def rMark : Line := BitVec.ofNat 512 (4 * 2 ^ 64 + 0x8000000000003000 * 2 ^ 128)
def past (r : Line) : Bte := { run r with pos := 64 }
theorem test_wit_TransfersMove : RunsRecord (rc (past rCopy) []) (past rCopy) rCopy 0 ∧ lw rCopy 448 = 0 ∧ nextUnit (lw rCopy 192) (lf rCopy 256 32) 64 = 36 ∧
    PortionOf (rc (past rCopy) []) 0 (lw rCopy 128 + 64) 36 ∧ PortionOf (rc (past rCopy) []) 0 (lw rCopy 192 + 64) 36 ∧
    RunsRecord (rc (past rFill) []) (past rFill) rFill 2 ∧ lw rFill 448 = 0 ∧ (lw rFill 256).toNat ≠ 0 ∧ PortionOf (rc (past rFill) []) 0 (lw rFill 192 + 64) 36 :=
  ⟨runs (by decide +kernel), by decide +kernel, by decide +kernel, portion (by decide +kernel), portion (by decide +kernel), runs (by decide +kernel), by decide +kernel, by decide +kernel, portion (by decide +kernel)⟩
theorem test_wit_counted : RunsRecord (rc (run rCnt) []) (run rCnt) rCnt 3 ∧ (run rCnt).count = none ∧ PortionOf (rc (run rCnt) []) 0 (lw rCnt 128) 8 ∧ (lw rCnt 128).toNat % 8 = 0 ∧
    PortionOf (rc (run rCnt) []) 0 (lw rCnt 192) 4 ∧ (rc (run rCnt) []).full false (keyIn 0 (lw rCnt 128)) = true ∧
    ofBytes (Memory.readN (rc (run rCnt) []).mem (keyIn 0 (lw rCnt 192)) 4) = 0 ∧ State.full { rc (run rCnt) [] with fe := [((2 ^ 39 + 0x3000) / 8, false)] } false (keyIn 0 (lw rCnt 128)) = false :=
  ⟨runs (by decide +kernel), rfl, portion (by decide +kernel), by decide +kernel, portion (by decide +kernel), by decide +kernel, by decide +kernel, by decide +kernel⟩
def body3 : Bte := { run rCnt with count := some 3, iter := 2, pos := 64, body := some rFill }
theorem test_wit_countedBody : RunsRecord (rc body3 []) body3 rCnt 3 ∧ body3.count = some 3 ∧ body3.body = some rFill ∧ lf rFill 64 3 = 2 ∧ PortionOf (rc body3 []) 0 (lw rFill 192 + 64) 36 ∧
    lf body3.cur.get! 352 32 = 0 := ⟨runs (by decide +kernel), rfl, rfl, by decide +kernel, portion (by decide +kernel), by decide +kernel⟩
theorem test_wit_femark : RunsRecord (rc (run rMark) []) (run rMark) rMark 4 ∧ PortionOf (rc (run rMark) []) 0 (lw rMark 128) 1 := ⟨runs (by decide +kernel), portion (by decide +kernel)⟩
/-- TILE of the eight elements of the record at the start of the portion. -/
def rTile : Line := BitVec.ofNat 512 (2 ^ 64 + 0x8000000000002000 * 2 ^ 192 + 0x8000000000000040 * 2 ^ 256)
def tl : Bte := { run rTile with tcopy := recD }
def ts : State := rc tl [(0x44, 8)]
theorem test_wit_tile : RunsRecord ts tl rTile 1 ∧ rTile.getLsbD 144 = false ∧ lw rTile 448 = 0 ∧ lw rTile 320 = 0 ∧ recD ≠ 0 ∧ tFmt recD ≤ 6 ∧ tPack recD = false ∧ tKeep recD = 0 ∧ (∀ k, k < 4 → tCirc recD k = false) ∧
    PortionOf ts 0 (lw rTile 256) 32 ∧ BitVec.ofNat 256 (ofBytes (Memory.readN ts.mem (keyIn 0 (lw rTile 256)) 32)) = box8 ∧ boxMalformed recD box8 = false ∧
    PortionOf ts 0 (lw rTile 192) (((List.range 4).map (boxDim box8)).prod * tBytes recD) :=
  ⟨runs (by decide +kernel), by decide +kernel, by decide +kernel, by decide +kernel, by decide +kernel, by decide +kernel, by decide +kernel, by decide +kernel, by decide +kernel,
    portion (by decide +kernel), by decide +kernel, by decide +kernel, portion (by decide +kernel)⟩
theorem test_wit_tileElements : ∀ n, n < ((List.range 4).map (boxDim box8)).prod → PortionOf ts 0 (boxAddr recD box8 n) (tBytes recD) ∧
    ∀ k, k < 4 → tExt recD k ≠ 0 → 0 ≤ bOrg box8 k + offsetOf box8 n k ∧ bOrg box8 k + offsetOf box8 n k < tExt recD k := by
  have h8 : ((List.range 4).map (boxDim box8)).prod = 8 := by decide +kernel
  have h1 : (List.range 8).all (fun n => (decide (0 < 9216) && !ts.shuttered 0 && (decide ((boxAddr recD box8 n).toNat / 2 ^ 60 = 8) && decide ((boxAddr recD box8 n).toNat % 2 ^ 60 / 2 ^ 18 = (ts.on 0).cur % 8) &&
    decide ((boxAddr recD box8 n).toNat % 2 ^ 18 < (ts.on 0).me.scratchSize)) && decide ((boxAddr recD box8 n).toNat % 2 ^ 18 + tBytes recD ≤ (ts.on 0).me.scratchSize) &&
    decide ((boxAddr recD box8 n).toNat % 2 ^ 18 + tBytes recD ≤ 2 ^ 18))) = true := by decide +kernel
  have h2 : (List.range 8).all (fun n => (List.range 4).all (fun k => tExt recD k == 0 || (decide (0 ≤ bOrg box8 k + offsetOf box8 n k) && decide (bOrg box8 k + offsetOf box8 n k < tExt recD k)))) = true := by
    decide +kernel
  intro n hn
  rw [h8] at hn
  refine ⟨portion (List.all_eq_true.1 h1 n (List.mem_range.2 hn)), fun k hk he => ?_⟩
  have := List.all_eq_true.1 (List.all_eq_true.1 h2 n (List.mem_range.2 hn)) k (List.mem_range.2 hk)
  rw [Bool.or_eq_true, Bool.and_eq_true, decide_eq_true_eq, decide_eq_true_eq, beq_iff_eq] at this
  exact this.resolve_left he

/-- A record whose completion is owed: without a chain, with one, failed, and with a ring at 0x400 of four entries at 0x1000, of which n are used. -/
def ow (r : Line) (st c : Byte) : Bte := { run r with owed := some (st, c), bytes := 100, flg := 5, hcause := 9, hstage := 2, haddr := 0x77 }
def rNext : Line := BitVec.ofNat 512 0x8000000000000140
def rRing : Line := BitVec.ofNat 512 (2 ^ 68 + 0x8000000000000400 * 2 ^ 384)
def ringOf (n : Byte) : State := rc (ow rRing 3 0) [(0x401, 0x10), (0x407, 0x80), (0x408, 2), (0x410, n)]
theorem owes {r : Line} {st c : Byte} {l : List (Nat × Byte)} (h : PortionOf (rc (ow r st c) l) 0 0x8000000000000100 64) : Owes (rc (ow r st c) l) (ow r st c) r st c :=
  ⟨(by decide : 15 < 16), rfl, rfl, rfl, rfl, rfl, (by show (false || (0 : Word).getLsbD 1) = false; decide), (by rw [show (ow r st c).core = 0 from rfl]; rfl), rfl, rfl, rfl,
    bare rfl rfl rfl, h, (by decide : (0x8000000000000100 : Word).toNat % 64 = 0)⟩
theorem test_wit_completionRecord : Owes (rc (ow 0 0 0) []) (ow 0 0 0) 0 0 0 ∧ lw 0 384 = 0 ∧ lw 0 0 = 0 ∧ Owes (rc (ow rNext 0 0) []) (ow rNext 0 0) rNext 0 0 ∧ lw rNext 384 = 0 ∧
    lw rNext 0 ≠ 0 ∧ Owes (rc (ow 0 1 9) []) (ow 0 1 9) 0 1 9 ∧ Owes (rc (ow 0 2 9) []) (ow 0 2 9) 0 2 9 ∧ (ow 0 2 9).fc = false :=
  ⟨owes (portion (by decide +kernel)), by decide +kernel, by decide +kernel, owes (portion (by decide +kernel)), by decide +kernel, by decide +kernel, owes (portion (by decide +kernel)),
    owes (portion (by decide +kernel)), rfl⟩
theorem test_wit_completionRing : Owes (ringOf 4) (ow rRing 3 0) rRing 3 0 ∧ Owes (ringOf 3) (ow rRing 3 0) rRing 3 0 ∧ lw rRing 384 = 0x8000000000000400 ∧
    PortionOf (ringOf 4) 0 (lw rRing 384) 32 ∧ PortionOf (ringOf 3) 0 (lw rRing 384) 32 ∧
    (let h := ofBytes (Memory.readN (ringOf 4).mem (keyIn 0 (lw rRing 384)) 32)
     BitVec.ofNat 64 h = (0x8000000000001000 : Word) ∧ 2 ^ (h / 2 ^ 64 % 16) = 4 ∧ h / 2 ^ 128 % 2 ^ 64 = 4 ∧ h / 2 ^ 192 = 0) ∧
    (let h := ofBytes (Memory.readN (ringOf 3).mem (keyIn 0 (lw rRing 384)) 32)
     BitVec.ofNat 64 h = (0x8000000000001000 : Word) ∧ 2 ^ (h / 2 ^ 64 % 16) = 4 ∧ h / 2 ^ 128 % 2 ^ 64 = 3 ∧ h / 2 ^ 192 = 0) ∧
    PortionOf (ringOf 4) 0 0x8000000000001000 16 ∧ PortionOf (ringOf 3) 0 0x8000000000001030 16 :=
  ⟨owes (portion (by decide +kernel)), owes (portion (by decide +kernel)), by decide +kernel, portion (by decide +kernel), portion (by decide +kernel), by decide +kernel, by decide +kernel,
    portion (by decide +kernel), portion (by decide +kernel)⟩

/-! ### Statements about collectives, cuts and tenants -/

/-- An allreduce of two 32-bit integers of cores 0 and 1: GROUP at 0x100, SRC at 0x200, DST at 0x300, the ring at 0x400, TAG 9. -/
def rAll (rank : Nat) : Line := BitVec.ofNat 512 (4 * 2 ^ 8 + 2 * 2 ^ 32 + rank * 2 ^ 48 + 0x8000000000000100 * 2 ^ 64 + 0x8000000000000200 * 2 ^ 128 +
  0x8000000000000300 * 2 ^ 192 + 2 * 2 ^ 256 + 0x8000000000000400 * 2 ^ 384 + 9 * 2 ^ 448)
def coll (core : Nat) : Coll := { seq := core, rcd := rAll core, addr := 0x8000000000000040, core := core, aid := 0, sup := true, lab := 0 }
def cs (l : List Coll) : State := { mem' {} [(0x104, 1), (0x401, 0x10), (0x407, 0x80), (0x408, 2)] with clusters := [(0, { colls := l })], clock := 0x10000000000 }
theorem isGroup {s : State} {x : Coll} {g : List Nat} (h : (match s.collGroup x with | .ok y => y == g | .error _ => false) = true) : s.collGroup x = .ok g := by
  split at h
  · rename_i h2; rw [h2, eq_of_beq h]
  · cases h
theorem gathers : Gathers (cs [coll 0, coll 1]) (coll 0) [0, 1] := by
  refine ⟨rfl, rfl, rfl, rfl, by decide +kernel, by decide +kernel, by decide +kernel, ?_, by decide +kernel, ?_⟩
  · exact isGroup (by decide +kernel)
  · intro e he
    simp only [List.mem_cons, List.not_mem_nil, or_false] at he
    obtain rfl | rfl := he <;> decide +kernel
theorem test_wit_Collectives : Gathers (cs [coll 0, coll 1]) (coll 0) [0, 1] ∧ mate (cs [coll 0, coll 1]) (coll 0) 0 = some (coll 0) ∧ mate (cs [coll 0, coll 1]) (coll 0) 1 = some (coll 1) ∧
    mate (cs [coll 0]) (coll 0) 1 = none ∧ (coll 1).seq ≠ (coll 0).seq ∧ (cs [coll 0, coll 1]).collLive 1 = true ∧ collKey (coll 1).rcd = collKey (coll 0).rcd ∧
    (cs [coll 0, coll 1]).collGroup (coll 1) = .ok [0, 1] ∧ (cs [coll 0, coll 1]).arg.flag = false ∧ collOp (coll 0).rcd = 0 ∧ collType (coll 0).rcd = 4 ∧ collRed (coll 0).rcd = 0 :=
  ⟨gathers, rfl, by decide +kernel, by decide +kernel, by decide, by decide +kernel, by decide +kernel, isGroup (by decide +kernel), rfl, by decide +kernel, by decide +kernel, by decide +kernel⟩
theorem test_wit_wellFormedMates : ∀ e ∈ [0, 1], ∀ y, mate (cs [coll 0, coll 1]) (coll 0) e = some y → WellFormedColl (cs [coll 0, coll 1]) y := by
  intro e he y hy
  simp only [List.mem_cons, List.not_mem_nil, or_false] at he
  obtain rfl | rfl := he
  · obtain rfl : coll 0 = y := Option.some.inj ((show mate (cs [coll 0, coll 1]) (coll 0) 0 = some (coll 0) by decide +kernel).symm.trans hy)
    exact ⟨by decide +kernel, [0, 1], isGroup (by decide +kernel), by decide, by decide +kernel⟩
  · obtain rfl : coll 1 = y := Option.some.inj ((show mate (cs [coll 0, coll 1]) (coll 0) 1 = some (coll 1) by decide +kernel).symm.trans hy)
    exact ⟨by decide +kernel, [0, 1], isGroup (by decide +kernel), by decide, by decide +kernel⟩
theorem test_wit_blocks : ∃ b, (cs [coll 0, coll 1]).collBlocks (collCount (coll 0).rcd * collSize (coll 0).rcd) ((List.range 2).zip [some (coll 0), some (coll 1)]) [] [] = .ok b :=
  isOk (by decide +kernel)
theorem test_wit_collBad : collBad ((coll 0).rcd ||| 4) = true := by decide +kernel
theorem ringReady {s : State} {x : Coll} {head : Nat} {place : Word}
    (h : (decide (head = ofBytes (Memory.readN s.mem (keyIn x.core (lw x.rcd 384)) 32) / 2 ^ 128 % 2 ^ 64) &&
      decide (place = BitVec.ofNat 64 (ofBytes (Memory.readN s.mem (keyIn x.core (lw x.rcd 384)) 32)) +
        BitVec.ofNat 64 (head % 2 ^ (ofBytes (Memory.readN s.mem (keyIn x.core (lw x.rcd 384)) 32) / 2 ^ 64 % 16) * 16)) &&
      decide ((head + 2 ^ 64 - ofBytes (Memory.readN s.mem (keyIn x.core (lw x.rcd 384)) 32) / 2 ^ 192) % 2 ^ 64 <
        2 ^ (ofBytes (Memory.readN s.mem (keyIn x.core (lw x.rcd 384)) 32) / 2 ^ 64 % 16)) && decide ((lw x.rcd 384).toNat % 32 = 0) &&
      decide ((BitVec.ofNat 64 (ofBytes (Memory.readN s.mem (keyIn x.core (lw x.rcd 384)) 32))).toNat % 16 = 0) && decide (x.lab = 0) && decide (x.core / 8 = s.arg.n) &&
      s.collLive x.core) = true)
    (h1 : PortionOf s x.core (lw x.rcd 384) 32) (h2 : PortionOf s x.core place 16) (h3 : Apart place 16 (lw x.rcd 384) 32) (h4 : Bare s)
    (h5 : s.collAt s.arg.n s.arg.m = some x) : RingReady s x head place := by
  simp only [Bool.and_eq_true, decide_eq_true_eq] at h
  obtain ⟨⟨⟨⟨⟨⟨⟨a1, a2⟩, a3⟩, a4⟩, a5⟩, a6⟩, a7⟩, a8⟩ := h
  exact ⟨a1, a2, a3, a4, a5, h1, h2, h3, h4, a6, a7, h5, a8⟩
def xe : Coll := { coll 0 with ending := some (6, 0) }
def xd : Coll := { coll 0 with data := some (List.replicate 8 ⟨1, [(5, some [0])]⟩) }
theorem test_wit_collectiveComplete : RingReady (cs [xe]) xe 0 0x8000000000001000 ∧ RingReady (cs [xd]) xd 0 0x8000000000001000 ∧ xd.data = some (List.replicate 8 ⟨1, [(5, some [0])]⟩) ∧
    (∀ p ∈ List.replicate 8 (⟨1, [(5, some [0])]⟩ : CByte), ∀ a ∈ p.srcs, a.2 = some [0]) ∧ PortionOf (cs [xd]) 0 (lw (rAll 0) 192) 8 ∧ Apart (lw (rAll 0) 192) 8 (lw (rAll 0) 384) 32 ∧
    Apart (lw (rAll 0) 192) 8 0x8000000000001000 16 :=
  ⟨ringReady (by decide +kernel) (portion (by decide +kernel)) (portion (by decide +kernel)) (.inr (by decide +kernel)) (bare rfl rfl rfl) rfl,
    ringReady (by decide +kernel) (portion (by decide +kernel)) (portion (by decide +kernel)) (.inr (by decide +kernel)) (bare rfl rfl rfl) rfl, rfl, by decide +kernel, portion (by decide +kernel), .inl (by decide +kernel), .inl (by decide +kernel)⟩
theorem test_wit_haltedpeer : (cs [coll 0]).collAt 0 0 = some (coll 0) ∧ ((cs [coll 0]).cluster 0).clwdog.toNat % 2 ^ 24 ≠ 0 ∧
    ((cs [coll 0]).cluster 0).clwdog.toNat % 2 ^ 24 * Config.cyclesPerUs ≤ ((cs [coll 0]).clock - (coll 0).since).toNat ∧
    (cs [{ coll 0 with notice := true }]).collAt 0 0 = some { coll 0 with notice := true } ∧ (coll 0).kept = false ∧ (cs [coll 0, coll 1]).collSlot (coll 0) 1 = true ∧
    (cs [coll 0, coll 1]).collLeft 1 (collTag (coll 0).rcd) = some (coll 1) := ⟨rfl, by decide +kernel, by decide +kernel, rfl, rfl, by decide +kernel, by decide +kernel⟩
/-- Slot 1 owns cluster 0. -/
def t1 : Line := BitVec.ofNat 512 (1 + 2 ^ 24 + 2 ^ 32 + 7 * 2 ^ 48)
def cu (c : Cut) (f : Core → Core) : State :=
  { cores := [(0, f { Core.reset 0 with tslot := 1 })], jobs := [(1, { cut := c })], plant := { tenants := [(1, t1)] }, arg := { n := 1 }, clock := 0x10000000000 }
theorem test_wit_Cuts : ((cu {} id).cutOf 1).state = 0 ∧ ((cu {} id).cutOf 1).busy = false ∧ ((cu { state := 1 } id).core 0).tslot.toNat ≠ 0 ∧ ((cu { state := 1 } id).cutOf 1).state = 1 ∧
    ((cu { state := 1 } id).core 0).stopReq = false ∧ ((cu { state := 1 } id).core 0).halted = false ∧ (cu { state := 1 } id).inSub 1 0 = true := by decide +kernel
def slept : Act := parkedOf (.sleep 5)
theorem test_wit_coreStopped : ((cu { state := 1 } (fun c => { c with stopReq := true })).core 0).stopReq = true ∧ ((cu { state := 1 } (fun c => { c with stopReq := true })).core 0).color.getLsbD 1 = false ∧
    ((cu { state := 1 } (fun c => { c with stopReq := true })).core 0).parked = [] ∧ ((cu { state := 1 } (fun c => { c with parked := [slept] })).core 0).parked = [slept] ∧
    slept.park = some (.sleep 5) ∧ slept.outs = [] ∧ slept.inStop = false ∧
    ((cu { state := 1 } (fun c => { c with stopReq := true })).core 0).ready = [] ∧ ((cu { state := 1 } (fun c => { c with stopReq := true })).core 0).running = false :=
  ⟨rfl, by decide, rfl, rfl, rfl, rfl, rfl, rfl, rfl⟩
theorem test_wit_subCores : (cu {} id).subCores 1 = List.range 8 := by decide +kernel
/-- All eight cores have stopped, with as many messages sent as received, or more. -/
def eight (c : Cut) (f : Nat → Core → Core) : State := { cu c id with cores := (List.range 8).map (fun i => (i, f i { Core.reset i with tslot := 1 })) }
def stopped : State := eight { state := 1 } (fun i c => { c with color := 2, sentOld := i, recvOld := 7 - i })
theorem test_wit_cutWave : (stopped.cutOf 1).state = 1 ∧ (∀ k ∈ (List.range 8).map stopped.core, k.color.getLsbD 1 = true) ∧
    (((List.range 8).map stopped.core).map (·.sentOld)).sum = (((List.range 8).map stopped.core).map (·.recvOld)).sum ∧
    ∃ k ∈ (List.range 8).map (eight { state := 1 } (fun _ c => c)).core, k.color.getLsbD 1 = false :=
  ⟨by decide, by decide +kernel, by decide +kernel, (eight { state := 1 } (fun _ c => c)).core 0, by decide +kernel, by decide +kernel⟩
def late : State := { (cu { state := 1, limit := 100 } (fun c => { c with stopReq := true, running := true, xvec := 0x2000, act := actOf [] })) with arg := {} }
theorem test_wit_stop : (late.core 0).stopReq = true ∧ (late.core 0).running = true ∧ (late.core 0).halted = false ∧ (late.core 0).act.pend = none ∧ (late.cutOf 1).limit ≠ 0 ∧
    (late.cutOf 1).limit.toNat * Config.cyclesPerUs ≤ (late.clock - (late.cutOf 1).since).toNat ∧
    CanTrap (({ late with cur := late.arg.n }).setCore late.arg.n { late.core late.arg.n with stalled := false, stallSince := none, twait := false }) .stop :=
  ⟨rfl, rfl, rfl, rfl, by decide, by decide +kernel, rfl, rfl, rfl, .inr (by decide)⟩
theorem test_wit_save : ((cu { state := 2 } id).cutOf 1).state = 2 ∧ ((cu { state := 2 } id).cutOf 1).busy = false ∧ (∃ i ∈ (cu { state := 2 } id).subCores 1, ((cu { state := 2 } id).core i).ctxbase.getLsbD 0 = false) :=
  ⟨by decide, by decide, 0, by rw [show (cu { state := 2 } id).subCores 1 = List.range 8 from by decide +kernel]; decide, by decide⟩
/-- A slot without cores: SAVE and RESTORE end at once. -/
def none0 (st : BitVec 2) : State := { jobs := [(0, { cut := { state := st } })] }
theorem test_wit_saveNone : ((none0 2).cutOf 0).state = 2 ∧ ((none0 2).cutOf 0).busy = false ∧ (∀ i ∈ (none0 2).subCores 0, ((none0 2).core i).ctxbase.getLsbD 0 = true) ∧
    (∃ w, ((none0 2).setCut 0 { (none0 2).cutOf 0 with busy := true, err := false, cmd := 2 }).saveCores ((none0 2).subCores 0) = some w) ∧
    ((none0 3).cutOf 0).state = 3 ∧ ((none0 3).cutOf 0).busy = false ∧
    ∃ w, ((none0 3).setCut 0 { (none0 3).cutOf 0 with busy := true, err := false, cmd := 3 }).restoreCores 0 ((none0 3).subCores 0) = some w :=
  ⟨rfl, rfl, (by intro i h; cases h), ⟨_, rfl⟩, rfl, rfl, _, rfl⟩
theorem test_wit_cutCommandComplete : ((cu { owed := [(2, true), (1, false)], notify := 0x3C00000008 } id).cutOf 1).owed = (2, true) :: [(1, false)] ∧ badTarget 0x3C00000008 = false ∧ (0x3C00000008 : Word).getLsbD 38 = false := by decide
/-- A record over cluster 47 of the last row beside that of slot 1, with a DTID of its own; and one over cluster 0. -/
def t63 : Line := BitVec.ofNat 512 (1 + 47 * 2 ^ 8 + 23 * 2 ^ 16 + 2 ^ 24 + 2 ^ 32 + 0xFFFF * 2 ^ 48)
theorem test_wit_TenantsAndRegisters : MayStore (cu {} id) 63 t63 ∧ ¬ MayStore (cu {} id) 63 t1 := by
  constructor
  · unfold MayStore; decide +kernel
  · unfold MayStore; decide +kernel
/-- The record of a saved tenant may be made invalid. -/
def t1off : Line := BitVec.ofNat 512 (2 ^ 24 + 2 ^ 32 + 7 * 2 ^ 48)
theorem test_wit_teardown : MayStore (cu { state := 3 } id) 1 t1off ∧ ((cu { state := 3 } id).tenant 1).getLsbD 0 = true ∧ t1off.getLsbD 0 = false := by
  refine ⟨?_, by decide +kernel, by decide +kernel⟩
  unfold MayStore; decide +kernel
def fm : FabricMsg := { core := 9215, chan := 63, smod := 3, dtid := 7, score := 0, rep := false, sup := false, payload := List.replicate 256 0, label := some [0], time := 0 }
def fa (c : Cut) (d : BitVec 16) : State := { cu c id with arg := { msg := some { fm with dtid := d } } }
theorem test_wit_fabric : (fa {} 7).arg.msg = some fm ∧ (fa {} 7).portRefused.toNat < 0xFFFF ∧ (fa {} 8).slotOf 8 = none ∧ (fa {} 7).slotOf fm.dtid.toNat = some 1 ∧
    ((fget (fa {} 7).plant.peers fm.smod.toNat).getD {}).dead = false ∧ fm.core < 9216 ∧ fm.chan < 64 ∧ fm.payload.length ≤ 256 ∧ (fa {} 7).port = [] ∧ fm.done = false ∧ fm.start = false ∧ ({ fm with done := true } : FabricMsg).done = true ∧ ((fa {} 7).cutOf 1).state = 0 ∧ ((fa { state := 1 } 7).cutOf 1).state ≠ 0 ∧
    ((fget ({ (fa {} 7).plant with peers := [(3, { dead := true })] } : Plant).peers 3).getD {}).dead = true := ⟨rfl, by decide, by decide +kernel, by decide +kernel, rfl, by decide, by decide, by decide +kernel, rfl, rfl, rfl, rfl, rfl, by decide, rfl⟩
/-- A freed launch of module 3, and a retirement of assumption 3 there. -/
theorem test_wit_fabricOps : ({ fm with freed := true } : FabricMsg).freed = true ∧ fm.freed = false ∧ ({ fm with lop := some (1, [8]) } : FabricMsg).lop = some (1, [8]) ∧ fm.lop = none ∧ fm.succ = false ∧
    ∃ p ∈ (fa {} 7).cores, p.1 = 0 := ⟨rfl, rfl, rfl, rfl, rfl, _, .head _, rfl⟩
theorem test_wit_registerWrite : (0xA600000000000FD8 : Word).toNat = 0xA600000000000000 + 63 * 0x40 + 24 ∧ (0xA600000000000FC0 : Word).toNat = 0xA600000000000000 + 63 * 0x40 ∧
    (0x0000006400000001 : Word).toNat % 8 = 1 := by decide

/-! ### Statements about recovery, supply, host and debug -/

def psr (k m : Nat) (f : Bool) (w : Word) : State := { on {} [] with arg := { k := k, m := m, flag := f, word := w } }
theorem test_wit_ErrorsAndPeers : (psr 4 0 true 63).arg.word.toNat = (63 : BitVec 6).toNat ∧ ((psr 4 0 true 63).core 0).running = true ∧ ((psr 4 0 true 63).core 0).act.slot = 0 ∧
    ((psr 4 0 true 63).core 0).act.trap = none ∧ (63 : BitVec 6) ≠ 0 := by decide
def pe (p : Peer) : State := { plant := { peers := [(3, p)] }, arg := { n := 3, flag := true } }
theorem test_wit_peers : ((fget (pe { act := true, missed := 3 }).plant.peers 3).getD {}).act = true ∧ 3 ≤ ((fget (pe { act := true, missed := 3 }).plant.peers 3).getD {}).missed ∧
    ((fget (pe {}).plant.peers 3).getD {}).act = false ∧ ((fget (pe { dead := true }).plant.peers 3).getD {}).dead = true ∧ ((fget (pe { missed := 2 }).plant.peers 3).getD {}).missed < 3 ∧
    (pe { act := true }).linked 3 = false ∧ State.linked { pe { act := true } with pages := [(5, { holders := [3] })] } 3 = true := by decide +kernel
/-- The supply: up, lost for a cycle or for long, and the phases of a Storm Door. -/
def sup (p : Phase) (f : Core → Core) : State := { me' (on {} []) f with plant := { storm := { phase := p } }, clock := 0x10000000000 }
def quick (p : Phase) : State := { sup p id with clock := 1 }
theorem test_wit_LossOfSupply : (sup .up id).plant.storm.phase = .up ∧ (∀ p ∈ (sup .up id).cores, ((sup .up id).core p.1).msquota.getLsbD 16 = false) ∧ ¬ lossHeld (quick .failing) ∧ lossHeld (sup .failing id) ∧
    (sup .doorOpen id).plant.storm.phase = .doorOpen ∧ (sup .quiesced id).plant.storm.writes = false ∧ doorBusy (sup .doorOpen id) ∧
    20000 * Config.cyclesPerUs ≤ ((sup .doorOpen id).clock - 0).toNat ∧ ((quick .doorOpen).clock - 0).toNat < 20000 * Config.cyclesPerUs := by
  unfold lossHeld doorBusy; decide +kernel
def warned : Core := { coreOf [] with msquota := 0x10000 }
def wu : State := { cores := [(0, warned)], clock := 5 }
theorem test_wit_pfail : wu.cores = [(0, warned)] ∧ warned.msquota.getLsbD 16 = true ∧ warned.pfDone = false ∧ warned.running = true ∧ warned.halted = false ∧ warned.act.pend = none ∧
    CanTrap (({ withStorm wu { wu.plant.storm with phase := .failing, since := wu.clock, loss := wu.clock } with cur := 0 }).setCore 0 { warned with pfDone := true, stalled := false, stallSince := none, twait := false }) .pfail :=
  ⟨rfl, by decide, rfl, rfl, rfl, rfl, rfl, rfl, rfl, .inr (by decide)⟩
/-- A must-save set of 64 bytes of the portion. -/
def sv : MustSave := { addr := 0x8000000000000000, len := 64, frames := [2 ^ 39], pages := [], tslot := 0 }
def door (p : Phase) : State := { me' (on {} []) (fun c => { c with mustSave := [sv] }) with plant := { storm := { phase := p, writes := true } }, arg := {} }
theorem test_wit_headers : Savable (door .quiesced) ∧ (∃ p ∈ (door .quiesced).cores, p.1 = 0) ∧ ((door .quiesced).core 0).mustSave ≠ [] ∧ ((door .quiesced).core 1).mustSave = [] := by
  unfold Savable; decide +kernel
theorem test_wit_copyPhase : (door .headers).arg.flag = false ∧ ((door .headers).core 0).mustSave = [sv] ∧ sv.len.toNat ≤ 65536 ∧ 0 < sv.len.toNat ∧ sv.len.toNat % 16 = 0 ∧
    ∀ i, i < sv.len.toNat / 16 → sv.key (16 * i) < 2 ^ 40 ∧ (door .headers).rdTag false (sv.key (16 * i) / 16) = 0 ∧ (door .headers).tenureAt (sv.key (16 * i) / 64) = none :=
  ⟨rfl, rfl, by decide, by decide, by decide, by decide +kernel⟩
/-- Blobs: of a version below the floor, and at it. -/
def blob : BootBlob := { raw := [1], version := 5, modId := 3, hostcap := 0, debugOpen := false, entry := 0x4000, minVersion := 0, cap := 540, capSill := 540, hwarn := 40, vwarn := 12, image := [] }
def bo (floor : BitVec 32) (st : Byte) : State := { plant := { boot := { status := st, floor := floor, flash := some blob } }, arg := { blob := some blob } }
theorem test_wit_refusedBlob : ¬ Accepted (bo 6 1) blob ∧ (bo 6 1).plant.boot.status = 1 ∧ (bo 6 0).plant.boot.status ≠ 1 ∧ (bo 6 0).plant.boot.status ≠ 2 :=
  ⟨fun h => absurd h.2.1 (by decide), by decide, by decide, by decide⟩
/-- A blob whose chain of keys and signatures holds: private scalars 2 and 3, signed over the bytes 2 and 3. -/
def root : Nat × Nat := (0x2282bc382a2f4dfcb95c3495d7b4fd590ad520b3eb6be4d6ec2f80c4e0f70df87c4ba74a09b553ebb427b58df9d59fca,
  0xedda83773ac68735768d14a24f37a57ce9bedbc170921ce4d89dd051728fc3eb4b4ea69ab64fc288f1b29502b6e1d30)
def signed : BootBlob := { blob with
  rootKey := root, certBody := [2], body := [3]
  opKey := (0x7b63205bf00ddae73b17452b6a27ebf53df581348c6949f83ee1b6fcc7463bbe3c11ef6596a3b8897d7cc85b3035f11f,
    0x761d3a4a5f8093775521a326bc02baaf7b2eb481ead16a5c7b2bd39462363e0373c0edaea3b8f59381d7129d48772eb3)
  certSig := (0xd3ec4dfce2647725100dabea7b5f59f465848a4b4fbb6080ac96ddf237f84f4fbc1247651c2770d2cebab9fd2412dfb,
    0x69716b676ed85b1844dfdec8d92c30fd4833a47842209086cd2d655ce8b753f35ce1cc9d572c56f67e92856f72b05ad5)
  sig := (0x6460f955efdcbf3bf7393081ddf04a64747781bc8956c1e5ff47be522f7f758244ae054e91e8aa160c76dc7302bcf181,
    0x52e5c775205c1d9e0624bef158ffbaf1a5115e031303d70d4997401c59bc52effd3c9f3ff251a8be350cb2213426d33b) }
theorem test_signatures : ecVerify signed.rootKey (sha384 signed.certBody) signed.certSig = true ∧ ecVerify signed.opKey (sha384 signed.body) signed.sig = true := by decide +kernel
/-- SHA-384 of the three bytes "abc" (FIPS 180-4). -/
theorem test_sha384 : bigOf (sha384 [0x61, 0x62, 0x63]) =
    0xCB00753F45A35E8BB5A03D699AC65007272C32AB0EDED1631A8B605A43FF5BED8086072BA1E7CC2358BAECA134C825A7 := by decide +kernel
/-- The mailbox: a store has started the reading of one byte of host memory, which is the blob's; then the blob is accepted. -/
def box : State := { bo 6 1 with plant := { boot := { status := 1, floor := 6, blobRead := true, blobAddr := 5, blobLen := 1 } }, mem := [(2 ^ 52 + 5, 1)] }
theorem test_wit_mailbox : box.plant.boot.pending = none ∧ box.plant.boot.status = 1 ∧ box.plant.boot.blobRead = true ∧ box.arg.blob = some blob ∧
    blob.raw = Memory.readN box.mem (2 ^ 52 + box.plant.boot.blobAddr.toNat) box.plant.boot.blobLen.toNat ∧ ({ box.plant.boot with pending := some blob } : Boot).pending = some blob ∧
    box.plant.boot.attCtl ≠ 1 ∧ ({ box.plant.boot with attCtl := 1 } : Boot).attCtl = 1 := ⟨rfl, rfl, rfl, rfl, by decide +kernel, rfl, by decide, rfl⟩
/-- The digest of the root key is a free value: where it is that of this key, the boot ROM accepts this version. -/
theorem test_wit_acceptedBlob (h : Config.rootDigest = sha384 (pairBytes root)) : Accepted (bo 5 1) signed ∧ (bo 5 1).plant.boot.floor = 5 := by
  refine ⟨⟨?_, by decide, by decide⟩, rfl⟩
  unfold blobSigned
  rw [h, test_signatures.1, test_signatures.2]
  simp [signed]
/-- A host window for writing of one unit at 64 KiB; the access reaches its end. -/
def host (w : Word) (f : Bool) (l : List Byte) : State :=
  { plant := { hostwin := [(0, 0x10003, 1)] }, arg := { m := 16, word := w, flag := f, bytes := l } }
theorem test_wit_HostAndDebug : (∃ p ∈ (host 0x1FFF0 false []).plant.hostwin, p.2.1.getLsbD 0 = true ∧ (false = true → p.2.1.getLsbD 1 = true) ∧
      p.2.1.toNat / 2 ^ 16 % 2 ^ 22 * 65536 ≤ 0x1FFF0 ∧ 0x1FFF0 + 16 ≤ p.2.1.toNat / 2 ^ 16 % 2 ^ 22 * 65536 + p.2.2.toNat % 2 ^ 32 * 65536) ∧
    (∃ p ∈ (host 0x1FFF0 true (List.replicate 16 7)).plant.hostwin, p.2.1.getLsbD 0 = true ∧ (true = true → p.2.1.getLsbD 1 = true) ∧
      p.2.1.toNat / 2 ^ 16 % 2 ^ 22 * 65536 ≤ 0x1FFF0 ∧ 0x1FFF0 + 16 ≤ p.2.1.toNat / 2 ^ 16 % 2 ^ 22 * 65536 + p.2.2.toNat % 2 ^ 32 * 65536) ∧
    (¬ ∃ p ∈ (host 0x1FFF1 false []).plant.hostwin, p.2.1.getLsbD 0 = true ∧ p.2.1.toNat / 2 ^ 16 % 2 ^ 22 * 65536 ≤ 0x1FFF1 ∧
      0x1FFF1 + 16 ≤ p.2.1.toNat / 2 ^ 16 % 2 ^ 22 * 65536 + p.2.2.toNat % 2 ^ 32 * 65536) ∧
    (host 0x1FFF0 false []).plant.boot.status = 0 ∧ 0x1FFF0 + 16 ≤ 2 ^ 38 ∧ (∀ i, i ≤ 16 → (host 0x1FFF0 false []).rdTag false ((0x1FFF0 + i) / 16) = 0) := by decide +kernel
theorem test_wit_hostFree : (∀ i, (host 0x1FFF0 false []).gOf i = none) ∧ (host 0x1FFF0 true []).handles = [] ∧ (host 0x1FFF0 true []).pages = [] := ⟨fun _ => rfl, rfl, rfl⟩
/-- The inbound ring at 64 KiB of host memory: one entry for channel 60 of core 8, of 16 bytes. -/
def inb : State := { plant := { boot := { inBase := 0x10000, inLog := 3, inHead := 1 } }, mem := [(2 ^ 52 + 0x10000, 8), (2 ^ 52 + 0x10004, 0x3C), (2 ^ 52 + 0x10008, 16)] }
theorem test_wit_inbound : (inb.plant.boot.inHead - inb.plant.boot.inTail).toNat < 2 ^ 63 ∧ inb.plant.boot.inHead ≠ inb.plant.boot.inTail ∧ inb.plant.boot.inBase ≠ 0 ∧
    BitVec.ofNat 64 (ofBytes ((Memory.readN inb.mem (2 ^ 52 + 0x10000) 512).take 8)) = (0x3C00000008 : Word) ∧ badTarget 0x3C00000008 = false ∧
    ofBytes (((Memory.readN inb.mem (2 ^ 52 + 0x10000) 512).drop 8).take 2) = 16 ∧ 56 ≤ (0x3C00000008 : Word).toNat / 2 ^ 32 % 64 := by decide +kernel
def db (d : Debug) (t : Tap) : State := { cores := (List.range 8).map (fun i => (i, { Core.reset i with halted := true })), clusters := [(0, { dbg := d })], plant := { tap := t } }
theorem test_wit_debug : ((db { scanned := true } .bypass).cluster 0).dbg.scanned = true ∧ ((db {} .bypass).cluster 0).dbg.scanned = false ∧ ((db { xten := 0 } .bypass).cluster 0).dbg.xten = 0 ∧
    ((db { frozen := true } .ieee1687).cluster 0).dbg.frozen = true ∧ (∀ i, i < 8 → ((db { frozen := true } .ieee1687).core (8 * 0 + i)).halted = true) ∧ (db { frozen := true } .ieee1687).plant.tap = .ieee1687 := by
  decide +kernel
/-- Rings and areas in device DRAM, through one page of 1 GiB: the tables at 0 and 0x1000. -/
def dram (l : List (Nat × Byte)) (p : Plant) : State := { me' (on {} []) (fun c => { c with ptroot := 1 }) with mem := [(0, 1), (1, 0x10), (0x1000, 0x3F)] ++ l, plant := p }
def trc : State := { dram [(0x20003, 1), (0x20008, 2)] {} with clusters := [(0, { dbg := { trring := 0x20000, buffer := [List.replicate 16 7] } })] }
theorem test_wit_traceDrain : (trc.cluster 0).dbg.trring ≠ 0 ∧ (trc.cluster 0).dbg.buffer = List.replicate 16 7 :: [] := by decide +kernel
theorem isSome {α : Type} {o : Option α} (h : o.isSome = true) : ∃ t, o = some t := Option.isSome_iff_exists.1 h
theorem test_wit_traceRing : ∃ p, trc.ringAdd 0 (trc.cluster 0).dbg.trring (List.replicate 16 7) = some p := isSome (by decide +kernel)
def lv : State := { dram [] { louvre := { lbase := 0x40000 } } with clock := 0x10000000000 }
theorem test_wit_louvreDue : lv.plant.louvre.en = true ∧ lv.plant.louvre.lbase ≠ 0 ∧ lv.plant.louvre.period.toNat * Config.cyclesPerUs ≤ (lv.clock - lv.plant.louvre.last).toNat := by decide +kernel
/-- 500 V times A per hundred thousand: within the cap. -/
theorem test_wit_telemetry : Min.min (540 : BitVec 16).toNat (10000 * 5000 / 100000 + 60 - (20 : BitVec 16).toNat) < 2 ^ 16 ∧ 9 < 10 ∧ 71 < 72 := by decide
def dm : State := { me' (dram [(0x20003, 1), (0x20008, 2)] { damage := [(0, [⟨0, 5⟩])] }) (fun c => { c with dmapbase := 0x20001 }) with arg := {} }
theorem heldTrue {p : State × Bool} (h : p.2 = true) : ∃ t, p = (t, true) := ⟨p.1, by rw [← h]⟩
theorem test_wit_damageRecord : (fget dm.plant.damage dm.arg.n).getD [] = [⟨0, 5⟩] ∧ ∃ t, dm.tryDamage 0 5 = (t, true) :=
  ⟨rfl, heldTrue (by decide +kernel)⟩

/-! ### Statements about encoding, the step and traps -/

/-- The words of LD at the address of the running activation. -/
def sd : State := (on {} []).withFetchWord 32 0x0E0311FE
theorem test_wit_StepRunsDecoded : sd.sched = [] ∧ Acting sd sd.advance ∧ Issues sd.advance ∧ decode [0x0E0311FE] = .ok ⟨.ld, { d := 3, a := 4, md := 3, imm := 0x7E }⟩ :=
  ⟨rfl, .inl ⟨rfl, rfl⟩, ⟨rfl, rfl, rfl, rfl, rfl, .inl rfl, rfl⟩, by decide +kernel⟩
theorem res {s : State} {c : Nat} {sup : Bool} {k : Kind} {x : Word} {key : Nat}
    (h : (match s.resolve c sup k x with | .ok y => y == key | .error _ => false) = true) : s.resolve c sup k x = .ok key := by
  split at h
  · rename_i h2; rw [h2, eq_of_beq h]
  · cases h
theorem test_wit_fetches : Fetches sd.advance [0x0E0311FE] := by
  refine ⟨by decide, by decide, ?_⟩
  intro j h
  obtain rfl : j = 0 := Nat.lt_one_iff.1 h
  exact ⟨0x10000, res (by decide +kernel), by show Memory.readN sd.advance.mem 0x10000 4 = toBytes 4 (0x0E0311FE : BitVec 32).toNat; decide +kernel⟩
theorem okOf {ε α : Type} {r : Except ε α} (h : (match r with | .ok _ => true | .error _ => false) = true) : ∃ u, r = .ok u := by
  cases r with | ok u => exact ⟨u, rfl⟩ | error e => cases h
theorem errOf {ε α : Type} {r : Except ε α} (h : (match r with | .ok _ => false | .error _ => true) = true) : ∃ e, r = .error e := by
  cases r with | ok u => cases h | error e => exact ⟨e, rfl⟩
/-- The fetch's walk reads its entries; or waits for a foreign tenure over the table; or the cluster holds the translation. -/
def tabHeld : State := { sd with handles := [(5, { open_ := true, kind := 2, holder := 3, blocks := [⟨0, [], [64], []⟩], taken := 1 })] }
def sdCached : State := { sd with clusters := [(0, { tcache := [⟨0, 2, 0, 0x3F⟩] })] }
theorem test_wit_fetchWalk : (∃ u, sd.advance.fetchWalked 1 = .ok u) ∧ (∃ e, tabHeld.advance.fetchWalked 1 = .error e) ∧
    sdCached.advance.act.pc.toNat < 2 ^ 60 ∧ sdCached.advance.cached 0 sdCached.advance.act.pc.toNat ≠ none :=
  ⟨okOf (by decide +kernel), errOf (by decide +kernel), by decide +kernel, by decide +kernel⟩
/-- A word of an unassigned major; a pc that is not aligned; no translation at the pc. -/
def bad0 : State := (on {} []).withFetchWord 32 0
theorem test_wit_undecoded : Fetches bad0.advance [0] ∧ (∃ w, bad0.advance.fetchWalked 1 = .ok w) ∧ ∀ i, decode [0] ≠ .ok i := by
  refine ⟨⟨by decide, by decide, ?_⟩, okOf (by decide +kernel), ?_⟩
  · intro j h
    obtain rfl : j = 0 := Nat.lt_one_iff.1 h
    exact ⟨0x10000, res (by decide +kernel), by show Memory.readN bad0.advance.mem 0x10000 4 = toBytes 4 (0 : BitVec 32).toNat; decide +kernel⟩
  · intro i h; exact absurd (show (match decode [0] with | .ok _ => true | .error _ => false) = true by rw [h]) (by decide +kernel)
def odd : State := act' (on {} []) (fun a => { a with pc := 0x1002 })
theorem test_wit_misaligned : Acting odd odd.advance ∧ Issues odd.advance ∧ odd.advance.act.pc.toNat % 4 ≠ 0 := ⟨.inl ⟨rfl, rfl⟩, ⟨rfl, rfl, rfl, rfl, rfl, .inl rfl, rfl⟩, by decide⟩
theorem test_wit_noFetch : Acting (on {} []) (on {} []).advance ∧ Issues (on {} []).advance ∧ (on {} []).advance.act.pc.toNat % 4 = 0 ∧
    (match (on {} []).advance.resolve 0 true .fetch 0x1000 with | .ok _ => false | .error e => e == (.xlate, 0x1000)) = true ∧
    ∃ u, (on {} []).advance.walksTo 0x1000 .xlate 0x1000 = .ok u :=
  ⟨.inl ⟨rfl, rfl⟩, ⟨rfl, rfl, rfl, rfl, rfl, .inl rfl, rfl⟩, by decide, by decide +kernel, okOf (by decide +kernel)⟩
/-- The reads of a walk that fails take their times: XLATE, and the lease of the table's first line stands at 64 (R238, R243, R245). -/
theorem test_faultingWalk : (match exec .ld { act' sd (fun a => { a with sregs := a.sregs.set 4 ⟨0x40000000, 0⟩ }) with ir := { d := 3, a := 4, md := 3, imm := 0 } } with
    | .next u => (u.act.deferred.map (fun d => d.cause), (u.stamp 64).rts) | _ => ([], 0)) = ([.xlate], 64) := by decide +kernel
def scheduled : State := { on {} [] with sched := [.core 0, .event .ltimeTick { n := 5 }] }
def event1 : State := { on {} [] with sched := [.event .ltimeTick { n := 5 }] }
theorem test_wit_schedule : (∃ c l, scheduled.sched = .core c :: l ∧ Acting scheduled { scheduled.advance with sched := l, cur := c }) ∧ event1.sched = .event .ltimeTick { n := 5 } :: [] ∧
    event1.advance.plant.storm.phase = .up ∧ event1.advance.plant.boot.status = 0 := ⟨⟨0, _, rfl, .inr ⟨0, _, rfl, rfl⟩⟩, rfl, rfl, rfl⟩
/-- Majors 0 and 0x7F; a literal with major 0x7F; an extended 0x7F; an extended literal of major 0x08. -/
theorem test_wit_ReservedEncodings : lenOf 0x1FC00000 = 0 ∧ freeMajor (majorOf 0x1FC00000) = true ∧ freeMajor (majorOf 0) = true ∧ lenOf 0x9FC00000 = 2 ∧ literalMajor (majorOf 0x9FC00000) = false ∧
    lenOf 0x5FC00000 = 1 ∧ extendedMajor (majorOf 0x5FC00000) = false ∧ lenOf 0xC2000000 = 3 ∧ majorOf 0xC2000000 ≠ 0x09 ∧ majorOf 0xC2000000 ≠ 0x0A := by decide
/-- Words that have no form: FN 15 of major 0x05, a bit of OP of SYS; ADD has one. XFN 9 of major 0x02; ADD with a literal of 2. -/
theorem test_wit_forms : ¬ BaseForm 0x0140000F ∧ ¬ BaseForm 0x13000010 ∧ BaseForm 0x00451870 ∧ ¬ ExtendedForm 0x40800009 0 0 ∧ lenOf 0x40800009 = 1 ∧ ExtendedForm 0x40810830 0x0000D000 0 ∧
    lenOf 0x80400010 = 2 ∧ (0x80400010 : BitVec 32).toNat % 2 ^ 10 / 16 ≠ 0 := by
  unfold BaseForm ExtendedForm; decide +kernel
/-- EncodingRoundTrip and EveryStepKeepsMemoryCanonical have these. -/
theorem test_wit_wellFormed : (⟨.ld, { d := 62, a := 4, md := 4, imm := 0x7F }⟩ : Insn).wf = true ∧ (∃ i, decode [0x13000002] = .ok i) ∧ State.reset.Ok ∧ (mem' (on {} []) [(5, 1), (7, 2)]).Ok ∧
    (∃ t, exec .nop (on {} []) = .next t) ∧ ∃ t, step State.reset = .next t := by
  refine ⟨by decide, ⟨⟨.nop, {}⟩, by decide +kernel⟩, ?_, ?_, ⟨_, rfl⟩, ?_⟩
  · unfold State.Ok; decide
  · unfold State.Ok; decide
  · exact ⟨_, rfl⟩
/-- Job mode; a core whose allotment is the least: s16 is out of bounds, and v0; a label POISON; enabled flag NV. -/
def jb (o : Ops) : State := act' (on o []) (fun a => { a with sup := false })
def few : State := act' (on { d := 5, a := 16, b := 7 } []) (fun a => { a with sa := 2 })
def poisoned : State := act' (on { a := 6, b := 7 } []) (fun c => { c with sregs := c.sregs.set 7 { val := 3, lab := 0xFFFF } })
def enabled : State := act' (on {} []) (fun a => { a with flags := 0x1000100 })
theorem test_wit_InstructionTraps : (jb {}).act.sup = false ∧ listed 0x91 = false ∧ 0x91 < 0xC0 ∧ listed 0x8D = true ∧ supervisorOnly 0x8D = true ∧
    RU.s few.ir.d.toNat :: RU.s few.ir.a.toNat :: bRegs few = [.s 5] ++ .s 16 :: [.s 7] ∧ Named few [.s 5] ∧ ¬ Within few (.s 16) ∧ ¬ Within few (.a few.ir.d.toNat) ∧
    Named poisoned [.s poisoned.ir.a.toNat, .s poisoned.ir.b.toNat] ∧ poisoned.labOf (aReg poisoned).lab ≠ none ∧ poisoned.labOf (poisoned.act.rd poisoned.ir.b).lab = none ∧
    AtRest enabled ∧ enabled.act.flags.toNat / 2 ^ 8 % 2 = 1 ∧ enabled.act.flags.toNat / 2 ^ 24 % 2 = 1 ∧ (7 : Word).toNat % 8 ≠ 0 :=
  ⟨rfl, by decide, by decide, by decide, by decide, rfl, nm rfl, fun h => absurd (regOk_iff.2 h) (by decide), fun h => absurd (regOk_iff.2 h) (by decide), nm rfl, by decide, by decide,
    ⟨rfl, rfl, rfl, rfl⟩, by decide, by decide, by decide⟩
theorem test_wit_tfence : (ofBits 9 (fun i => decide (enabled.act.flags.toNat / 2 ^ (8 + i) % 2 = 1) && decide (enabled.act.flags.toNat / 2 ^ (24 + i) % 2 = 1))) ≠ 0 ∧
    (ofBits 9 (fun i => decide (w1.act.flags.toNat / 2 ^ (8 + i) % 2 = 1) && decide (w1.act.flags.toNat / 2 ^ (24 + i) % 2 = 1))) = 0 ∧
    enabled.act.elect = none ∧ CanTrap enabled .arith ∧ w5.act.outs ≠ [] ∧ w5.act.cancelled = false ∧ Alone w5.me :=
  ⟨by decide, by decide, rfl, ⟨rfl, rfl, rfl, .inr (by decide)⟩, List.cons_ne_nil _ _, rfl, rfl, rfl⟩
/-- The least allotment has no s63; and the words of J and CALL with their targets back by one word. -/
theorem test_wit_call : ¬ Within few (.s 63) := fun h => absurd (regOk_iff.2 h) (by decide)
theorem test_wit_j : (0x123FFFFF : BitVec 32).toNat / 2 ^ 22 % 128 = 0x48 ∧ (0x127FFFFF : BitVec 32).toNat / 2 ^ 22 % 128 = 0x49 ∧
    (0x127FFFFF : BitVec 32).toNat / 2 ^ 30 = 0 := by decide

/-! ### Words of the spec's encodings (R63, R67, R71, R74, R75, R77) -/

def reads (ws : List (BitVec 32)) (i : Insn) : Bool := match decode ws with | .ok j => j == i | .error _ => false
theorem test_decode_add : reads [0x00451870] ⟨.add, { d := 5, a := 6, b := 7 }⟩ = true := by decide +kernel
theorem test_decode_marker : reads [0x20410838] ⟨.sra, { sw := true, d := 1, a := 2, b := 3 }⟩ = true := by decide +kernel
theorem test_decode_li : reads [0x84490000, 0x00000200, 0x80000000] ⟨.li, { d := 9, lit := some 0x8000000000000200 }⟩ = true := by decide +kernel
theorem test_decode_addi : reads [0x02010BFF] ⟨.addi, { d := 1, a := 2, imm := 0x3FF }⟩ = true := by decide +kernel
theorem test_decode_vadd : reads [0x08048CC0] ⟨.vadd, { d := 1, a := 2, b := 3, k := 1, ew := 2 }⟩ = true := by decide +kernel
theorem test_decode_vld : reads [0x0B085681] ⟨.vld, { d := 2, a := 5, k := 3, ew := 1, imm := 1 }⟩ = true := by decide +kernel
theorem test_decode_bltu : reads [0x11010BFF] ⟨.bltu, { a := 1, b := 2, imm := 0x3FF }⟩ = true := by decide +kernel
theorem test_decode_call : reads [0x12600000] ⟨.call, { imm := 0x200000 }⟩ = true := by decide +kernel
theorem test_decode_aadd : reads [0x0F410830] ⟨.aadd, { d := 1, a := 2, b := 3 }⟩ = true := by decide +kernel
theorem test_decode_acas2 : reads [0x0F820C41] ⟨.acas2, { d := 2, a := 3, b := 4 }⟩ = true := by decide +kernel
theorem test_decode_lget : reads [0x0C010800] ⟨.lget, { d := 1, a := 2 }⟩ = true := by decide +kernel
theorem test_decode_sendv : reads [0x14010831] ⟨.sendv, { d := 1, a := 2, b := 3 }⟩ = true := by decide +kernel
theorem test_decode_getc : reads [0x13470084] ⟨.getc, { d := 7, imm := 0x84 }⟩ = true := by decide +kernel
theorem test_decode_halt : reads [0x13000005] ⟨.halt, {}⟩ = true := by decide +kernel
theorem test_decode_elect : reads [0x16000000] ⟨.elect, {}⟩ = true := by decide +kernel
theorem test_decode_vgath : reads [0x62421430, 0x00030003, 0x00000040] ⟨.vgath, { sw := true, d := 2, a := 5, b := 3, k := 1, ew := 2, md := 3, imm := 0x40 }⟩ = true := by decide +kernel
theorem test_decode_faddX : reads [0x40810830, 0x0000D000, 0x00000000] ⟨.faddX, { d := 1, a := 2, b := 3, ew := 1, rnd := 5 }⟩ = true := by decide +kernel
theorem test_decode_vfcvtn : reads [0x42010830, 0x00000000, 0x00000005] ⟨.vfcvtnN, { d := 1, a := 2, b := 3, imm := 5 }⟩ = true := by decide +kernel
theorem test_decode_topen : reads [0x44010830, 0x10000000, 0x00000000] ⟨.topen, { d := 1, a := 2, b := 3, c := 4 }⟩ = true := by decide +kernel
theorem test_decode_mma : reads [0x48010830, 0x10000000, 0x00000000] ⟨.mma, { d := 1, a := 2, b := 3, c := 4 }⟩ = true := by decide +kernel
theorem test_decode_btgo : reads [0x4A000830, 0x00000000, 0x00000000] ⟨.btgo, { a := 2, b := 3 }⟩ = true := by decide +kernel
theorem test_decode_clgo : reads [0x4AC10800, 0x00000000, 0x00000000] ⟨.clgo, { d := 1, a := 2 }⟩ = true := by decide +kernel
theorem test_decode_msave : reads [0x4E010830, 0x00000000, 0x00000000] ⟨.msave, { d := 1, a := 2, b := 3 }⟩ = true := by decide +kernel
theorem test_decode_tlbi : reads [0x4EC00420, 0x00000001, 0x00000000] ⟨.tlbiTn, { a := 1, b := 2 }⟩ = true := by decide +kernel

/-! ### An ill-formed term for each check of WellFormed -/

def refused (i : Insn) : Bool := !i.wf && !reads (encode i) i
theorem test_ill_shift : refused ⟨.shli, { imm := 64 }⟩ && refused ⟨.srai, { lit := some 64 }⟩ = true := by decide +kernel
theorem test_ill_index : refused ⟨.vext, { ew := 3, imm := 8 }⟩ && refused ⟨.vins, { ew := 2, imm := 16 }⟩ = true := by decide +kernel
theorem test_ill_allotment : refused ⟨.grow, { d := 1, a := 0 }⟩ && refused ⟨.shrink, { d := 9, a := 0 }⟩ && refused ⟨.grow, { d := 2, a := 5 }⟩ = true := by decide +kernel
theorem test_ill_fcvt : refused ⟨.fcvt, { x := 4, y := 5 }⟩ && refused ⟨.fcvt, { x := 0, y := 0 }⟩ && refused ⟨.fcvt, { x := 0, y := 1, rnd := 6 }⟩ = true := by decide +kernel
theorem test_ill_vcvt : refused ⟨.vcvt, { x := 3, y := 3 }⟩ && refused ⟨.vcvt, { x := 8, y := 3 }⟩ = true := by decide +kernel
theorem test_ill_vcmp : refused ⟨.vcmp, { md := 10 }⟩ = true := by decide +kernel
theorem test_ill_setc : (⟨.setc, { imm := 0x083 }⟩ : Insn).wf = false := by decide
theorem test_ill_quad : refused ⟨.ld, { d := 3, md := 4 }⟩ && refused ⟨.ld, { d := 0, md := 4 }⟩ && refused ⟨.st, { d := 3, md := 4 }⟩ && refused ⟨.st, { md := 5 }⟩ = true := by decide +kernel
theorem test_ill_acas2 : refused ⟨.acas2, { d := 3 }⟩ && refused ⟨.acas2, { d := 0 }⟩ && refused ⟨.acas2, { d := 2, b := 3 }⟩ = true := by decide +kernel
theorem test_ill_sendx : refused ⟨.sendx, { md := 5 }⟩ && refused ⟨.sendx, { md := 1, b := 3 }⟩ = true := by decide +kernel
theorem test_ill_vfcvtn : refused ⟨.vfcvtnN, { a := 3 }⟩ && refused ⟨.vfcvtnF, { d := 3 }⟩ && refused ⟨.vfcvtnN, { rnd := 7 }⟩ = true := by decide +kernel
theorem test_ill_rounding : refused ⟨.faddX, { rnd := 6 }⟩ && refused ⟨.fnmsX, { rnd := 6 }⟩ = true := by decide +kernel

/-! ### One step, with results worked out by hand from the spec -/

/-- The value of sd after an instruction, FLAGS, the pc, and the cause of a trap. -/
def sdAfter (i : Instr) (s : State) : Word := match exec i s with | .next u => (u.act.rd s.ir.d).val | _ => 0
def flagsAfter (i : Instr) (s : State) : Word := match exec i s with | .next u => u.act.flags | _ => 0
def pcAfter (i : Instr) (s : State) : Word := match exec i s with | .next u => u.act.pc | _ => 0
def op3 (a b : Word) : State := on { d := 5, a := 6, b := 7 } [(6, a), (7, b)]
/-- R148. -/
theorem test_add_wraps : sdAfter .add (op3 0xFFFFFFFFFFFFFFFF 2) = 1 := by decide +kernel
theorem test_sub_wraps : sdAfter .sub (op3 0 1) = 0xFFFFFFFFFFFFFFFF := by decide +kernel
theorem test_andn : sdAfter .andn (op3 0xF0F0 0xFF00) = 0x00F0 := by decide +kernel
theorem test_sra : sdAfter .sra (op3 0x8000000000000000 63) = 0xFFFFFFFFFFFFFFFF := by decide +kernel
theorem test_slt_signed : sdAfter .slt (op3 0xFFFFFFFFFFFFFFFF 0) = 1 := by decide +kernel
theorem test_sltu : sdAfter .sltu (op3 0xFFFFFFFFFFFFFFFF 0) = 0 := by decide +kernel
theorem test_mulhu : sdAfter .mulhu (op3 0xFFFFFFFFFFFFFFFF 0xFFFFFFFFFFFFFFFF) = 0xFFFFFFFFFFFFFFFE := by decide +kernel
theorem test_bswap : sdAfter .bswap (op3 0x0102030405060708 0) = 0x0807060504030201 := by decide +kernel
/-- R150: the 32-bit sum is sign-extended from bit 31. -/
theorem test_add_w : sdAfter .addW (op3 0x7FFFFFFF 1) = 0xFFFFFFFF80000000 := by decide +kernel
/-- R151 gives this one; the word is its own too. -/
theorem test_bfi : sdAfter .bfi (on { d := 4, a := 5, lit := some 0x105 } [(4, 0xFFFF), (5, 0x12)]) = 0xFE5F := by decide +kernel
theorem test_decode_bfi : reads [0x81441401, 0x00000105, 0] ⟨.bfi, { d := 4, a := 5, lit := some 0x105 }⟩ = true := by decide +kernel
/-- R152: IMM10 is signed. -/
theorem test_addi : sdAfter .addi (on { d := 5, a := 6, imm := 0x3FF } [(6, 0)]) = 0xFFFFFFFFFFFFFFFF := by decide +kernel
/-- R32: s0 discards. -/
theorem test_s0_discards : sdAfter .add (on { d := 0, a := 6, b := 7 } [(6, 1), (7, 1)]) = 0 := by decide +kernel
/-- R153, in binary32 and binary64: 1 + 1 is 2, and 1/3 is inexact (NX, R40). -/
theorem test_fadd : sdAfter .fadd { op3 0x3F800000 0x3F800000 with ir := { d := 5, a := 6, b := 7, t := 1 } } = 0x40000000 := by decide +kernel
theorem test_fmul : sdAfter .fmul { op3 0x4008000000000000 0x4000000000000000 with ir := { d := 5, a := 6, b := 7, t := 0 } } = 0x4018000000000000 := by decide +kernel
/-- R162: sixteen sums of 32 bits, without a carry between them. -/
def vv : State := act' (on { d := 1, a := 2, b := 3, ew := 2 } [])
  (fun c => { c with vregs := (c.vregs.set 2 { (c.vregs[2]) with val := 0xFFFFFFFFFFFFFFFF }).set 3 { (c.vregs[3]) with val := 1 } })
theorem test_vadd : (match exec .vadd vv with | .next u => (u.act.rdV 1).val | _ => 0) = 0xFFFFFFFF00000000 := by decide +kernel
/-- R166: the signed byte of LD.B, and the bytes of ST.H. -/
theorem test_ld_signed : sdAfter .ld { mem' (on { d := 4, a := 6, md := 0 } [(6, 0x8000000000000010)]) [(0x10, 0x80)] with raw := [0] } = 0xFFFFFFFFFFFFFF80 := by decide +kernel
theorem test_st_half : (match exec .st (on { d := 4, a := 6, md := 1 } [(4, 0x11223344), (6, 0x8000000000000010)]) with | .next u => u.mem | _ => []) =
    [(2 ^ 39 + 0x10, 0x44), (2 ^ 39 + 0x11, 0x33)] := by decide +kernel
/-- R178: a taken branch goes to its address plus 4 times OFF10; one not taken to the next word. -/
theorem test_bltu_taken : pcAfter .bltu { on { a := 6, b := 7, imm := 0x3FF } [(6, 1), (7, 2)] with raw := [0] } = 0xFFC := by decide +kernel
theorem test_bltu_not : pcAfter .bltu { on { a := 6, b := 7, imm := 0x3FF } [(6, 2), (7, 2)] with raw := [0] } = 0x1004 := by decide +kernel
/-- R179: CALL leaves the next address in s63. -/
theorem test_call : (match exec .call { on { imm := 2 } [] with raw := [0] } with | .next u => (u.act.pc, (u.act.rd 63).val) | _ => (0, 0)) = (0x1008, 0x1004) := by decide +kernel
/-- R38: COREID of core 0 is 0; FLAGS keeps what SETC wrote. -/
theorem test_trap : (match exec .trap { on { a := 6 } [(6, 9)] with raw := [0] } with | .next u => (u.me.xval, u.me.xpc, u.act.pc) | _ => (0, 0, 0)) = (9, 0x1000, 0x2000) := by decide +kernel
/-- R84, R86: TLBI in job mode. -/
theorem test_privileged : (match exec .tlbiAll { jb {} with raw := [0x4EC00000, 2, 0] } with | .next u => (u.me.xval, u.me.xpc) | _ => (0, 0)) = (0x24EC00000, 0x1000) := by decide +kernel
/-- A step fetches, decodes and executes: ADDI s5, s0, 3, which stands where the fetch reads, at 0x10000. -/
theorem test_step : (match step ((on {} []).withFetchWord 32 0x02050003) with | .next u => (u.act.pc, (u.act.rd 5).val) | _ => (0, 0)) = (0x10004, 3) := by decide +kernel

end Sys2Proof.Tests
end

/-! PROOFS. Control transfers (R137, R177 to R180): targets, the labels that enter CLAB, and the encodings of J and CALL. -/

namespace Sys2Proof.Spec

open Machine

variable {s t : State}

/-! ### Targets, POISON and the control label -/

theorem psOf_eq (h : Handle) : s.psOf h = ps s h := by
  simp [State.psOf, State.poison, ps, flagPS]

theorem notPoison_ok {r : Reg} (h : s.labOf r.lab ≠ none) : s.notPoison r = .ok () := by
  simp [State.notPoison, State.poison, h]

theorem noPoison_ok {l : List Reg} (h : ∀ r ∈ l, s.labOf r.lab ≠ none) : s.noPoison l = .ok () := by
  induction l with
  | nil => rfl
  | cons r l ih =>
    obtain ⟨hr, hl⟩ := List.forall_mem_cons.1 h
    simp [State.noPoison, notPoison_ok hr, ih hl]

/-- The model adds the sign-extended offset to the pc modulo 2^64; the statement adds integers (R67, R178). -/
theorem target_eq (n : Nat) : s.act.pc + (s.ir.imm.setWidth n).signExtend 64 * 4 = target s n := by
  rw [target, BitVec.ofInt_add, BitVec.ofInt_toInt, BitVec.mul_comm, BitVec.ofInt_mul, BitVec.ofNat_toNat]
  rfl

theorem inside_dropTmp (h : Handle) : Inside s (s.dropTmp h) := by
  unfold State.dropTmp
  split
  · exact inside_refl s
  · exact inside_clt _

@[simp] theorem act_dropTmp (h : Handle) : (s.dropTmp h).act = s.act := by
  unfold State.dropTmp
  split <;> rfl

theorem inside_writeClab (l : Handle) : Inside s (s.writeClab l) :=
  inside_trans (inside_swapRef _ _) (inside_setAct _)

@[simp] theorem act_writeClab (l : Handle) : (s.writeClab l).act = { s.act with clab := l } := by
  simp [State.writeClab]

theorem controlGets_refl (s : State) : ControlGets s s s.act.clab 0 := ⟨inside_refl s, by simp⟩

/-- The labels that decide a transfer enter CLAB (R137): a product of TRUE leaves the state as it is; any other takes the place of
CLAB in the table. -/
theorem joinClab_ok {hs : List Handle} {k : Handle} {f : Word} (h : Joins s hs k f) :
    ∃ t, s.joinClab hs = .ok t ∧ ControlGets s t k f := by
  obtain ⟨t, p, g, hp, hk⟩ := h
  obtain ⟨hst, hact⟩ := product_ok hp
  by_cases h0 : p = 0
  · rw [if_pos h0] at hk
    obtain ⟨rfl, rfl⟩ := hk
    exact ⟨s, by simp [State.joinClab, hp, h0, hTRUE], controlGets_refl s⟩
  · rw [if_neg h0] at hk
    obtain ⟨u, g', hu, rfl⟩ := hk
    obtain ⟨htu, hact'⟩ := product_ok hu
    refine ⟨((u.writeClab k).dropTmp p).orFlags ((g ||| g') &&& flagLW), ?_, ?_, by simp [hact, hact']⟩
    · rw [← hact] at hu
      simp only [State.joinClab, hp, hu]
      exact if_neg h0
    · exact inside_trans (inside_trans hst htu)
        (inside_trans (inside_trans (inside_writeClab k) (inside_dropTmp p)) (inside_orFlags _))

/-! ### Conditional branches -/

/-- A conditional transfer past its checks: CLAB changes whichever way it goes (R137, R177). -/
theorem branch_ok {ru : List RU} {srcs : List Reg} {k : Handle} {f : Word} (taken : Bool) (hn : Named s ru)
    (hp : ∀ r ∈ srcs, s.labOf r.lab ≠ none) (hj : Joins s (srcs.map (·.lab)) k f) :
    ∃ t, ControlGets s t k f ∧ s.runTo (s.branch ru srcs taken) = .next (t.finish (if taken then target s 10 else s.npc)) := by
  obtain ⟨t, ht, hc⟩ := joinClab_ok hj
  refine ⟨t, hc, ?_⟩
  simp only [State.branch, regs_ok hn, noPoison_ok hp, ht, State.runTo, Ops.off10, target_eq]

/-- A branch on two registers meets its statement when the model's test agrees with the condition. -/
theorem branchOp_of {i : Instr} {c d : Word → Word → Bool} (he : ∀ s, exec i s = s.runTo (s.branch2 d)) (hd : ∀ a b, d a b = true ↔ c a b = true) :
    BranchOp i c := by
  intro s k f hn ha hb hj
  rw [he, ← Bool.eq_iff_iff.2 (hd _ _)]
  exact branch_ok _ hn (by simpa using ⟨ha, hb⟩) hj

/-- As branchOp_of, for a branch on a mask. -/
theorem maskBranch_of {i : Instr} {c d : Word → Bool}
    (he : ∀ s, exec i s = s.runTo (s.branch [] [s.act.rdM s.ir.ka] (d (s.act.rdM s.ir.ka).val))) (hd : ∀ a, d a = true ↔ c a = true) :
    MaskBranch i c := by
  intro s k f ha hj
  rw [he, ← Bool.eq_iff_iff.2 (hd _)]
  exact branch_ok _ (List.forall_mem_nil _) (List.forall_mem_singleton.2 ha) hj

theorem beq_branches : BranchOp .beq (fun a b => decide (a.toNat = b.toNat)) :=
  branchOp_of (fun _ => rfl) (fun a b => by simp [BitVec.toNat_inj])
theorem bne_branches : BranchOp .bne (fun a b => decide (a.toNat ≠ b.toNat)) :=
  branchOp_of (fun _ => rfl) (fun a b => by simp [BitVec.toNat_inj])
theorem blt_branches : BranchOp .blt (fun a b => decide (a.toInt < b.toInt)) :=
  branchOp_of (fun _ => rfl) (fun _ _ => Iff.rfl)
theorem bge_branches : BranchOp .bge (fun a b => decide (b.toInt ≤ a.toInt)) :=
  branchOp_of (fun _ => rfl) (fun a b => by simp [BitVec.slt])
theorem bltu_branches : BranchOp .bltu (fun a b => decide (a.toNat < b.toNat)) :=
  branchOp_of (fun _ => rfl) (fun _ _ => Iff.rfl)
theorem bgeu_branches : BranchOp .bgeu (fun a b => decide (b.toNat ≤ a.toNat)) :=
  branchOp_of (fun _ => rfl) (fun a b => by simp [BitVec.ult])
theorem bmany_branches : MaskBranch .bmany (fun a => decide (a.toNat ≠ 0)) :=
  maskBranch_of (d := fun a => a != 0) (fun _ => rfl) (fun a => by simp [BitVec.toNat_eq])
theorem bmnone_branches : MaskBranch .bmnone (fun a => decide (a.toNat = 0)) :=
  maskBranch_of (d := fun a => a == 0) (fun _ => rfl) (fun a => by simp [BitVec.toNat_eq])

/-! ### Jumps and LOOP -/

/-- The link lands at once, with CLAB as its label (R178, R179); PS of a POISON link is log 36. -/
theorem link_ok {d : BitVec 6} (hd : Within s (.s d.toNat)) : ScalarGets s (s.link d) d (s.act.pc + 4) s.act.clab (ps s s.act.clab) := by
  rw [State.link, psOf_eq]
  exact scalarGets_of (inside_refl s) rfl hd

theorem j_ok (s : State) : exec .j s = .next (s.finish (target s 22)) :=
  congrArg (fun pc => Host.Outcome.next (s.finish pc)) (target_eq (s := s) 22)

theorem call_ok (hn : Within s (.s 63)) (hf : FreeS s 63) :
    ∃ u, exec .call s = .next (u.finish (target s 22)) ∧ ScalarGets s u 63 (s.act.pc + 4) s.act.clab (ps s s.act.clab) := by
  refine ⟨s.link 63, ?_, link_ok hn⟩
  have hr : s.regs [.s 63] = .ok () := regs_ok (List.forall_mem_singleton.2 hn)
  show execCall s = _
  simp only [execCall, hr, freeS_ok hf, State.runTo, Ops.off22, target_eq]

/-- CALL where s63 is outside the allotment, or a handler runs (R32, R178). -/
theorem call_regbound (hn : ¬ Within s (.s 63)) : exec .call s = .next (s.raise .regbound 63) := by
  have hr : s.regs [.s 63] = trapped .regbound 63 := if_neg (fun h => hn (regOk_iff.1 h))
  show execCall s = _
  simp only [execCall, hr, State.runTo, trapped]

/-- A change of the control label leaves the allotment, and whether a handler runs: the same registers may be named. -/
theorem controlGets_within {k : Handle} {f : Word} {r : RU} (h : ControlGets s t k f) (hr : Within s r) : Within t r := by
  obtain ⟨⟨-, -, hme, -, -⟩, ha⟩ := h
  cases r with
  | s n => simpa [Within, ha] using hr
  | v n => simpa [Within, ha] using hr
  | a n => simpa [Within, hme] using hr

/-- JR past its checks: CLAB changes first, and the link has the new one; the target was read before (R179). -/
theorem jr_ok {k : Handle} {f : Word} (hn : Named s [.s s.ir.d.toNat, .s s.ir.a.toNat]) (hf : FreeS s s.ir.d)
    (hp : s.labOf (aReg s).lab ≠ none) (hj : Joins s [(aReg s).lab] k f) :
    ∃ t u, ControlGets s t k f ∧ ScalarGets t u s.ir.d (s.act.pc + 4) k (ps t k) ∧ exec .jr s = .next (u.finish (aReg s).val) := by
  obtain ⟨t, ht, hc⟩ := joinClab_ok hj
  have hpc : t.act.pc = s.act.pc := by rw [hc.2]
  have hk : t.act.clab = k := by rw [hc.2]
  have hl := link_ok (controlGets_within hc (hn _ (List.mem_cons_self ..)))
  rw [hpc, hk] at hl
  refine ⟨t, t.link s.ir.d, hc, hl, ?_⟩
  show execJr s = _
  unfold aReg at hp ht ⊢
  simp only [execJr, regs_ok hn, freeS_ok hf, notPoison_ok hp, ht, State.runTo]

/-- The counter reaches 0 when it was 1. -/
theorem sub_one_ne_zero_iff (x : Word) : (x - 1 != 0) = true ↔ ¬ x.toNat = 1 := by
  rw [bne_iff_ne]
  bv_omega

/-- LOOP past its checks: nothing but CLAB changes when the counter is 0, else the counter goes down by one under its own label and
the new CLAB, and the transfer is taken unless it has reached 0 (R180). -/
theorem loop_ok {k : Handle} {f : Word} (hn : Within s (.s s.ir.a.toNat)) (hf : FreeS s s.ir.a)
    (hp : s.labOf (aReg s).lab ≠ none) (hj : Joins s [(aReg s).lab] k f) :
    ∃ t, ControlGets s t k f ∧ ((aReg s).val = 0 → exec .loop s = .next (t.finish s.npc)) ∧
      ((aReg s).val ≠ 0 → ∀ l g, Labels t [(aReg s).lab, k] l g →
        ∃ u, ScalarGets t u s.ir.a ((aReg s).val - 1) l g ∧
          exec .loop s = .next (u.finish (if (aReg s).val.toNat = 1 then s.npc else target s 10))) := by
  obtain ⟨t, ht, hc⟩ := joinClab_ok hj
  have hk : t.act.clab = k := by rw [hc.2]
  have hr : s.regs [.s s.ir.a.toNat] = .ok () := regs_ok (List.forall_mem_singleton.2 hn)
  have hloop : exec .loop s = s.runTo s.loopRes := rfl
  refine ⟨t, hc, fun h0 => ?_, fun h0 l g hl => ?_⟩
  · unfold aReg at hp ht h0
    simp only [hloop, State.loopRes, hr, freeS_ok hf, notPoison_ok hp, ht, h0, if_true, State.runTo]
  · obtain ⟨v, hv⟩ := hl
    obtain ⟨htv, hact⟩ := product_ok hv
    refine ⟨_, scalarGets_of htv hact (controlGets_within hc hn), ?_⟩
    unfold aReg at hp ht h0 hv ⊢
    simp only [hloop, State.loopRes, hr, freeS_ok hf, notPoison_ok hp, ht, h0, if_false, hk, hv, sub_one_ne_zero_iff, ite_not,
      State.runTo, Ops.off10, target_eq]

/-! ### The encodings of J and CALL -/

/-- The bits [28:22] of a word of bits, where the first word has MAJ (R63). -/
def majOf (w : BitVec 96) : BitVec 7 := w.extractLsb' 22 7

/-- A row that is hit has MAJ of the bits, as far as its mask reads it. -/
theorem majOf_pat_of_hit {r : Row} {w : BitVec 96} (h : r.hit w = true) : majOf r.pat = majOf w &&& majOf r.mask := by
  have h' : w &&& r.mask = r.pat := beq_iff_eq.1 h
  rw [← h', majOf, BitVec.extractLsb'_and, majOf, majOf]

/-- The row that is hit is found when no other row of the table can have the MAJ of the bits. -/
theorem find_row_of_majOf {rows : List Row} {r : Row} {w : BitVec 96} {m : BitVec 7} (hm : majOf w = m) (hr : r ∈ rows)
    (hu : ∀ q ∈ rows, majOf q.pat = m &&& majOf q.mask → q = r) (h : r.hit w = true) : rows.find? (·.hit w) = some r := by
  cases hf : rows.find? (·.hit w) with
  | none => exact absurd h (List.find?_eq_none.1 hf r hr)
  | some q => rw [hu q (List.mem_of_find?_eq_some hf) (hm ▸ majOf_pat_of_hit (List.find?_some (p := fun q : Row => q.hit w) hf))]

/-- The row of a jump of format J: MAJ, the switch marker and 22 bits of offset (R67, R178). -/
def jumpRow (i : Instr) (m : BitVec 7) : Row := ⟨i, m.setWidth 96 <<< 22, 0x1fc00000, [⟨.sw, 29, 1⟩, ⟨.imm, 0, 22⟩], .none⟩

/-- A mask of n bits from bit lo up keeps the field there. -/
theorem and_mask_eq_field {k : Nat} (w : BitVec k) (lo n : Nat) :
    w &&& (BitVec.allOnes n).setWidth k <<< lo = (w.extractLsb' lo n).setWidth k <<< lo := by
  ext j hj
  by_cases h : j < lo
  · simp [h]
  · have hj' : lo + (j - lo) = j := by omega
    simp [h, hj', BitVec.getLsbD_eq_getElem hj, Bool.and_comm]

theorem jumpRow_hit (i : Instr) (w : BitVec 96) : (jumpRow i (majOf w)).hit w = true :=
  beq_iff_eq.2 (and_mask_eq_field w 22 7)

theorem majOf_noLen (w : BitVec 32) : (majOf (noLen w)).toNat = w.toNat / 2 ^ 22 % 128 := by
  simp only [majOf, noLen, BitVec.extractLsb'_toNat, BitVec.toNat_ofNat, Nat.shiftRight_eq_div_pow]
  omega

theorem bits_noLen_29 (w : BitVec 32) : decide (bits (noLen w) 29 1 ≠ 0) = w.getLsbD 29 := by
  simp only [bits, noLen, BitVec.toNat_ofNat, BitVec.getLsbD, Nat.testBit_eq_decide_div_mod_eq, decide_eq_decide]
  omega

theorem bits_noLen_offset (w : BitVec 32) : (BitVec.ofNat 32 (bits (noLen w) 0 22)).toNat = w.toNat % 2 ^ 22 := by
  simp only [bits, noLen, BitVec.toNat_ofNat]
  omega

/-- A one-word instruction whose MAJ has a jump's row and no other decodes to the jump, with the offset and the marker of the word. -/
theorem decode_jump {i : Instr} {m : BitVec 7} {w : BitVec 32} (hlen : w.toNat / 2 ^ 30 = 0) (hm : w.toNat / 2 ^ 22 % 128 = m.toNat)
    (hr : jumpRow i m ∈ baseRows) (hu : ∀ q ∈ baseRows, majOf q.pat = m &&& majOf q.mask → q = jumpRow i m) (hwf : ∀ o, i.wf o = true) :
    ∃ o, decode [w] = .ok { op := i, ops := o } ∧ o.imm.toNat = w.toNat % 2 ^ 22 ∧ o.sw = w.getLsbD 29 := by
  have hmaj : majOf (noLen w) = m := BitVec.eq_of_toNat_eq ((majOf_noLen w).trans hm)
  have hfind : baseRows.find? (·.hit (noLen w)) = some (jumpRow i m) :=
    find_row_of_majOf hmaj hr hu (hmaj ▸ jumpRow_hit i (noLen w))
  refine ⟨(jumpRow i m).take (noLen w), ?_, bits_noLen_offset w, bits_noLen_29 w⟩
  simp only [decode, hlen, if_true, decodeBits, hfind, jumpRow, hwf]

theorem decode_j {w : BitVec 32} (hlen : w.toNat / 2 ^ 30 = 0) (hm : w.toNat / 2 ^ 22 % 128 = 0x48) :
    ∃ o, decode [w] = .ok { op := .j, ops := o } ∧ o.imm.toNat = w.toNat % 2 ^ 22 ∧ o.sw = w.getLsbD 29 :=
  decode_jump (m := 0x48) hlen hm (by decide +kernel) (by decide +kernel) (fun _ => rfl)

theorem decode_call {w : BitVec 32} (hlen : w.toNat / 2 ^ 30 = 0) (hm : w.toNat / 2 ^ 22 % 128 = 0x49) :
    ∃ o, decode [w] = .ok { op := .call, ops := o } ∧ o.imm.toNat = w.toNat % 2 ^ 22 ∧ o.sw = w.getLsbD 29 :=
  decode_jump (m := 0x49) hlen hm (by decide +kernel) (by decide +kernel) (fun _ => rfl)

end Sys2Proof.Spec

namespace Sys2Proof

open Machine Spec

/-- Settles O13, by one lemma for all the conditional branches (branch_ok), one for the change of CLAB (joinClab_ok) that JR and
LOOP share with them, and the decoder's search by MAJ (find_row_of_majOf). -/
theorem branchesAndJumps : Obligations.BranchesAndJumps := by
  refine ⟨⟨beq_branches, bne_branches, blt_branches, bge_branches, bltu_branches, bgeu_branches, bmany_branches, bmnone_branches⟩,
    j_ok, fun _ => call_ok, fun _ => call_regbound, fun w hlen p hp hm => ?_, fun _ _ _ => jr_ok, fun _ _ _ => loop_ok⟩
  simp only [List.mem_cons, List.not_mem_nil, or_false] at hp
  obtain rfl | rfl := hp
  · exact decode_j hlen hm
  · exact decode_call hlen hm

end Sys2Proof

/-! PROOFS. TFENCE, NOP, SLEEP, YIELD and DONE (R181, R332, R334): waits of a core with nothing else to run, traps, the enabled
flags, and the end of an activation that nothing counts. -/

namespace Sys2Proof.Spec

open Machine

variable {s : State}

/-! ### Waits and the next activation -/

/-- A wait on a core with nothing else to run leaves the activation parked and everything else as it was. -/
theorem parks_park (h : Alone s.me) (p : Park) (n : Word) : Parks s (s.park p n) p n := by
  rw [park_alone p n h.1 h.2]
  exact ⟨rfl, fun c hc => core_setMe_other s c _ hc, me_setMe s _⟩

theorem asMarker_atRest (h : AtRest s) : s.asMarker = .ok () := by
  obtain ⟨houts, hdef, hcan, hstop⟩ := h
  exact asMarker_ok houts hdef hcan hstop

/-- A marker waits for the outstanding results, before anything else but a cancellation (R80). -/
theorem asMarker_outstanding (ho : s.act.outs ≠ []) (hc : s.act.cancelled = false) :
    s.asMarker = .error (.final (s.park .outs s.act.pc)) := by
  simp [State.asMarker, State.marker, ho, hc]

/-- At rest and outside ELECT, a switch marker adds nothing to the end of an instruction. -/
theorem finish_atRest (h : AtRest s) (he : s.act.elect = none) (pc : Word) :
    s.finish pc = s.setMe { s.me with stallSince := none, twait := false, act := { s.act with pc := pc } } := by
  obtain ⟨houts, hdef, hcan, hstop⟩ := h
  simp [State.finish, State.electEnd, State.marker, he, houts, hdef, hcan, hstop]

/-- An idle core takes its one ready activation, when nothing is queued. -/
theorem dispatch_soleReady {c : Nat} {a : Act} (hrun : (s.core c).running = false) (hhalt : (s.core c).halted = false)
    (hstop : (s.core c).stopReq = false) (hready : (s.core c).ready = [a]) (hqueue : (s.core c).queue = []) :
    s.dispatch c = s.setCore c ((s.core c).runReady a) := by
  unfold State.dispatch
  simp only [hrun, hhalt, hstop, hready, hqueue, firstOf]
  cases (s.core c).freeSlot <;> rfl

/-! ### Traps -/

theorem fixed_eq (c : Cause) : c.fixed = decide (c ∈ [Cause.priv, .stop, .pfail, .checker, .nakfenced]) := by
  cases c <;> rfl

/-- Clearing the two low bits of an address rounds it down to a multiple of four. -/
theorem and_not_three (x : Word) : x &&& ~~~(3 : Word) = BitVec.ofNat 64 (x.toNat / 4 * 4) := by
  have hmask : ~~~(3 : Word) = (BitVec.allOnes 62).setWidth 64 <<< 2 := by decide
  rw [hmask, and_mask_eq_field]
  apply BitVec.eq_of_toNat_eq
  simp only [BitVec.toNat_shiftLeft, BitVec.toNat_setWidth, BitVec.extractLsb'_toNat, BitVec.toNat_ofNat, Nat.shiftRight_eq_div_pow,
    Nat.shiftLeft_eq]
  omega

theorem delegates_eq (c : Cause) : s.me.delegates c s.act.sup = delegated s c := by
  have h : ((s.me.uvec &&& ~~~3) != 0) = decide (4 ≤ s.me.uvec.toNat) := by
    rw [and_not_three, Bool.eq_iff_iff, bne_iff_ne, decide_eq_true_iff]
    bv_omega
  rw [Core.delegates, fixed_eq, h, delegated]

theorem xcause_eq (c : Cause) (d : Bool) :
    BitVec.ofNat 64 c.code ||| (if d then 0x100 else 0) = BitVec.ofNat 64 (c.code + if d then 256 else 0) := by
  cases c <;> cases d <;> rfl

/-- A trap with no result outstanding and no fault recorded is taken now. -/
theorem trapNow_quiet (ho : s.act.outs = []) (hd : s.act.deferred = []) (p : PendTrap) : s.trapNow p = s.takeTrap p := by
  simp [State.trapNow, ho, hd]

/-- Outside a handler and with a vector set, a trap starts its handler; PFAIL, which is first marked as taken, is left out. -/
theorem takeTrap_handler {p : PendTrap} (hc : p.cause ≠ .pfail) (ht : s.act.trap = none)
    (hv : s.me.delegates p.cause s.act.sup = true ∨ s.me.xvec ≠ 0) : s.takeTrap p = s.enterHandler p := by
  have hvec : ¬ ((!s.me.delegates p.cause s.act.sup && decide (s.me.xvec = 0)) = true) := by simpa [or_iff_not_imp_left] using hv
  rw [State.takeTrap, if_neg hc, ht]
  exact if_neg hvec

/-- A handler starts with the state of R336 and R337, for a trap that is no deferred fault and whose value is known (R409). -/
theorem trapTaken_enterHandler {c : Cause} {v xpc : Word} (hc : c ≠ .pfail) (hd : s.act.deferred = []) :
    TrapTaken s ((s.setMe { s.me with stallSince := none, twait := false }).enterHandler { cause := c, xval := v, xpc := xpc }) c v xpc := by
  have hvec : (if delegated s c then s.me.uvec else s.me.xvec) &&& ~~~(3 : Word) = vector s c := and_not_three _
  have hdel : ∀ q w, Core.delegates { s.me with stallSince := q, twait := w } c s.me.act.sup = delegated s c := fun _ _ => delegates_eq c
  have hdef : s.me.act.deferred = [] := hd
  unfold State.enterHandler
  refine ⟨by rw [trace_eq]; rfl, fun n hn => ?_, fun k => trace_cluster _ _ _ k, ?_, ?_⟩
  · rw [core_setMe_other _ n _ (by rw [trace_eq]; exact hn), trace_core]
    exact core_setMe_other s n _ hn
  · simp only [me_setMe, act_setMe, hdel, xcause_eq, hc, if_false]
    rfl
  · simp only [me_setMe, act_setMe, hdel, hvec, hdef, hd]
    rfl

/-- A trap that can be taken is taken at once (R336, R337). -/
theorem trapTaken_raise {c : Cause} (v : Word) (hc : c ≠ .pfail) (h : CanTrap s c) : TrapTaken s (s.raise c v) c v s.act.xpcOf := by
  obtain ⟨houts, hdef, htrap, hvec⟩ := h
  have hact : (s.setMe { s.me with stallSince := none, twait := false }).act = s.act := act_setMe s _
  rw [State.raise, trapNow_quiet (by rw [hact, houts]) (by rw [hact, hdef]), takeTrap_handler hc (by rw [hact, htrap])]
  · exact trapTaken_enterHandler hc hdef
  · rw [hact, me_setMe]
    exact hvec.imp_left (delegates_eq c).trans

/-- Outside ELECT, XPC is the address of the instruction itself (R336). -/
theorem trapTaken_raise_atPc {c : Cause} (v : Word) (hc : c ≠ .pfail) (h : CanTrap s c) (he : s.act.elect = none) :
    TrapTaken s (s.raise c v) c v s.act.pc := by
  have hxpc : s.act.xpcOf = s.act.pc := by simp [Act.xpcOf, he]
  exact hxpc ▸ trapTaken_raise v hc h

/-! ### TFENCE -/

/-- The flags that are both set and enabled, as R332 numbers them. -/
def trappingFlags (f : Word) : BitVec 9 :=
  ofBits 9 (fun i => decide (f.toNat / 2 ^ (8 + i) % 2 = 1) && decide (f.toNat / 2 ^ (24 + i) % 2 = 1))

theorem enabledFlags_eq (f : Word) : enabledFlags f = (trappingFlags f).setWidth 64 := by
  have hfield : ((f >>> 8) &&& (f >>> 24)).extractLsb' 0 9 = trappingFlags f := by
    ext i hi
    rw [← BitVec.getLsbD_eq_getElem hi, ← BitVec.getLsbD_eq_getElem hi, trappingFlags, getLsbD_ofBits]
    simp only [BitVec.getLsbD_extractLsb', BitVec.getLsbD_and, BitVec.getLsbD_ushiftRight, hi, decide_true, Bool.true_and, Nat.zero_add]
    simp only [BitVec.getLsbD, Nat.testBit_eq_decide_div_mod_eq]
  have hmask : (0x1FF : Word) = (BitVec.allOnes 9).setWidth 64 <<< 0 := by decide
  rw [enabledFlags, hmask, and_mask_eq_field, hfield, BitVec.shiftLeft_zero]

theorem enabledFlags_eq_zero_iff (f : Word) : enabledFlags f = 0 ↔ trappingFlags f = 0 := by
  rw [enabledFlags_eq]
  bv_omega

/-- XVAL of ARITH: the enabled flags stand in its bits [16:8] (R332). -/
theorem enabledFlags_shift (f : Word) : enabledFlags f <<< 8 = BitVec.ofNat 64 ((trappingFlags f).toNat * 2 ^ 8) := by
  rw [enabledFlags_eq]
  bv_omega

theorem tfence_waits (ho : s.act.outs ≠ []) (hc : s.act.cancelled = false) (ha : Alone s.me) :
    ∃ u, exec .tfence s = .next u ∧ Parks s u .outs s.act.pc := by
  refine ⟨_, ?_, parks_park ha .outs s.act.pc⟩
  show execTfence s = _
  simp only [execTfence, asMarker_outstanding ho hc, State.run]

theorem tfence_passes (h : AtRest s) (he : trappingFlags s.act.flags = 0) : exec .tfence s = .next (s.finish s.npc) := by
  show execTfence s = _
  simp only [execTfence, asMarker_atRest h, (enabledFlags_eq_zero_iff _).2 he, if_true, State.run]

theorem tfence_traps (h : AtRest s) (he : trappingFlags s.act.flags ≠ 0) :
    exec .tfence s = .next (s.raise .arith (BitVec.ofNat 64 ((trappingFlags s.act.flags).toNat * 2 ^ 8))) := by
  show execTfence s = _
  simp only [execTfence, asMarker_atRest h, mt (enabledFlags_eq_zero_iff _).1 he, if_false, trapped, enabledFlags_shift, State.run]

/-! ### SLEEP and YIELD -/

/-- SLEEP of no cycles waits for a message (R334). -/
theorem sleep_message (h : AtRest s) (hn : Within s (.s s.ir.a.toNat)) (ha : Alone s.me) (h0 : (aReg s).val = 0) :
    ∃ u, exec .sleep s = .next u ∧ Parks s u (.sleepMsg s.me.accepted) s.npc := by
  have hr : s.regs [.s s.ir.a.toNat] = .ok () := regs_ok (List.forall_mem_singleton.2 hn)
  refine ⟨_, ?_, parks_park ha (.sleepMsg s.me.accepted) s.npc⟩
  show execSleep s = _
  unfold aReg at h0
  simp [execSleep, hr, asMarker_atRest h, h0, State.run]

/-- SLEEP of n cycles waits until n cycles from now (R334). -/
theorem sleep_cycles (h : AtRest s) (hn : Within s (.s s.ir.a.toNat)) (ha : Alone s.me) (h0 : (aReg s).val ≠ 0)
    (hlt : (aReg s).val.toNat < 2 ^ 32) :
    ∃ u, exec .sleep s = .next u ∧ Parks s u (.sleep (s.clock + (aReg s).val)) s.npc := by
  have hr : s.regs [.s s.ir.a.toNat] = .ok () := regs_ok (List.forall_mem_singleton.2 hn)
  have hb : ¬ 0xFFFFFFFF < (aReg s).val.toNat := by omega
  refine ⟨_, ?_, parks_park ha (.sleep (s.clock + (aReg s).val)) s.npc⟩
  show execSleep s = _
  unfold aReg at h0 hb ⊢
  simp only [execSleep, hr, asMarker_atRest h, hb, h0, if_false, State.run]

/-- An activation that goes behind the ready ones of a core with nothing else to run is taken again at once (R302). -/
theorem dispatch_requeued (ha : Alone s.me) (hh : s.me.halted = false) (hs : s.me.stopReq = false) (a : Act) :
    ((s.setMe { s.me with running := false, ready := s.me.ready ++ [a] }).dispatch s.cur).me =
      Core.runReady { s.me with running := false, ready := [a] } a ∧
    ((s.setMe { s.me with running := false, ready := s.me.ready ++ [a] }).dispatch s.cur).mem = s.mem := by
  obtain ⟨hready, hqueue⟩ := ha
  rw [hready, List.nil_append]
  have hk : (s.setMe { s.me with running := false, ready := [a] }).core s.cur = { s.me with running := false, ready := [a] } := me_setMe s _
  rw [dispatch_soleReady (a := a) (by rw [hk]) (by rw [hk, hh]) (by rw [hk, hs]) (by rw [hk]) (by rw [hk, hqueue]), hk]
  exact ⟨core_setCore _ _ _, rfl⟩

/-- The activation that yields as the only one there is runs on, at its channel's priority (R181, R302). -/
theorem yield_alone (h : AtRest s) (ha : Alone s.me) (hh : s.me.halted = false) (he : s.act.elect = none) :
    ∃ u, exec .yield s = .next u ∧ u.me.running = true ∧ u.me.ready = [] ∧
      u.act = { s.act with pc := s.npc, level := s.me.prioOf s.act.chan, readyAt := s.clock } ∧ u.mem = s.mem := by
  have hy : exec .yield s = s.run s.yieldRes := rfl
  rw [hy, State.yieldRes, asMarker_atRest h]
  simp only [State.run]
  rw [finish_atRest h he]
  generalize ht : s.setMe { s.me with stallSince := none, twait := false, act := { s.act with pc := s.npc } } = t
  have hme : t.me = { s.me with stallSince := none, twait := false, act := { s.act with pc := s.npc } } := by rw [← ht, me_setMe]
  have hact : t.act = { s.act with pc := s.npc } := congrArg Core.act hme
  obtain ⟨-, -, -, hstop⟩ := h
  obtain ⟨hu, hmem⟩ := dispatch_requeued (s := t) (by rw [hme]; exact ha) (by rw [hme]; exact hh) (by rw [hme]; exact hstop)
    { t.act with level := t.me.prioOf t.act.chan, readyAt := t.clock }
  refine ⟨_, rfl, ?_, ?_, ?_, ?_⟩
  · rw [hu, Core.runReady]
  · rw [hu, Core.runReady]
    simp
  · rw [State.act, hu, Core.runReady, hact, hme, ← ht]
    rfl
  · rw [hmem, ← ht, setMe_mem]

/-! ### DONE -/

/-- References that are dropped change the label tables of clusters, and nothing outside the clusters (R124). -/
theorem unrefAll_eq (k : Nat) (l : List Handle) (s : State) : s.unrefAll k l = { s with clusters := (s.unrefAll k l).clusters } := by
  unfold State.unrefAll
  induction l generalizing s with
  | nil => rfl
  | cons h l ih =>
    rw [List.foldl_cons, ih]
    unfold State.unrefC
    split <;> rfl

/-- A counter that is free already stays so. -/
theorem freeCounter_free {t k : Nat} (h : (s.counter t k).state = .free) : s.freeCounter t k = s := by
  simp [State.freeCounter, h]

/-- Where no counter of the job is held, an activation that ends lets go of none (R327). -/
theorem dropHeld_none {t : Nat} (h : ∀ p ∈ (s.job t).counters, p.2.held = false) (c aid : Nat) : s.dropHeld t c aid = s := by
  have hf : (s.job t).counters.filter (fun p => p.2.held && p.2.core == c && p.2.aid == aid) = [] := by
    rw [List.filter_eq_nil_iff]
    intro p hp
    simp [h p hp]
  rw [State.dropHeld, hf]
  rfl

/-- A channel without records yields nothing, and a core with nothing else to run takes nothing. -/
theorem yieldAt_empty {c : Nat} {i : BitVec 6} (hr : ((s.core c).chans[i.toNat]'i.isLt).recs = []) (ha : Alone (s.core c)) :
    s.yieldAt c i = s := by
  rw [State.yieldAt, State.yieldQ, hr]
  exact dispatch_alone ha.1 ha.2

/-- A channel with no other record is free of its activation and holds none (R298). -/
theorem freeRec_sole {ch : Chan} (h : ch.recs = []) (r : Rec) : (ch.freeRec r).act = false ∧ (ch.freeRec r).recs = [] := by
  simp [Chan.freeRec, Chan.freeUnits, h, Chan.trim]

/-- The core of an activation that has ended: its channel's record is freed. -/
def withoutRec (k : Core) (a : Act) : Core :=
  { k with chans := k.chans.set a.chan.toNat ((k.chans[a.chan.toNat]'a.chan.isLt).freeRec a.rcd) a.chan.isLt }

theorem withoutRec_chan (k : Core) (a : Act) :
    (withoutRec k a).chans[a.chan.toNat]'a.chan.isLt = (k.chans[a.chan.toNat]'a.chan.isLt).freeRec a.rcd := by
  simp [withoutRec]

/-- A state in which a CCWAIT that an activation was at, if any, no longer waits (R304). -/
def leaveWait (s : State) (t : Nat) : Option Nat → State
  | none => s
  | some key => (s.setCounter t key { s.counter t key with waiters := (s.counter t key).waiters - 1 }).freeCounter t key

/-- In a job without counters, a wait that is left concerns a free counter, and its end changes that counter alone. -/
theorem leaveWait_noCounters {t : Nat} (h : (s.job t).counters = []) (w : Option Nat) :
    leaveWait s t w = { s with jobs := (leaveWait s t w).jobs } ∧ ∀ p ∈ ((leaveWait s t w).job t).counters, p.2.held = false := by
  cases w with
  | none => simp [leaveWait, h]
  | some key =>
    have hc : s.counter t key = {} := by simp [State.counter, h]
    rw [leaveWait, freeCounter_free (by simp [State.setCounter, State.counter, h])]
    refine ⟨rfl, ?_⟩
    simp [State.setCounter, hc, h, fset]

/-- The end of an activation that no counter, gang or held message names, by its steps. -/
theorem endAct_uncounted_eq {c : Nat} {a : Act} (hctr : a.rcd.ctr = 0) (hub : a.rcd.ubuf = none) (hg : a.gang = none) {t : State}
    (ht : (s.trace c 2 (traceAt a.chan.toNat a.pc)).unrefAll (c / 8) a.labs = t) :
    s.endAct c a = ((leaveWait (t.setCore c (withoutRec (t.core c) a)) (t.core c).tslot.toNat a.waits).dropHeld
      (t.core c).tslot.toNat c a.aid).yieldAt c a.chan := by
  unfold State.endAct
  rw [ht, hctr, hub, hg]
  cases a.waits <;> rfl

/-- The end of an activation that nothing counts, where nothing else waits, frees its channel's record and leaves the rest of the core. -/
theorem endAct_uncounted {c : Nat} {a : Act} (hctr : a.rcd.ctr = 0) (hub : a.rcd.ubuf = none) (hg : a.gang = none)
    (hcs : (s.job (s.core c).tslot.toNat).counters = []) (hr : ((s.core c).chans[a.chan.toNat]'a.chan.isLt).recs = [])
    (ha : Alone (s.core c)) :
    (s.endAct c a).core c = withoutRec (s.core c) a ∧ (s.endAct c a).cur = s.cur ∧ (s.endAct c a).mem = s.mem := by
  generalize ht : (s.trace c 2 (traceAt a.chan.toNat a.pc)).unrefAll (c / 8) a.labs = t
  have hts : t = { s with clusters := t.clusters } := by rw [← ht, unrefAll_eq, trace_eq]
  have hcore : t.core c = s.core c := by rw [hts]; rfl
  have hjobs : t.jobs = s.jobs := by rw [hts]
  rw [endAct_uncounted_eq hctr hub hg ht, hcore]
  obtain ⟨hw, hheld⟩ := leaveWait_noCounters (s := t.setCore c (withoutRec (s.core c) a)) (t := (s.core c).tslot.toNat)
    (by simpa [State.job, hjobs] using hcs) a.waits
  have hk : (leaveWait (t.setCore c (withoutRec (s.core c) a)) (s.core c).tslot.toNat a.waits).core c = withoutRec (s.core c) a := by
    rw [hw]
    exact core_setCore t c _
  rw [dropHeld_none hheld, yieldAt_empty (by rw [hk, withoutRec_chan]; exact (freeRec_sole hr a.rcd).2) (by rw [hk]; exact ha)]
  exact ⟨hk, by rw [hw, setCore_cur, hts], by rw [hw, setCore_mem, hts]⟩

/-- The running activation ends, and a core with nothing else to run stays idle (R181, R302). -/
theorem endRunning_uncounted (hctr : s.act.rcd.ctr = 0) (hub : s.act.rcd.ubuf = none) (hg : s.act.gang = none)
    (hcs : (s.job s.slot).counters = []) (hr : (s.me.chans[s.act.chan.toNat]'s.act.chan.isLt).recs = []) (ha : Alone s.me) :
    s.endRunning.me = withoutRec { s.me with running := false, act := Act.blank } s.act ∧ s.endRunning.mem = s.mem := by
  have hidle : (s.setMe { s.me with running := false, act := Act.blank }).core s.cur = { s.me with running := false, act := Act.blank } :=
    me_setMe s _
  obtain ⟨hk, hcur, hmem⟩ := endAct_uncounted (s := s.setMe { s.me with running := false, act := Act.blank }) (c := s.cur) hctr hub hg
    (by rw [hidle]; exact hcs) (by rw [hidle]; exact hr) (by rw [hidle]; exact ha)
  rw [hidle] at hk
  rw [State.endRunning, dispatch_alone (by rw [hk]; exact ha.1) (by rw [hk]; exact ha.2)]
  refine ⟨?_, hmem⟩
  rw [State.me, hcur]
  exact hk

/-- DONE with nothing outstanding ends the activation (R181, R298). -/
theorem done_ends (ho : s.act.outs = []) (hd : s.act.deferred = []) (hu : s.act.unanswered = 0) : exec .done s = .next s.endRunning := by
  show s.run s.doneRes = _
  simp [State.doneRes, State.run, ho, hd, hu]

end Sys2Proof.Spec

namespace Sys2Proof

open Machine Spec

/-- Settles O15: each instruction by the outcome of its marker, and then by the lemma of what it does, parks_park for the waits,
trapTaken_raise_atPc for ARITH and endRunning_uncounted for DONE. -/
theorem systemFlow : Obligations.SystemFlow := by
  refine ⟨fun _ => rfl, fun _ => tfence_waits, fun s => ?_, fun _ => sleep_message, fun _ => sleep_cycles, fun _ => yield_alone, ?_⟩
  · exact fun h => ⟨tfence_passes h, fun he => ⟨tfence_traps h he, fun hel hct => trapTaken_raise_atPc _ (by decide) hct hel⟩⟩
  · intro s ho hd hu ha hctr hub hg hcs hr
    obtain ⟨hme, hmem⟩ := endRunning_uncounted hctr hub hg hcs hr ha
    refine ⟨_, done_ends ho hd hu, congrArg Core.running hme, congrArg Core.act hme, by rw [hme]; rfl, ?_, hmem⟩
    rw [hme, withoutRec_chan]
    exact (freeRec_sole hr _).1

end Sys2Proof
